-- ==== Sys2Proof/Word.lean ====
section
/-! DEFINITION. The word types of the Naolo 384 (R5: little-endian, bit 0 least significant). -/

namespace Sys2Proof

abbrev Byte := BitVec 8
abbrev W16 := BitVec 16
abbrev W32 := BitVec 32
abbrev W64 := BitVec 64
/-- A vector register: lane i is bits 32 i + 31 to 32 i (R124). -/
abbrev VReg := BitVec 2048
/-- The payload of a LIMM slot, bits [27:0] (R28). -/
abbrev Limm := BitVec 28

end Sys2Proof
end

