-- ==== Sys2Proof/Syntax.lean ====
section
/-! DEFINITION. The instructions and events of spec/opcode_table.json, one constructor per row.
A slot constructor carries the operand fields of its form (R21 to R27), the guard g where its kind has
one (R20), and in x the LIMM that extends it, where R29 lets one (log 10). The stop bit is framing of
the bundle and belongs to no instruction (R13, log 11). An event constructor carries what the agent
that takes the step decides or supplies (log 2). -/

namespace Sys2Proof

/-- A launch record: sixteen 64-bit words (R338). -/
structure LaunchRec where
  w : Vector W64 16
deriving DecidableEq, Repr

/-- The fields of a job record that its creator writes (R361), with the ASID slot under which its VAs translate (log 12);
D fields start as R361 and R364 give. -/
structure JobRec where
  part     : BitVec 4
  job      : W32
  stream   : Bool          -- TYPE: false session, true stream
  sc       : BitVec 2
  alt      : Bool
  rung     : BitVec 3
  kvBase   : W64
  kvLen    : W64
  pool     : W64
  compRing : W64
  compLen  : W32
  drawBase : BitVec 128
  drawKey  : W64
  period   : W64
  deadline : W64
  ladder   : W64
  raise    : W32
  target   : W32
  slot     : BitVec 12
deriving DecidableEq, Repr

/-- The eight placement isometries (R341). -/
inductive Iso where
  | id | t90 | t180 | t270 | mh | mv | md | ma
deriving DecidableEq, Repr

/-- Where a gang is placed: cluster, isometry and translation (R341). -/
structure Placement where
  cluster : BitVec 5
  iso     : Iso
  dr      : Nat
  dc      : Nat
deriving DecidableEq, Repr

/-- The place of a launch in the work hierarchy: partition, job, graph sequence number, launch index (R343). -/
structure LaunchId where
  part   : BitVec 4
  job    : W32
  graph  : W16
  launch : Nat
deriving DecidableEq, Repr

/-- The level a cancel names (R359). -/
inductive CancelLevel where
  | gang (l : LaunchId) (gang : Nat)
  | launch (l : LaunchId)
  | graph (part : BitVec 4) (job : W32) (graph : W16)
  | job (part : BitVec 4) (job : W32)
deriving DecidableEq, Repr

/-- The partition descriptor's fields (R484). -/
structure PartDesc where
  part       : BitVec 4
  clusters   : BitVec 24
  memQ       : Nat
  llcQ       : Nat
  pinQ       : Nat
  asidBase   : Nat
  asidCount  : Nat
  weight     : Vector Nat 4
  tl         : Vector Nat 4
  mcRing     : W64
  mcLen      : Nat
  faultRing  : W64
  faultLen   : Nat
  evRing     : W64
  evLen      : Nat
deriving DecidableEq, Repr

/-- A frame ring's registration fields (R461), with the ASID slot under which its VAs translate (log 12). -/
structure FrameRingReg where
  fr     : BitVec 6
  part   : BitVec 4
  nslot  : Nat
  w      : Nat
  h      : Nat
  base   : W64
  matrix : BitVec 2
  range  : BitVec 2
  affine : W64
  fhead0 : W32
  slot   : BitVec 12
deriving DecidableEq, Repr

/-- A ring of a unit of a launch: unit index and ring number. -/
structure RingRef where
  unit : W32
  q    : BitVec 6
deriving DecidableEq, Repr

/-- A job template's fields (R457): JOBREC is the VA of its job record template; the launch records of the first graph are given by
value (log 67). -/
structure TemplateReg where
  part     : BitVec 4
  template : W16
  model    : W32
  vocab    : BitVec 4
  jobRec   : W64
  graph    : List LaunchRec
  inRing   : RingRef
  outRing  : RingRef
  rpRing   : RingRef
  blocks   : W64
  nblocks  : Nat
  slot     : BitVec 12
deriving DecidableEq, Repr

/-- A peer-copy landing (R492). -/
structure LandingReg where
  part   : BitVec 4
  index  : W16
  unit   : W32
  q      : BitVec 6
  count  : W64
  vector : Option (BitVec 6)
  slot   : BitVec 12
deriving DecidableEq, Repr

/-- What comes with a firmware image: the public key and the signature (R494). -/
structure Signed where
  key : List Byte
  sig : List Byte
deriving DecidableEq, Repr

/-- The source of a machine check (R489). -/
inductive McSource where
  | gddr | llc | tag | scratchpad | istore | link
deriving DecidableEq, Repr

/-- A rewrite of an image in the context area before a resume (R382). -/
inductive AreaWrite where
  | g (r : BitVec 6) (v : W64)
  | cr (n : Byte) (v : W64)
  | v (r : BitVec 5) (v : VReg)
  | savepc (v : W64)
deriving DecidableEq, Repr

/-- A peer chunk as it arrives at this package (R240, R241): its header's fields, and where the bytes of its payload go, as
runs of (VA, bytes) in stream order, none for bytes of elements out of bounds, which go nowhere; under the identifier slot and gen. -/
structure Chunk where
  seq     : W32
  src     : W16
  index   : W16
  count   : W16
  offset  : W64
  crc     : W32
  payload : List Byte
  dest    : List (Option W64 × Nat)
  slot    : BitVec 12
  gen     : BitVec 4
  part    : BitVec 4
  land    : W16
deriving DecidableEq, Repr

/-- The element type of an atomic (R38). -/
inductive AtomTy where
  | i32 | i64 | f32 | bf16 | i128
deriving DecidableEq, Repr

inductive AtomOp where
  | add | min | max | and | or | xor | swap | cas
deriving DecidableEq, Repr

/-- A request of an agent outside the modelled core as it reaches its home here: of another core or an edge agent of this package (R253), or
of a peer package of the domain (R272, R310). Its package, identifier, class and VA, and what a fault record says of it (R323):
cluster (0x1F for an edge agent), physical core, agent and unit index. -/
structure AgentReq where
  package : BitVec 5
  slot    : BitVec 12
  gen     : BitVec 4
  cls     : BitVec 4
  va      : W64
  cluster : BitVec 5
  pcore   : BitVec 4
  agent   : BitVec 2
  unit    : W32
deriving DecidableEq, Repr

/-- What another core's engine writes into the scratchpad of a core of the gang: a row packet of its round (R424), or lines of its ladle
read's tile (R302). by_: its bit of PERM; to a slot of a ring, or to a local address; its bytes by their offset there. slot: the index
that earlier lines of the same tile reserved; more: further lines are to come before the slot is committed. -/
structure FarPut where
  core  : BitVec 4
  ring  : Option (BitVec 6)
  addr  : BitVec 21
  by_   : BitVec 5
  bytes : List (Nat × List Byte)
  slot  : Option W16
  more  : Bool
deriving DecidableEq, Repr

/-- Who makes a request at a slice: the unit, by one of its accesses; or an agent outside the modelled core: a read of n bytes, a write,
an atomic or a reduction contribution (R253, R272, R285, R287). -/
inductive Requester where
  | unit (acc : Nat)
  | read (r : AgentReq) (n : Nat)
  | write (r : AgentReq) (bs : List Byte)
  | atom (r : AgentReq) (op : AtomOp) (ty : AtomTy) (v expected : BitVec 128)
  | red (r : AgentReq) (ty : BitVec 2) (nm1 rank : BitVec 12) (v : W64)
deriving DecidableEq, Repr

/-- What a unit on another core of the gang does in its own scratchpad: a local store, or an instruction on one of its rings (R84, R209 to
R211). -/
inductive CoreStep where
  | store (addr : BitVec 21) (bs : List Byte)
  | config (q : BitVec 6) (words : Option (W64 × W64))
  | reserve (q : BitVec 6) (n : Nat)
  | commit (q : BitVec 6) (n : Nat)
  | fill (q : BitVec 6) (index : W16)
  | free (q : BitVec 6) (n : Nat)
deriving DecidableEq, Repr

/-- What arrives at the cluster stop: a response packet by its number (R302), a write of another core's engine, what a unit on another
core of the gang does in its own scratchpad, the arrival of a unit on another core at its job's phase by PHASE (R350), or a media command of a
unit on another core: a PXTILE with its words G[b], G[c] and the bytes
of its one or two tiles (R465 to R467), or an ENCFRM of a unit of this cluster with its word G[b], its agent's va being G[a] (R471). -/
inductive Delivery where
  | packet (n : Nat)
  | far (x : FarPut)
  | step (core : BitVec 4) (x : CoreStep)
  | arrive (l : LaunchId) (unit : W32)
  | tile (part : BitVec 4) (cluster : BitVec 5) (b c : W64) (x y : List Byte)
  | encfrm (part : BitVec 4) (job : W32) (r : AgentReq) (b : W64)
deriving DecidableEq, Repr

/-- Flits of a remote feeder's group: the slices that another core sends; or the last slice of the head slot of a ring of this core that
feeders of other cores alone take (R176). -/
inductive MeshFlits where
  | slices (xs : List (BitVec 1024))
  | away (q : BitVec 6)
deriving DecidableEq, Repr

inductive Instr where
  -- scalar slots (R37)
  | add (d a b : BitVec 6) (g : BitVec 4)
  | sub (d a b : BitVec 6) (g : BitVec 4)
  | and (d a b : BitVec 6) (g : BitVec 4)
  | or (d a b : BitVec 6) (g : BitVec 4)
  | xor (d a b : BitVec 6) (g : BitVec 4)
  | andn (d a b : BitVec 6) (g : BitVec 4)
  | shl (d a b : BitVec 6) (g : BitVec 4)
  | shr (d a b : BitVec 6) (g : BitVec 4)
  | sar (d a b : BitVec 6) (g : BitVec 4)
  | rotl (d a b : BitVec 6) (g : BitVec 4)
  | mul (d a b : BitVec 6) (g : BitVec 4)
  | mulh (d a b : BitVec 6) (g : BitVec 4)
  | mulhu (d a b : BitVec 6) (g : BitVec 4)
  | div (d a b : BitVec 6) (g : BitVec 4)
  | divu (d a b : BitVec 6) (g : BitVec 4)
  | rem (d a b : BitVec 6) (g : BitVec 4)
  | remu (d a b : BitVec 6) (g : BitVec 4)
  | min (d a b : BitVec 6) (g : BitVec 4)
  | max (d a b : BitVec 6) (g : BitVec 4)
  | minu (d a b : BitVec 6) (g : BitVec 4)
  | maxu (d a b : BitVec 6) (g : BitVec 4)
  | addi (d a i : BitVec 6) (g : BitVec 4) (x : Option Limm)
  | andi (d a i : BitVec 6) (g : BitVec 4) (x : Option Limm)
  | ori (d a i : BitVec 6) (g : BitVec 4) (x : Option Limm)
  | xori (d a i : BitVec 6) (g : BitVec 4) (x : Option Limm)
  | shli (d a i : BitVec 6) (g : BitVec 4)
  | shri (d a i : BitVec 6) (g : BitVec 4)
  | sari (d a i : BitVec 6) (g : BitVec 4)
  | clz (d a : BitVec 6) (g : BitVec 4)
  | ctz (d a : BitVec 6) (g : BitVec 4)
  | popc (d a : BitVec 6) (g : BitVec 4)
  | sext (d a w : BitVec 6) (g : BitVec 4)
  | zext (d a w : BitVec 6) (g : BitVec 4)
  | bext (d a b : BitVec 6) (g : BitVec 4)
  | bins (d a b : BitVec 6) (g : BitVec 4)
  | adds0 (d a b : BitVec 6) (g : BitVec 4)
  | adds1 (d a b : BitVec 6) (g : BitVec 4)
  | adds2 (d a b : BitVec 6) (g : BitVec 4)
  | adds3 (d a b : BitVec 6) (g : BitVec 4)
  | cmp (c p : BitVec 3) (a b : BitVec 6) (g : BitVec 4)
  | cmpi (c p : BitVec 3) (a i : BitVec 6) (g : BitVec 4) (x : Option Limm)
  | plog (d : BitVec 3) (f : BitVec 4) (a b : BitVec 3) (g : BitVec 4)
  | sel (d a : BitVec 6) (p b : BitVec 3) (g : BitVec 4)
  | movw (d : BitVec 6) (i : BitVec 12) (g : BitVec 4)
  | br (o : BitVec 18) (g : BitVec 4)
  | call (o : BitVec 18) (g : BitVec 4)
  | jr (a : BitVec 6) (g : BitVec 4)
  | jt (d : BitVec 6) (i : BitVec 12) (g : BitVec 4)
  | loop (n : BitVec 2) (a : BitVec 6) (d : BitVec 9) (g : BitVec 4)
  | loopi (n : BitVec 2) (c : BitVec 6) (d : BitVec 9) (g : BitVec 4) (x : Option Limm)
  | trap (c : BitVec 12) (g : BitVec 4)
  | brk (c : BitVec 12) (g : BitVec 4)
  | exit (g : BitVec 4)
  | yield (g : BitVec 4)
  | trigger (g : BitVec 4)
  | waitdep (g : BitVec 4)
  | phase (g : BitVec 4)
  | wait (nl ns nc nt : BitVec 4) (g : BitVec 4)
  | fence (scope : BitVec 3) (mask : BitVec 15) (g : BitVec 4)
  | mfcr (d : BitVec 6) (n : BitVec 11) (g : BitVec 4)
  | mtcr (d : BitVec 6) (n : BitVec 11) (g : BitVec 4)
  -- what comes about when a control-register write lands or is made
  | crLdepthWrite (v : W64)
  | crLstartLendWrite (n : BitVec 11) (v : W64)
  | crBankfWrite (bank : BitVec 4) (v : W64)
  | crQidxWrite (v : W64)
  | crGxmodeWrite (v : W64)
  | crCbarWrite (core : BitVec 4) (v : W64)
  | crDrawhiWrite (v : W64)
  | crFlagsetWrite (v : W64)
  -- scalar memory
  | ldl (d a : BitVec 6) (c : BitVec 4) (z : BitVec 2) (g : BitVec 4) (x : Option Limm)
  | stl (d a : BitVec 6) (c : BitVec 4) (z : BitVec 2) (g : BitVec 4) (x : Option Limm)
  | ldg (d a : BitVec 6) (c : BitVec 4) (z : BitVec 2) (g : BitVec 4) (x : Option Limm)
  | stg (d a : BitVec 6) (c : BitVec 4) (z : BitVec 2) (g : BitVec 4) (x : Option Limm)
  | red (d a : BitVec 6) (c : BitVec 4) (z : BitVec 2) (g : BitVec 4) (x : Option Limm)
  | atomAdd (d a : BitVec 6) (c : BitVec 4) (w : BitVec 2) (g : BitVec 4) (x : Option Limm)
  | atomMin (d a : BitVec 6) (c : BitVec 4) (w : BitVec 2) (g : BitVec 4) (x : Option Limm)
  | atomMax (d a : BitVec 6) (c : BitVec 4) (w : BitVec 2) (g : BitVec 4) (x : Option Limm)
  | atomAnd (d a : BitVec 6) (c : BitVec 4) (w : BitVec 2) (g : BitVec 4) (x : Option Limm)
  | atomOr (d a : BitVec 6) (c : BitVec 4) (w : BitVec 2) (g : BitVec 4) (x : Option Limm)
  | atomXor (d a : BitVec 6) (c : BitVec 4) (w : BitVec 2) (g : BitVec 4) (x : Option Limm)
  | atomSwap (d a : BitVec 6) (c : BitVec 4) (w : BitVec 2) (g : BitVec 4) (x : Option Limm)
  | atomCas (d a : BitVec 6) (c : BitVec 4) (w : BitVec 2) (g : BitVec 4) (x : Option Limm)
  | atomw (d a : BitVec 6) (c : BitVec 4) (g : BitVec 4) (x : Option Limm)
  -- vector slots (R39)
  | vadd (d a b : BitVec 5) (m : BitVec 3) (z : Bool) (t : BitVec 2)
  | vsub (d a b : BitVec 5) (m : BitVec 3) (z : Bool) (t : BitVec 2)
  | vmul (d a b : BitVec 5) (m : BitVec 3) (z : Bool) (t : BitVec 2)
  | vfma (d a b : BitVec 5) (m : BitVec 3) (z : Bool) (t : BitVec 2)
  | vmax (d a b : BitVec 5) (m : BitVec 3) (z : Bool) (t : BitVec 2)
  | vmin (d a b : BitVec 5) (m : BitVec 3) (z : Bool) (t : BitVec 2)
  | vabs (d a : BitVec 5) (m : BitVec 3) (z : Bool) (t : BitVec 2)
  | vneg (d a : BitVec 5) (m : BitVec 3) (z : Bool) (t : BitVec 2)
  | vcmp (c : BitVec 2) (k : BitVec 3) (a b : BitVec 5) (m : BitVec 3) (z : Bool)
  | viadd (d a b : BitVec 5) (m : BitVec 3) (z : Bool) (t : BitVec 2)
  | visub (d a b : BitVec 5) (m : BitVec 3) (z : Bool) (t : BitVec 2)
  | vimul (d a b : BitVec 5) (m : BitVec 3) (z : Bool) (t : BitVec 2)
  | vimulh (d a b : BitVec 5) (m : BitVec 3) (z : Bool) (t : BitVec 2)
  | vand (d a b : BitVec 5) (m : BitVec 3) (z : Bool) (t : BitVec 2)
  | vor (d a b : BitVec 5) (m : BitVec 3) (z : Bool) (t : BitVec 2)
  | vxor (d a b : BitVec 5) (m : BitVec 3) (z : Bool) (t : BitVec 2)
  | vshl (d a b : BitVec 5) (m : BitVec 3) (z : Bool) (t : BitVec 2)
  | vshr (d a b : BitVec 5) (m : BitVec 3) (z : Bool) (t : BitVec 2)
  | vsar (d a b : BitVec 5) (m : BitVec 3) (z : Bool) (t : BitVec 2)
  | vimin (d a b : BitVec 5) (m : BitVec 3) (z : Bool) (t : BitVec 2)
  | vimax (d a b : BitVec 5) (m : BitVec 3) (z : Bool) (t : BitVec 2)
  | vicmpSigned (c : BitVec 2) (k : BitVec 3) (a b : BitVec 5) (m : BitVec 3) (z : Bool)
  | vicmpUnsigned (c : BitVec 2) (k : BitVec 3) (a b : BitVec 5) (m : BitVec 3) (z : Bool)
  | vcvt (d a e : BitVec 5) (m : BitVec 3) (z : Bool)
  | vpack (d a : BitVec 5) (f : BitVec 3) (p : BitVec 2) (m : BitVec 3) (z : Bool)
  | vunpk (d a : BitVec 5) (f : BitVec 3) (p : BitVec 2) (m : BitVec 3) (z : Bool)
  | vexp2 (d a : BitVec 5) (m : BitVec 3) (z : Bool)
  | vlog2 (d a : BitVec 5) (m : BitVec 3) (z : Bool)
  | vrcp (d a : BitVec 5) (m : BitVec 3) (z : Bool)
  | vrsq (d a : BitVec 5) (m : BitVec 3) (z : Bool)
  | vrsum (d a : BitVec 5) (m : BitVec 3)
  | vrmaxI (d a : BitVec 5) (m : BitVec 3)
  | vrminI (d a : BitVec 5) (m : BitVec 3)
  | vscan (d a : BitVec 5) (m : BitVec 3)
  | vsrch (d a b : BitVec 5) (m : BitVec 3)
  | vrand (d : BitVec 5) (b : BitVec 3) (m : BitVec 3) (z : Bool)
  | vrandF (d : BitVec 5) (b : BitVec 3) (m : BitVec 3) (z : Bool)
  | vperm (d a b : BitVec 5) (m : BitVec 3) (z : Bool)
  | vbcast (d b : BitVec 5) (m : BitVec 3) (z : Bool) (t : BitVec 2)
  | vslide (d a b : BitVec 5) (m : BitVec 3) (z : Bool)
  | vsel (d a b : BitVec 5) (m : BitVec 3)
  | mlog (f : BitVec 2) (k a b : BitVec 3)
  | mpop (d : BitVec 5) (a m : BitVec 3)
  | mfirst (d : BitVec 5) (a m : BitVec 3)
  | vpart (d : BitVec 5) (m : BitVec 3)
  | vpartInv (d : BitVec 5) (m : BitVec 3)
  | vldl (d : BitVec 5) (c : BitVec 4) (b : BitVec 5) (m : BitVec 3) (z : Bool) (x : Option Limm)
  | vstl (d : BitVec 5) (c : BitVec 4) (b : BitVec 5) (m : BitVec 3) (x : Option Limm)
  | vgath (d a b : BitVec 5) (m : BitVec 3) (z : Bool) (x : Option Limm)
  | vscat (d a b : BitVec 5) (m : BitVec 3) (x : Option Limm)
  | vldg (d : BitVec 5) (c : BitVec 4) (b : BitVec 5) (m : BitVec 3) (z : Bool) (x : Option Limm)
  | vstg (d : BitVec 5) (c : BitVec 4) (b : BitVec 5) (m : BitVec 3) (x : Option Limm)
  | vmovg (d j b : BitVec 5)
  | vextr (d a j : BitVec 5)
  | accept (d a b : BitVec 5) (m : BitVec 3)
  -- matrix slots (R40)
  | mpush (p : Bool) (g : BitVec 4)
  | mshift (g : BitVec 4)
  | mpreld (p : Bool) (v : BitVec 5) (g : BitVec 4)
  | mdrain (p : Bool) (v : BitVec 5) (g : BitVec 4)
  | mzero (p : Bool) (g : BitVec 4)
  | mcfg (n : BitVec 6) (g : BitVec 4)
  | mfeedRing (f : Bool) (n : BitVec 6) (g : BitVec 4)
  | mfeedMesh (f : Bool) (n : BitVec 6) (g : BitVec 4)
  | mfeedHandle (f : Bool) (n : BitVec 6) (g : BitVec 4)
  | feederPanelFetch (north : Bool)
  | meshFlitInject (north : Bool) (flits : MeshFlits)
  -- scale slots (R41)
  | slw (a : BitVec 6) (g : BitVec 4) (x : Option Limm)
  | sln (a : BitVec 6) (g : BitVec 4) (x : Option Limm)
  | slzp (a : BitVec 6) (e : Bool) (g : BitVec 4) (x : Option Limm)
  | slset (a : BitVec 6) (e : Bool) (i : BitVec 6) (g : BitVec 4)
  -- engine slots (R42)
  | cpyG2l (a b c : BitVec 6) (g : BitVec 4)
  | cpyL2g (a b c : BitVec 6) (g : BitVec 4)
  | cpyL2l (a b c : BitVec 6) (g : BitVec 4)
  | cpyCl (a b c : BitVec 6) (g : BitVec 4)
  | cpyPe (a b c : BitVec 6) (g : BitVec 4)
  | copyBegin (cq1 : Bool)
  | copyPerform (cq1 : Bool)
  | peerChunkArrival (c : Chunk)
  | peerChunkFail (cq1 : Bool) (second : Bool)
  | qcfg (q a : BitVec 6) (g : BitVec 4)
  | qcfgOff (q : BitVec 6) (g : BitVec 4)
  | qresv (q d c : BitVec 6) (g : BitVec 4)
  | qcommit (q c : BitVec 6) (g : BitVec 4)
  | qawait (q d c : BitVec 6) (g : BitVec 4)
  | qrel (q c : BitVec 6) (g : BitVec 4)
  | qtick (q d : BitVec 6) (g : BitVec 4)
  | qfill (q a : BitVec 6) (g : BitVec 4)
  | qtest (q : BitVec 6) (p : BitVec 3) (t : BitVec 6) (g : BitVec 4)
  | qfence (m : BitVec 6) (g : BitVec 4)
  | engineFire (cq1 : Bool)
  | route (a b c : BitVec 6) (g : BitVec 4)
  | rtcfg (a b c : BitVec 6) (g : BitVec 4)
  | rasm (a b c : BitVec 6) (g : BitVec 4)
  | rret (a b c : BitVec 6) (g : BitVec 4)
  | returnAccept (table : BitVec 2) (round : W16) (row : BitVec 6) (rank : BitVec 2) (bytes : List Byte)
  | routeTimeout (table : BitVec 2)
  | kvadv (a b c : BitVec 6) (g : BitVec 4)
  | kvtrunc (a b c : BitVec 6) (g : BitVec 4)
  | kvmap (a b c : BitVec 6) (g : BitVec 4)
  | pnlook (a b c : BitVec 6) (g : BitVec 4)
  | pnins (a b c : BitVec 6) (g : BitVec 4)
  | pnrel (a b c : BitVec 6) (g : BitVec 4)
  | pxtile (a b c : BitVec 6) (g : BitVec 4)
  | encfrm (a b c : BitVec 6) (g : BitVec 4)
  | encoderTakeFrame (fr : BitVec 6)
  | bitstreamRecordWrite (fr : BitVec 6) (payload : Nat)
  -- the access path and the slices
  | loadResponse (acc : Nat)
  | storeAck (acc : Nat)
  | sliceReadRequest (who : Requester) (part : Nat)
  | mergeGroupWait (slice : BitVec 6)
  | sectorFillComplete (slice : BitVec 6) (line : Nat)
  | sliceWriteRequest (who : Requester) (part : Nat)
  | sliceAtomic (who : Requester)
  | redContribution (who : Requester)
  | redWaitOpen (slice : BitVec 6)
  | pinSliceAccess (acc part : Nat)
  | clusterStopDelivery (what : Delivery)
  | routePacketFill
  | flushReadReturn (package : BitVec 6)
  | hostPortError (acc part : Nat)
  | faultRecordRelease (slice : BitVec 6)
  | zeroFillDone (leafPa : Nat) (big : Bool)
  -- translation commands (R311)
  | assign (part : BitVec 4) (slot : BitVec 12) (root : BitVec 40)
  | release (part : BitVec 4) (slot : BitVec 12)
  | invalRange (part : BitVec 4) (slot : BitVec 12) (va : W64) (count : Nat)
  | invalAsid (part : BitVec 4) (slot : BitVec 12)
  | invalAll (part : BitVec 4)
  | twrite (part : BitVec 4) (pa : Nat) (v : W64)
  | resume (part : BitVec 4) (slice park : BitVec 6)
  | abort (part : BitVec 4) (slice park : BitVec 6)
  | translationCommandComplete (part : BitVec 4)
  -- work (14, 15)
  | graphSubmit (part : BitVec 4) (job : W32) (launches : List LaunchRec)
  | gangStart (l : LaunchId) (gang : Nat) (at_ : Placement)
  | unitComplete (l : LaunchId) (unit : W32) (status detail : Byte)
  | completionRecordWrite (part : BitVec 4) (job : W32)
  | triggerMark (l : LaunchId) (unit : W32)
  | cancel (level : CancelLevel)
  | jobCreate (r : JobRec)
  | jobClose (part : BitVec 4) (job : W32)
  | streamGraphInstantiate (part : BitVec 4) (job : W32)
  | gangResume (l : LaunchId) (gang : Nat) (at_ : Placement)
  | unitResume (ws : List AreaWrite)
  -- pantry, text and media services
  | pantryRegister (part : BitVec 4) (n : BitVec 4) (buckets : Nat) (log2n : Nat) (backmap : Nat)
  | pantryPurge (part : BitVec 4) (n : BitVec 4) (bucket entry : Nat)
  | mirotRequest (part : BitVec 4) (flow : Nat) (record : List Byte)
  | tokenise (engine : BitVec 3)
  | tokeniserSlotCommit (engine : BitVec 3)
  | detokeniseSlot (ctx : Nat)
  | vocabLoad (slot : BitVec 4) (part : BitVec 4) (asid : BitVec 12) (va : W64)
  | vocabUnload (slot : BitVec 4)
  | templateRegister (t : TemplateReg)
  | uetFlowFail (part : BitVec 4) (flow : Nat)
  | frameRingRegister (r : FrameRingReg)
  | frameRingReset (fr : BitVec 6) (fhead : W32)
  | frameRingUnregister (fr : BitVec 6)
  -- partitions, links, package (23)
  | partitionCreate (d : PartDesc)
  | partitionChange (d : PartDesc)
  | partitionReset (part : BitVec 4)
  | machineCheck (src : McSource) (part : Option (BitVec 4)) (addr : W64) (place : W16) (job : Option W32)
  | pinRange (part : BitVec 4) (pa bytes : Nat)
  | unpinRange (part : BitVec 4) (pa bytes : Nat)
  | landingRegister (l : LandingReg)
  | sliceStatsClear (slice : BitVec 6)
  -- firmware and management of the package (23)
  | endpointTableWrite (part : BitVec 4) (epid : W16) (peer : Nat)
  | packageLeaveDomain (package : BitVec 5)
  | boot (firmware : List Byte) (version : Nat) (signature : Signed)
  | attestationRequest (nonce : BitVec 512) (part : BitVec 4)
  | powerLimitSet (watts : Nat)
  | domainForm (self : BitVec 5) (members : BitVec 32)
  | correctedError (src : McSource)
  -- events without operands: sequencer and time, barrier, engines, dispatcher, package
  | bundleIssue
  | resultLand
  | timeTick
  | barrierRecordCommit
  | blockTimeout
  | rtcfgExec
  | rasmExec
  | routeBegin
  | routeOqSlot
  | rretExec
  | kvmapExec
  | kvadvExec
  | kvtruncExec
  | pnlookExec
  | pninsExec
  | pnrelExec
  | pxtileFire
  | encfrmBind
  | encfrmOne
  | encfrmUnbind
  | schedulingTick
  | drainDivert
  | contextSave
  | preemptFallback
  | stubOverrun
  | debugHalt
  | thermalTrip
  | linkDown
  | linkUp
  | mainPowerLoss
deriving DecidableEq, Repr

end Sys2Proof
end

