-- ==== Sys2Proof/WellFormed.lean ====
section
/-! DEFINITION. Well-formed instructions: the field values that 01_issue_slots.md lets a slot hold.
A decoder refuses every word whose instruction breaks one of these checks. -/

namespace Sys2Proof

/-- The guard field GD of a slot that has one (R20); vector slots and events have none. -/
def Instr.guard? : Instr → Option (BitVec 4)
  | .add _ _ _ g => some g
  | .sub _ _ _ g => some g
  | .and _ _ _ g => some g
  | .or _ _ _ g => some g
  | .xor _ _ _ g => some g
  | .andn _ _ _ g => some g
  | .shl _ _ _ g => some g
  | .shr _ _ _ g => some g
  | .sar _ _ _ g => some g
  | .rotl _ _ _ g => some g
  | .mul _ _ _ g => some g
  | .mulh _ _ _ g => some g
  | .mulhu _ _ _ g => some g
  | .div _ _ _ g => some g
  | .divu _ _ _ g => some g
  | .rem _ _ _ g => some g
  | .remu _ _ _ g => some g
  | .min _ _ _ g => some g
  | .max _ _ _ g => some g
  | .minu _ _ _ g => some g
  | .maxu _ _ _ g => some g
  | .addi _ _ _ g _ => some g
  | .andi _ _ _ g _ => some g
  | .ori _ _ _ g _ => some g
  | .xori _ _ _ g _ => some g
  | .shli _ _ _ g => some g
  | .shri _ _ _ g => some g
  | .sari _ _ _ g => some g
  | .clz _ _ g => some g
  | .ctz _ _ g => some g
  | .popc _ _ g => some g
  | .sext _ _ _ g => some g
  | .zext _ _ _ g => some g
  | .bext _ _ _ g => some g
  | .bins _ _ _ g => some g
  | .adds0 _ _ _ g => some g
  | .adds1 _ _ _ g => some g
  | .adds2 _ _ _ g => some g
  | .adds3 _ _ _ g => some g
  | .cmp _ _ _ _ g => some g
  | .cmpi _ _ _ _ g _ => some g
  | .plog _ _ _ _ g => some g
  | .sel _ _ _ _ g => some g
  | .movw _ _ g => some g
  | .br _ g => some g
  | .call _ g => some g
  | .jr _ g => some g
  | .jt _ _ g => some g
  | .loop _ _ _ g => some g
  | .loopi _ _ _ g _ => some g
  | .trap _ g => some g
  | .brk _ g => some g
  | .exit g => some g
  | .yield g => some g
  | .trigger g => some g
  | .waitdep g => some g
  | .phase g => some g
  | .wait _ _ _ _ g => some g
  | .fence _ _ g => some g
  | .mfcr _ _ g => some g
  | .mtcr _ _ g => some g
  | .ldl _ _ _ _ g _ => some g
  | .stl _ _ _ _ g _ => some g
  | .ldg _ _ _ _ g _ => some g
  | .stg _ _ _ _ g _ => some g
  | .red _ _ _ _ g _ => some g
  | .atomAdd _ _ _ _ g _ => some g
  | .atomMin _ _ _ _ g _ => some g
  | .atomMax _ _ _ _ g _ => some g
  | .atomAnd _ _ _ _ g _ => some g
  | .atomOr _ _ _ _ g _ => some g
  | .atomXor _ _ _ _ g _ => some g
  | .atomSwap _ _ _ _ g _ => some g
  | .atomCas _ _ _ _ g _ => some g
  | .atomw _ _ _ g _ => some g
  | .mpush _ g => some g
  | .mshift g => some g
  | .mpreld _ _ g => some g
  | .mdrain _ _ g => some g
  | .mzero _ g => some g
  | .mcfg _ g => some g
  | .mfeedRing _ _ g => some g
  | .mfeedMesh _ _ g => some g
  | .mfeedHandle _ _ g => some g
  | .slw _ g _ => some g
  | .sln _ g _ => some g
  | .slzp _ _ g _ => some g
  | .slset _ _ _ g => some g
  | .cpyG2l _ _ _ g => some g
  | .cpyL2g _ _ _ g => some g
  | .cpyL2l _ _ _ g => some g
  | .cpyCl _ _ _ g => some g
  | .cpyPe _ _ _ g => some g
  | .qcfg _ _ g => some g
  | .qcfgOff _ g => some g
  | .qresv _ _ _ g => some g
  | .qcommit _ _ g => some g
  | .qawait _ _ _ g => some g
  | .qrel _ _ g => some g
  | .qtick _ _ g => some g
  | .qfill _ _ g => some g
  | .qtest _ _ _ g => some g
  | .qfence _ g => some g
  | .route _ _ _ g => some g
  | .rtcfg _ _ _ g => some g
  | .rasm _ _ _ g => some g
  | .rret _ _ _ g => some g
  | .kvadv _ _ _ g => some g
  | .kvtrunc _ _ _ g => some g
  | .kvmap _ _ _ g => some g
  | .pnlook _ _ _ g => some g
  | .pnins _ _ _ g => some g
  | .pnrel _ _ _ g => some g
  | .pxtile _ _ _ g => some g
  | .encfrm _ _ _ g => some g
  | _ => none

/-- Guard value 0b1000 is reserved (R20, CAUSE 0x07). -/
def Instr.guardOk (i : Instr) : Bool :=
  match i.guard? with
  | some g => g != 8#4
  | none => true

/-- The LIMM that extends a slot, for the slots of R29. -/
def Instr.limm? : Instr → Option Limm
  | .addi _ _ _ _ x => x
  | .andi _ _ _ _ x => x
  | .ori _ _ _ _ x => x
  | .xori _ _ _ _ x => x
  | .cmpi _ _ _ _ _ x => x
  | .loopi _ _ _ _ x => x
  | .ldl _ _ _ _ _ x => x
  | .stl _ _ _ _ _ x => x
  | .ldg _ _ _ _ _ x => x
  | .stg _ _ _ _ _ x => x
  | .red _ _ _ _ _ x => x
  | .atomAdd _ _ _ _ _ x => x
  | .atomMin _ _ _ _ _ x => x
  | .atomMax _ _ _ _ _ x => x
  | .atomAnd _ _ _ _ _ x => x
  | .atomOr _ _ _ _ _ x => x
  | .atomXor _ _ _ _ _ x => x
  | .atomSwap _ _ _ _ _ x => x
  | .atomCas _ _ _ _ _ x => x
  | .atomw _ _ _ _ x => x
  | .vldl _ _ _ _ _ x => x
  | .vstl _ _ _ _ x => x
  | .vgath _ _ _ _ _ x => x
  | .vscat _ _ _ _ x => x
  | .vldg _ _ _ _ _ x => x
  | .vstg _ _ _ _ x => x
  | .slw _ _ x => x
  | .sln _ _ x => x
  | .slzp _ _ _ x => x
  | _ => none

/-- What R29 lets extend a slot: nothing, an immediate of modes 00, 01, 10, a count of modes 00, 01, or an offset of mode 00. -/
inductive LimmType where
  | none | imm | count | offset
deriving DecidableEq, Repr

/-- The extensible slots and their types (R29). -/
def Instr.limmType : Instr → LimmType
  | .addi _ _ _ _ _ => .imm
  | .andi _ _ _ _ _ => .imm
  | .ori _ _ _ _ _ => .imm
  | .xori _ _ _ _ _ => .imm
  | .cmpi _ _ _ _ _ _ => .imm
  | .loopi _ _ _ _ _ => .count
  | .ldl _ _ _ _ _ _ => .offset
  | .stl _ _ _ _ _ _ => .offset
  | .ldg _ _ _ _ _ _ => .offset
  | .stg _ _ _ _ _ _ => .offset
  | .red _ _ _ _ _ _ => .offset
  | .atomAdd _ _ _ _ _ _ => .offset
  | .atomMin _ _ _ _ _ _ => .offset
  | .atomMax _ _ _ _ _ _ => .offset
  | .atomAnd _ _ _ _ _ _ => .offset
  | .atomOr _ _ _ _ _ _ => .offset
  | .atomXor _ _ _ _ _ _ => .offset
  | .atomSwap _ _ _ _ _ _ => .offset
  | .atomCas _ _ _ _ _ _ => .offset
  | .atomw _ _ _ _ _ => .offset
  | .vldl _ _ _ _ _ _ => .offset
  | .vstl _ _ _ _ _ => .offset
  | .vgath _ _ _ _ _ _ => .offset
  | .vscat _ _ _ _ _ => .offset
  | .vldg _ _ _ _ _ _ => .offset
  | .vstg _ _ _ _ _ => .offset
  | .slw _ _ _ => .offset
  | .sln _ _ _ => .offset
  | .slzp _ _ _ _ => .offset
  | _ => .none

/-- The modes LIMM[27:26] that each type accepts (R28, R29). -/
def LimmType.accepts (t : LimmType) (x : Limm) : Bool :=
  let mode := x.toNat / 2 ^ 26
  match t with
  | .none => false
  | .imm => mode != 3
  | .count => mode < 2
  | .offset => mode == 0

def Instr.limmOk (i : Instr) : Bool :=
  match i.limm? with
  | some x => i.limmType.accepts x
  | none => true

/-- Reserved or must-be-zero field values that the operand types do not already exclude
(R16, CAUSE 0x08; R21, R23, R37, R38, R42, R124, R135, R136, R150, R185, R207, R215, R227). -/
def Instr.fieldsOk : Instr → Bool
  | .fence scope _ _ => scope.toNat < 5
  | .red d _ _ _ _ _ => d.toNat % 2 == 0
  | .atomMin _ _ _ w _ _ => w.toNat < 2
  | .atomMax _ _ _ w _ _ => w.toNat < 2
  | .atomAnd _ _ _ w _ _ => w.toNat < 2
  | .atomOr _ _ _ w _ _ => w.toNat < 2
  | .atomXor _ _ _ w _ _ => w.toNat < 2
  | .atomSwap _ _ _ w _ _ => w.toNat < 2
  | .atomCas d _ _ w _ _ => w.toNat < 2 && d.toNat % 2 == 0
  | .atomw d _ _ _ _ => d.toNat % 4 == 0
  | .vadd _ _ _ _ _ t => t != 3#2
  | .vsub _ _ _ _ _ t => t != 3#2
  | .vmul _ _ _ _ _ t => t != 3#2
  | .vfma _ _ _ _ _ t => t != 3#2
  | .vmax _ _ _ _ _ t => t != 3#2
  | .vmin _ _ _ _ _ t => t != 3#2
  | .vabs _ _ _ _ t => t != 3#2
  | .vneg _ _ _ _ t => t != 3#2
  | .viadd _ _ _ _ _ t => t != 3#2
  | .visub _ _ _ _ _ t => t != 3#2
  | .vimul _ _ _ _ _ t => t != 3#2
  | .vimulh _ _ _ _ _ t => t != 3#2
  | .vand _ _ _ _ _ t => t != 3#2
  | .vor _ _ _ _ _ t => t != 3#2
  | .vxor _ _ _ _ _ t => t != 3#2
  | .vshl _ _ _ _ _ t => t != 3#2
  | .vshr _ _ _ _ _ t => t != 3#2
  | .vsar _ _ _ _ _ t => t != 3#2
  | .vimin _ _ _ _ _ t => t != 3#2
  | .vimax _ _ _ _ _ t => t != 3#2
  | .vbcast _ _ _ _ t => t != 3#2
  | .vcvt _ _ e _ _ => e.toNat < 8 && e.toNat != 3
  | .vpack _ _ f p _ _ => packOk f p
  | .vunpk _ _ f p _ _ => packOk f p
  | .mcfg n _ => n.toNat % 4 == 0 && n.toNat < 61
  | .qcfg _ a _ => a.toNat % 2 == 0
  | .qresv _ _ c _ => c != 0#6
  | .qcommit _ c _ => c != 0#6
  | .qawait _ _ c _ => c != 0#6
  | .qrel _ c _ => c != 0#6
  | .qtest q _ t _ => t.toNat < 4 || ((8 ≤ t.toNat && t.toNat < 14 || 16 ≤ t.toNat && t.toNat < 22) && q == 0#6)
  | .cpyG2l _ b _ _ => b != 63#6
  | .cpyL2g _ b _ _ => b != 63#6
  | .cpyPe _ b _ _ => b != 63#6
  | _ => true
where
  /-- Formats and parts of VPACK and VUNPK (R136). -/
  packOk (f : BitVec 3) (p : BitVec 2) : Bool :=
    match f.toNat with
    | 0 => p.toNat < 2
    | 1 => p.toNat < 2
    | 2 => true
    | 3 => true
    | 4 => true
    | 5 => p.toNat < 2
    | _ => false

/-- A slot that a bundle may hold: guard, LIMM mode and every field allowed. -/
def Instr.wf (i : Instr) : Bool := i.guardOk && i.limmOk && i.fieldsOk

/-- The rows of the table without an encoding: the steps of agents. -/
def Instr.isEvent : Instr → Bool
  | .bundleIssue => true
  | .resultLand => true
  | .timeTick => true
  | .crLdepthWrite _ => true
  | .crLstartLendWrite _ _ => true
  | .crBankfWrite _ _ => true
  | .crQidxWrite _ => true
  | .crGxmodeWrite _ => true
  | .crCbarWrite _ _ => true
  | .barrierRecordCommit => true
  | .crDrawhiWrite _ => true
  | .crFlagsetWrite _ => true
  | .feederPanelFetch _ => true
  | .meshFlitInject _ _ => true
  | .copyBegin _ => true
  | .copyPerform _ => true
  | .peerChunkArrival _ => true
  | .peerChunkFail _ _ => true
  | .engineFire _ => true
  | .blockTimeout => true
  | .rtcfgExec => true
  | .rasmExec => true
  | .routeBegin => true
  | .routeOqSlot => true
  | .routePacketFill => true
  | .rretExec => true
  | .returnAccept _ _ _ _ _ => true
  | .routeTimeout _ => true
  | .kvmapExec => true
  | .kvadvExec => true
  | .kvtruncExec => true
  | .pnlookExec => true
  | .pninsExec => true
  | .pnrelExec => true
  | .pxtileFire => true
  | .encfrmBind => true
  | .encfrmOne => true
  | .encfrmUnbind => true
  | .encoderTakeFrame _ => true
  | .bitstreamRecordWrite _ _ => true
  | .loadResponse _ => true
  | .storeAck _ => true
  | .sliceReadRequest _ _ => true
  | .mergeGroupWait _ => true
  | .sectorFillComplete _ _ => true
  | .sliceWriteRequest _ _ => true
  | .sliceAtomic _ => true
  | .redContribution _ => true
  | .redWaitOpen _ => true
  | .pinSliceAccess _ _ => true
  | .clusterStopDelivery _ => true
  | .flushReadReturn _ => true
  | .hostPortError _ _ => true
  | .faultRecordRelease _ => true
  | .zeroFillDone _ _ => true
  | .assign _ _ _ => true
  | .release _ _ => true
  | .invalRange _ _ _ _ => true
  | .invalAsid _ _ => true
  | .invalAll _ => true
  | .twrite _ _ _ => true
  | .resume _ _ _ => true
  | .abort _ _ _ => true
  | .translationCommandComplete _ => true
  | .graphSubmit _ _ _ => true
  | .gangStart _ _ _ => true
  | .unitComplete _ _ _ _ => true
  | .completionRecordWrite _ _ => true
  | .triggerMark _ _ => true
  | .cancel _ => true
  | .jobCreate _ => true
  | .jobClose _ _ => true
  | .schedulingTick => true
  | .streamGraphInstantiate _ _ => true
  | .drainDivert => true
  | .contextSave => true
  | .preemptFallback => true
  | .stubOverrun => true
  | .gangResume _ _ _ => true
  | .unitResume _ => true
  | .debugHalt => true
  | .pantryRegister _ _ _ _ _ => true
  | .pantryPurge _ _ _ _ => true
  | .mirotRequest _ _ _ => true
  | .tokenise _ => true
  | .tokeniserSlotCommit _ => true
  | .detokeniseSlot _ => true
  | .vocabLoad _ _ _ _ => true
  | .vocabUnload _ => true
  | .templateRegister _ => true
  | .uetFlowFail _ _ => true
  | .frameRingRegister _ => true
  | .frameRingReset _ _ => true
  | .frameRingUnregister _ => true
  | .partitionCreate _ => true
  | .partitionChange _ => true
  | .partitionReset _ => true
  | .machineCheck _ _ _ _ _ => true
  | .pinRange _ _ _ => true
  | .unpinRange _ _ _ => true
  | .landingRegister _ => true
  | .endpointTableWrite _ _ _ => true
  | .sliceStatsClear _ => true
  | .packageLeaveDomain _ => true
  | .boot _ _ _ => true
  | .attestationRequest _ _ => true
  | .powerLimitSet _ => true
  | .thermalTrip => true
  | .linkDown => true
  | .linkUp => true
  | .domainForm _ _ => true
  | .correctedError _ => true
  | .mainPowerLoss => true
  | _ => false

end Sys2Proof
end

