-- ==== Sys2Proof/Decode.lean ====
section
/-! DEFINITION. Decoding: from the words of the instruction store to instructions or a named refusal, and
the encoder beside it (01_issue_slots.md, R13 to R42). Words are read as numbers, bit 0 least significant. -/

namespace Sys2Proof

/-- Why a bundle is illegal; the CAUSE codes of R17. -/
inductive DecodeError where
  | reservedKind | unassignedOp | kindOrder | tooMany | limmMisplaced | noStop | guardReserved | reservedField | beyondStore
deriving DecidableEq, Repr

/-- CAUSE of R17. -/
def DecodeError.cause : DecodeError → Nat
  | .reservedKind => 1
  | .unassignedOp => 2
  | .kindOrder => 3
  | .tooMany => 4
  | .limmMisplaced => 5
  | .noStop => 6
  | .guardReserved => 7
  | .reservedField => 8
  | .beyondStore => 9

/-- n bits of w from bit lo. -/
def field (w lo n : Nat) : Nat := w / 2 ^ lo % 2 ^ n

/-- n bits of w from bit lo, as a bit vector. -/
def bv (n w lo : Nat) : BitVec n := BitVec.ofNat n (w / 2 ^ lo)

/-- Bit lo of w. -/
def bitAt (w lo : Nat) : Bool := w / 2 ^ lo % 2 == 1

def fieldIf (c : Bool) (i : Instr) : Except DecodeError Instr := if c then .ok i else .error .reservedField

/-- The scalar kind (R37): the slot of OP op in word w, extended by x. -/
def decodeScalar (op w : Nat) (x : Option Limm) : Except DecodeError Instr :=
  match op with
  | 0 => .ok (.add (bv 6 w 16) (bv 6 w 10) (bv 6 w 4) (bv 4 w 0))
  | 1 => .ok (.sub (bv 6 w 16) (bv 6 w 10) (bv 6 w 4) (bv 4 w 0))
  | 2 => .ok (.and (bv 6 w 16) (bv 6 w 10) (bv 6 w 4) (bv 4 w 0))
  | 3 => .ok (.or (bv 6 w 16) (bv 6 w 10) (bv 6 w 4) (bv 4 w 0))
  | 4 => .ok (.xor (bv 6 w 16) (bv 6 w 10) (bv 6 w 4) (bv 4 w 0))
  | 5 => .ok (.andn (bv 6 w 16) (bv 6 w 10) (bv 6 w 4) (bv 4 w 0))
  | 6 => .ok (.shl (bv 6 w 16) (bv 6 w 10) (bv 6 w 4) (bv 4 w 0))
  | 7 => .ok (.shr (bv 6 w 16) (bv 6 w 10) (bv 6 w 4) (bv 4 w 0))
  | 8 => .ok (.sar (bv 6 w 16) (bv 6 w 10) (bv 6 w 4) (bv 4 w 0))
  | 9 => .ok (.rotl (bv 6 w 16) (bv 6 w 10) (bv 6 w 4) (bv 4 w 0))
  | 10 => .ok (.mul (bv 6 w 16) (bv 6 w 10) (bv 6 w 4) (bv 4 w 0))
  | 11 => .ok (.mulh (bv 6 w 16) (bv 6 w 10) (bv 6 w 4) (bv 4 w 0))
  | 12 => .ok (.mulhu (bv 6 w 16) (bv 6 w 10) (bv 6 w 4) (bv 4 w 0))
  | 13 => .ok (.div (bv 6 w 16) (bv 6 w 10) (bv 6 w 4) (bv 4 w 0))
  | 14 => .ok (.divu (bv 6 w 16) (bv 6 w 10) (bv 6 w 4) (bv 4 w 0))
  | 15 => .ok (.rem (bv 6 w 16) (bv 6 w 10) (bv 6 w 4) (bv 4 w 0))
  | 16 => .ok (.remu (bv 6 w 16) (bv 6 w 10) (bv 6 w 4) (bv 4 w 0))
  | 17 => .ok (.min (bv 6 w 16) (bv 6 w 10) (bv 6 w 4) (bv 4 w 0))
  | 18 => .ok (.max (bv 6 w 16) (bv 6 w 10) (bv 6 w 4) (bv 4 w 0))
  | 19 => .ok (.minu (bv 6 w 16) (bv 6 w 10) (bv 6 w 4) (bv 4 w 0))
  | 20 => .ok (.maxu (bv 6 w 16) (bv 6 w 10) (bv 6 w 4) (bv 4 w 0))
  | 21 => .ok (.addi (bv 6 w 16) (bv 6 w 10) (bv 6 w 4) (bv 4 w 0) x)
  | 22 => .ok (.andi (bv 6 w 16) (bv 6 w 10) (bv 6 w 4) (bv 4 w 0) x)
  | 23 => .ok (.ori (bv 6 w 16) (bv 6 w 10) (bv 6 w 4) (bv 4 w 0) x)
  | 24 => .ok (.xori (bv 6 w 16) (bv 6 w 10) (bv 6 w 4) (bv 4 w 0) x)
  | 25 => .ok (.shli (bv 6 w 16) (bv 6 w 10) (bv 6 w 4) (bv 4 w 0))
  | 26 => .ok (.shri (bv 6 w 16) (bv 6 w 10) (bv 6 w 4) (bv 4 w 0))
  | 27 => .ok (.sari (bv 6 w 16) (bv 6 w 10) (bv 6 w 4) (bv 4 w 0))
  | 28 =>
    if field w 4 6 == 0 then .ok (.clz (bv 6 w 16) (bv 6 w 10) (bv 4 w 0))
    else if field w 4 6 == 1 then .ok (.ctz (bv 6 w 16) (bv 6 w 10) (bv 4 w 0))
    else if field w 4 6 == 2 then .ok (.popc (bv 6 w 16) (bv 6 w 10) (bv 4 w 0))
    else .error .reservedField
  | 29 => .ok (.sext (bv 6 w 16) (bv 6 w 10) (bv 6 w 4) (bv 4 w 0))
  | 30 => .ok (.zext (bv 6 w 16) (bv 6 w 10) (bv 6 w 4) (bv 4 w 0))
  | 31 => .ok (.bext (bv 6 w 16) (bv 6 w 10) (bv 6 w 4) (bv 4 w 0))
  | 32 => .ok (.bins (bv 6 w 16) (bv 6 w 10) (bv 6 w 4) (bv 4 w 0))
  | 33 => .ok (.adds0 (bv 6 w 16) (bv 6 w 10) (bv 6 w 4) (bv 4 w 0))
  | 34 => .ok (.adds1 (bv 6 w 16) (bv 6 w 10) (bv 6 w 4) (bv 4 w 0))
  | 35 => .ok (.adds2 (bv 6 w 16) (bv 6 w 10) (bv 6 w 4) (bv 4 w 0))
  | 36 => .ok (.adds3 (bv 6 w 16) (bv 6 w 10) (bv 6 w 4) (bv 4 w 0))
  | 37 => .ok (.cmp (bv 3 w 19) (bv 3 w 16) (bv 6 w 10) (bv 6 w 4) (bv 4 w 0))
  | 38 => .ok (.cmpi (bv 3 w 19) (bv 3 w 16) (bv 6 w 10) (bv 6 w 4) (bv 4 w 0) x)
  | 39 => fieldIf (field w 10 2 == 0 && field w 4 3 == 0) (.plog (bv 3 w 19) (bv 4 w 15) (bv 3 w 12) (bv 3 w 7) (bv 4 w 0))
  | 40 => .ok (.sel (bv 6 w 16) (bv 6 w 10) (bv 3 w 7) (bv 3 w 4) (bv 4 w 0))
  | 41 => .ok (.movw (bv 6 w 16) (bv 12 w 4) (bv 4 w 0))
  | 42 => .ok (.br (bv 18 w 4) (bv 4 w 0))
  | 43 => .ok (.call (bv 18 w 4) (bv 4 w 0))
  | 44 => fieldIf (field w 16 6 == 0 && field w 4 6 == 0) (.jr (bv 6 w 10) (bv 4 w 0))
  | 45 => .ok (.jt (bv 6 w 16) (bv 12 w 4) (bv 4 w 0))
  | 46 =>
    if field w 19 1 == 0 then .ok (.loop (bv 2 w 20) (bv 6 w 13) (bv 9 w 4) (bv 4 w 0))
    else if field w 19 1 == 1 then .ok (.loopi (bv 2 w 20) (bv 6 w 13) (bv 9 w 4) (bv 4 w 0) x)
    else .error .reservedField
  | 47 =>
    if field w 4 18 == 8192 then .ok (.exit (bv 4 w 0))
    else if field w 4 18 == 12288 then .ok (.yield (bv 4 w 0))
    else if field w 4 18 == 16384 then .ok (.trigger (bv 4 w 0))
    else if field w 4 18 == 20480 then .ok (.waitdep (bv 4 w 0))
    else if field w 4 18 == 24576 then .ok (.phase (bv 4 w 0))
    else if field w 16 6 == 0 then .ok (.trap (bv 12 w 4) (bv 4 w 0))
    else if field w 16 6 == 1 then .ok (.brk (bv 12 w 4) (bv 4 w 0))
    else .error .reservedField
  | 48 => fieldIf (field w 4 2 == 0) (.wait (bv 4 w 18) (bv 4 w 14) (bv 4 w 10) (bv 4 w 6) (bv 4 w 0))
  | 49 => .ok (.fence (bv 3 w 19) (bv 15 w 4) (bv 4 w 0))
  | 50 =>
    if field w 15 1 == 0 then .ok (.mfcr (bv 6 w 16) (bv 11 w 4) (bv 4 w 0))
    else if field w 15 1 == 1 then .ok (.mtcr (bv 6 w 16) (bv 11 w 4) (bv 4 w 0))
    else .error .reservedField
  | 51 => .ok (.ldl (bv 6 w 16) (bv 6 w 10) (bv 4 w 6) (bv 2 w 4) (bv 4 w 0) x)
  | 52 => .ok (.stl (bv 6 w 16) (bv 6 w 10) (bv 4 w 6) (bv 2 w 4) (bv 4 w 0) x)
  | 53 => .ok (.ldg (bv 6 w 16) (bv 6 w 10) (bv 4 w 6) (bv 2 w 4) (bv 4 w 0) x)
  | 54 => .ok (.stg (bv 6 w 16) (bv 6 w 10) (bv 4 w 6) (bv 2 w 4) (bv 4 w 0) x)
  | 55 => .ok (.red (bv 6 w 16) (bv 6 w 10) (bv 4 w 6) (bv 2 w 4) (bv 4 w 0) x)
  | 56 => .ok (.atomAdd (bv 6 w 16) (bv 6 w 10) (bv 4 w 6) (bv 2 w 4) (bv 4 w 0) x)
  | 57 => .ok (.atomMin (bv 6 w 16) (bv 6 w 10) (bv 4 w 6) (bv 2 w 4) (bv 4 w 0) x)
  | 58 => .ok (.atomMax (bv 6 w 16) (bv 6 w 10) (bv 4 w 6) (bv 2 w 4) (bv 4 w 0) x)
  | 59 => .ok (.atomAnd (bv 6 w 16) (bv 6 w 10) (bv 4 w 6) (bv 2 w 4) (bv 4 w 0) x)
  | 60 => .ok (.atomOr (bv 6 w 16) (bv 6 w 10) (bv 4 w 6) (bv 2 w 4) (bv 4 w 0) x)
  | 61 => .ok (.atomXor (bv 6 w 16) (bv 6 w 10) (bv 4 w 6) (bv 2 w 4) (bv 4 w 0) x)
  | 62 => .ok (.atomSwap (bv 6 w 16) (bv 6 w 10) (bv 4 w 6) (bv 2 w 4) (bv 4 w 0) x)
  | 63 =>
    if field w 4 2 == 2 then .ok (.atomw (bv 6 w 16) (bv 6 w 10) (bv 4 w 6) (bv 4 w 0) x)
    else .ok (.atomCas (bv 6 w 16) (bv 6 w 10) (bv 4 w 6) (bv 2 w 4) (bv 4 w 0) x)
  | _ => .error .unassignedOp

/-- The vector kind (R39): the slot of OP op in word w, extended by x. -/
def decodeVector (op w : Nat) (x : Option Limm) : Except DecodeError Instr :=
  match op with
  | 0 => fieldIf (field w 0 1 == 0) (.vadd (bv 5 w 17) (bv 5 w 12) (bv 5 w 7) (bv 3 w 4) (bitAt w 3) (bv 2 w 1))
  | 1 => fieldIf (field w 0 1 == 0) (.vsub (bv 5 w 17) (bv 5 w 12) (bv 5 w 7) (bv 3 w 4) (bitAt w 3) (bv 2 w 1))
  | 2 => fieldIf (field w 0 1 == 0) (.vmul (bv 5 w 17) (bv 5 w 12) (bv 5 w 7) (bv 3 w 4) (bitAt w 3) (bv 2 w 1))
  | 3 => fieldIf (field w 0 1 == 0) (.vfma (bv 5 w 17) (bv 5 w 12) (bv 5 w 7) (bv 3 w 4) (bitAt w 3) (bv 2 w 1))
  | 4 => fieldIf (field w 0 1 == 0) (.vmax (bv 5 w 17) (bv 5 w 12) (bv 5 w 7) (bv 3 w 4) (bitAt w 3) (bv 2 w 1))
  | 5 => fieldIf (field w 0 1 == 0) (.vmin (bv 5 w 17) (bv 5 w 12) (bv 5 w 7) (bv 3 w 4) (bitAt w 3) (bv 2 w 1))
  | 6 => fieldIf (field w 7 5 == 0 && field w 0 1 == 0) (.vabs (bv 5 w 17) (bv 5 w 12) (bv 3 w 4) (bitAt w 3) (bv 2 w 1))
  | 7 => fieldIf (field w 7 5 == 0 && field w 0 1 == 0) (.vneg (bv 5 w 17) (bv 5 w 12) (bv 3 w 4) (bitAt w 3) (bv 2 w 1))
  | 8 => fieldIf (field w 0 3 == 0) (.vcmp (bv 2 w 20) (bv 3 w 17) (bv 5 w 12) (bv 5 w 7) (bv 3 w 4) (bitAt w 3))
  | 9 => fieldIf (field w 0 1 == 0) (.viadd (bv 5 w 17) (bv 5 w 12) (bv 5 w 7) (bv 3 w 4) (bitAt w 3) (bv 2 w 1))
  | 10 => fieldIf (field w 0 1 == 0) (.visub (bv 5 w 17) (bv 5 w 12) (bv 5 w 7) (bv 3 w 4) (bitAt w 3) (bv 2 w 1))
  | 11 => fieldIf (field w 0 1 == 0) (.vimul (bv 5 w 17) (bv 5 w 12) (bv 5 w 7) (bv 3 w 4) (bitAt w 3) (bv 2 w 1))
  | 12 => fieldIf (field w 0 1 == 0) (.vimulh (bv 5 w 17) (bv 5 w 12) (bv 5 w 7) (bv 3 w 4) (bitAt w 3) (bv 2 w 1))
  | 13 => fieldIf (field w 0 1 == 0) (.vand (bv 5 w 17) (bv 5 w 12) (bv 5 w 7) (bv 3 w 4) (bitAt w 3) (bv 2 w 1))
  | 14 => fieldIf (field w 0 1 == 0) (.vor (bv 5 w 17) (bv 5 w 12) (bv 5 w 7) (bv 3 w 4) (bitAt w 3) (bv 2 w 1))
  | 15 => fieldIf (field w 0 1 == 0) (.vxor (bv 5 w 17) (bv 5 w 12) (bv 5 w 7) (bv 3 w 4) (bitAt w 3) (bv 2 w 1))
  | 16 => fieldIf (field w 0 1 == 0) (.vshl (bv 5 w 17) (bv 5 w 12) (bv 5 w 7) (bv 3 w 4) (bitAt w 3) (bv 2 w 1))
  | 17 => fieldIf (field w 0 1 == 0) (.vshr (bv 5 w 17) (bv 5 w 12) (bv 5 w 7) (bv 3 w 4) (bitAt w 3) (bv 2 w 1))
  | 18 => fieldIf (field w 0 1 == 0) (.vsar (bv 5 w 17) (bv 5 w 12) (bv 5 w 7) (bv 3 w 4) (bitAt w 3) (bv 2 w 1))
  | 19 => fieldIf (field w 0 1 == 0) (.vimin (bv 5 w 17) (bv 5 w 12) (bv 5 w 7) (bv 3 w 4) (bitAt w 3) (bv 2 w 1))
  | 20 => fieldIf (field w 0 1 == 0) (.vimax (bv 5 w 17) (bv 5 w 12) (bv 5 w 7) (bv 3 w 4) (bitAt w 3) (bv 2 w 1))
  | 21 => fieldIf (field w 0 3 == 0) (.vicmpSigned (bv 2 w 20) (bv 3 w 17) (bv 5 w 12) (bv 5 w 7) (bv 3 w 4) (bitAt w 3))
  | 22 => fieldIf (field w 0 3 == 0) (.vicmpUnsigned (bv 2 w 20) (bv 3 w 17) (bv 5 w 12) (bv 5 w 7) (bv 3 w 4) (bitAt w 3))
  | 23 => fieldIf (field w 0 3 == 0) (.vcvt (bv 5 w 17) (bv 5 w 12) (bv 5 w 7) (bv 3 w 4) (bitAt w 3))
  | 24 => fieldIf (field w 0 3 == 0) (.vpack (bv 5 w 17) (bv 5 w 12) (bv 3 w 9) (bv 2 w 7) (bv 3 w 4) (bitAt w 3))
  | 25 => fieldIf (field w 0 3 == 0) (.vunpk (bv 5 w 17) (bv 5 w 12) (bv 3 w 9) (bv 2 w 7) (bv 3 w 4) (bitAt w 3))
  | 26 => fieldIf (field w 7 5 == 0 && field w 0 3 == 0) (.vexp2 (bv 5 w 17) (bv 5 w 12) (bv 3 w 4) (bitAt w 3))
  | 27 => fieldIf (field w 7 5 == 0 && field w 0 3 == 0) (.vlog2 (bv 5 w 17) (bv 5 w 12) (bv 3 w 4) (bitAt w 3))
  | 28 => fieldIf (field w 7 5 == 0 && field w 0 3 == 0) (.vrcp (bv 5 w 17) (bv 5 w 12) (bv 3 w 4) (bitAt w 3))
  | 29 => fieldIf (field w 7 5 == 0 && field w 0 3 == 0) (.vrsq (bv 5 w 17) (bv 5 w 12) (bv 3 w 4) (bitAt w 3))
  | 30 => fieldIf (field w 7 5 == 0 && field w 0 4 == 0) (.vrsum (bv 5 w 17) (bv 5 w 12) (bv 3 w 4))
  | 31 => fieldIf (field w 7 5 == 0 && field w 0 4 == 0) (.vrmaxI (bv 5 w 17) (bv 5 w 12) (bv 3 w 4))
  | 32 => fieldIf (field w 7 5 == 0 && field w 0 4 == 0) (.vrminI (bv 5 w 17) (bv 5 w 12) (bv 3 w 4))
  | 33 => fieldIf (field w 7 5 == 0 && field w 0 4 == 0) (.vscan (bv 5 w 17) (bv 5 w 12) (bv 3 w 4))
  | 34 => fieldIf (field w 0 4 == 0) (.vsrch (bv 5 w 17) (bv 5 w 12) (bv 5 w 7) (bv 3 w 4))
  | 35 =>
    if field w 12 5 == 0 && field w 7 2 == 0 && field w 0 3 == 0 then .ok (.vrand (bv 5 w 17) (bv 3 w 9) (bv 3 w 4) (bitAt w 3))
    else if field w 12 5 == 1 && field w 7 2 == 0 && field w 0 3 == 0 then .ok (.vrandF (bv 5 w 17) (bv 3 w 9) (bv 3 w 4) (bitAt w 3))
    else .error .reservedField
  | 36 => fieldIf (field w 0 3 == 0) (.vperm (bv 5 w 17) (bv 5 w 12) (bv 5 w 7) (bv 3 w 4) (bitAt w 3))
  | 37 => fieldIf (field w 12 5 == 0 && field w 0 1 == 0) (.vbcast (bv 5 w 17) (bv 5 w 7) (bv 3 w 4) (bitAt w 3) (bv 2 w 1))
  | 38 => fieldIf (field w 0 3 == 0) (.vslide (bv 5 w 17) (bv 5 w 12) (bv 5 w 7) (bv 3 w 4) (bitAt w 3))
  | 39 => fieldIf (field w 0 4 == 0) (.vsel (bv 5 w 17) (bv 5 w 12) (bv 5 w 7) (bv 3 w 4))
  | 40 => fieldIf (field w 15 2 == 0 && field w 10 2 == 0 && field w 0 7 == 0) (.mlog (bv 2 w 20) (bv 3 w 17) (bv 3 w 12) (bv 3 w 7))
  | 41 => fieldIf (field w 15 2 == 0 && field w 7 5 == 0 && field w 0 4 == 0) (.mpop (bv 5 w 17) (bv 3 w 12) (bv 3 w 4))
  | 42 => fieldIf (field w 15 2 == 0 && field w 7 5 == 0 && field w 0 4 == 0) (.mfirst (bv 5 w 17) (bv 3 w 12) (bv 3 w 4))
  | 43 =>
    if field w 7 10 == 0 && field w 0 4 == 0 then .ok (.vpart (bv 5 w 17) (bv 3 w 4))
    else if field w 7 10 == 32 && field w 0 4 == 0 then .ok (.vpartInv (bv 5 w 17) (bv 3 w 4))
    else .error .reservedField
  | 44 => fieldIf (field w 16 1 == 0 && field w 0 3 == 0) (.vldl (bv 5 w 17) (bv 4 w 12) (bv 5 w 7) (bv 3 w 4) (bitAt w 3) x)
  | 45 => fieldIf (field w 16 1 == 0 && field w 0 4 == 0) (.vstl (bv 5 w 17) (bv 4 w 12) (bv 5 w 7) (bv 3 w 4) x)
  | 46 => fieldIf (field w 0 3 == 0) (.vgath (bv 5 w 17) (bv 5 w 12) (bv 5 w 7) (bv 3 w 4) (bitAt w 3) x)
  | 47 => fieldIf (field w 0 4 == 0) (.vscat (bv 5 w 17) (bv 5 w 12) (bv 5 w 7) (bv 3 w 4) x)
  | 48 => fieldIf (field w 16 1 == 0 && field w 0 3 == 0) (.vldg (bv 5 w 17) (bv 4 w 12) (bv 5 w 7) (bv 3 w 4) (bitAt w 3) x)
  | 49 => fieldIf (field w 16 1 == 0 && field w 0 4 == 0) (.vstg (bv 5 w 17) (bv 4 w 12) (bv 5 w 7) (bv 3 w 4) x)
  | 50 => fieldIf (field w 0 7 == 0) (.vmovg (bv 5 w 17) (bv 5 w 12) (bv 5 w 7))
  | 51 => fieldIf (field w 0 7 == 0) (.vextr (bv 5 w 17) (bv 5 w 12) (bv 5 w 7))
  | 52 => fieldIf (field w 0 4 == 0) (.accept (bv 5 w 17) (bv 5 w 12) (bv 5 w 7) (bv 3 w 4))
  | _ => .error .unassignedOp

/-- The matrix kind (R40): the slot of OP op in word w, extended by x. -/
def decodeMatrix (op w : Nat) : Except DecodeError Instr :=
  match op with
  | 0 => fieldIf (field w 4 17 == 0) (.mpush (bitAt w 21) (bv 4 w 0))
  | 1 => fieldIf (field w 4 18 == 0) (.mshift (bv 4 w 0))
  | 2 => fieldIf (field w 4 12 == 0) (.mpreld (bitAt w 21) (bv 5 w 16) (bv 4 w 0))
  | 3 => fieldIf (field w 4 12 == 0) (.mdrain (bitAt w 21) (bv 5 w 16) (bv 4 w 0))
  | 4 => fieldIf (field w 4 17 == 0) (.mzero (bitAt w 21) (bv 4 w 0))
  | 5 => fieldIf (field w 4 12 == 0) (.mcfg (bv 6 w 16) (bv 4 w 0))
  | 6 =>
    if field w 19 2 == 0 && field w 4 9 == 0 then .ok (.mfeedRing (bitAt w 21) (bv 6 w 13) (bv 4 w 0))
    else if field w 19 2 == 1 && field w 4 9 == 0 then .ok (.mfeedMesh (bitAt w 21) (bv 6 w 13) (bv 4 w 0))
    else if field w 19 2 == 2 && field w 4 9 == 0 then .ok (.mfeedHandle (bitAt w 21) (bv 6 w 13) (bv 4 w 0))
    else .error .reservedField
  | _ => .error .unassignedOp

/-- The engine kind (R42): the slot of OP op in word w, extended by x. -/
def decodeEngine (op w : Nat) : Except DecodeError Instr :=
  match op with
  | 0 => .ok (.cpyG2l (bv 6 w 16) (bv 6 w 10) (bv 6 w 4) (bv 4 w 0))
  | 1 => .ok (.cpyL2g (bv 6 w 16) (bv 6 w 10) (bv 6 w 4) (bv 4 w 0))
  | 2 => .ok (.cpyL2l (bv 6 w 16) (bv 6 w 10) (bv 6 w 4) (bv 4 w 0))
  | 3 => .ok (.cpyCl (bv 6 w 16) (bv 6 w 10) (bv 6 w 4) (bv 4 w 0))
  | 4 => .ok (.cpyPe (bv 6 w 16) (bv 6 w 10) (bv 6 w 4) (bv 4 w 0))
  | 8 =>
    if field w 4 12 == 1 then .ok (.qcfgOff (bv 6 w 16) (bv 4 w 0))
    else if field w 4 6 == 0 then .ok (.qcfg (bv 6 w 16) (bv 6 w 10) (bv 4 w 0))
    else .error .reservedField
  | 9 => .ok (.qresv (bv 6 w 16) (bv 6 w 10) (bv 6 w 4) (bv 4 w 0))
  | 10 => fieldIf (field w 10 6 == 0) (.qcommit (bv 6 w 16) (bv 6 w 4) (bv 4 w 0))
  | 11 => .ok (.qawait (bv 6 w 16) (bv 6 w 10) (bv 6 w 4) (bv 4 w 0))
  | 12 => fieldIf (field w 10 6 == 0) (.qrel (bv 6 w 16) (bv 6 w 4) (bv 4 w 0))
  | 13 => fieldIf (field w 4 6 == 0) (.qtick (bv 6 w 16) (bv 6 w 10) (bv 4 w 0))
  | 14 => fieldIf (field w 4 6 == 0) (.qfill (bv 6 w 16) (bv 6 w 10) (bv 4 w 0))
  | 15 => fieldIf (field w 13 3 == 0) (.qtest (bv 6 w 16) (bv 3 w 10) (bv 6 w 4) (bv 4 w 0))
  | 16 => fieldIf (field w 10 12 == 0) (.qfence (bv 6 w 4) (bv 4 w 0))
  | 24 => .ok (.route (bv 6 w 16) (bv 6 w 10) (bv 6 w 4) (bv 4 w 0))
  | 25 => .ok (.rtcfg (bv 6 w 16) (bv 6 w 10) (bv 6 w 4) (bv 4 w 0))
  | 26 => .ok (.rasm (bv 6 w 16) (bv 6 w 10) (bv 6 w 4) (bv 4 w 0))
  | 27 => .ok (.rret (bv 6 w 16) (bv 6 w 10) (bv 6 w 4) (bv 4 w 0))
  | 32 => .ok (.kvadv (bv 6 w 16) (bv 6 w 10) (bv 6 w 4) (bv 4 w 0))
  | 33 => .ok (.kvtrunc (bv 6 w 16) (bv 6 w 10) (bv 6 w 4) (bv 4 w 0))
  | 34 => .ok (.kvmap (bv 6 w 16) (bv 6 w 10) (bv 6 w 4) (bv 4 w 0))
  | 35 => .ok (.pnlook (bv 6 w 16) (bv 6 w 10) (bv 6 w 4) (bv 4 w 0))
  | 36 => .ok (.pnins (bv 6 w 16) (bv 6 w 10) (bv 6 w 4) (bv 4 w 0))
  | 37 => .ok (.pnrel (bv 6 w 16) (bv 6 w 10) (bv 6 w 4) (bv 4 w 0))
  | 40 => .ok (.pxtile (bv 6 w 16) (bv 6 w 10) (bv 6 w 4) (bv 4 w 0))
  | 41 => .ok (.encfrm (bv 6 w 16) (bv 6 w 10) (bv 6 w 4) (bv 4 w 0))
  | _ => .error .unassignedOp

/-- The scale kind (R41): the slot of OP op in word w, extended by x. -/
def decodeScale (op w : Nat) (x : Option Limm) : Except DecodeError Instr :=
  match op with
  | 0 => fieldIf (field w 4 12 == 0) (.slw (bv 6 w 16) (bv 4 w 0) x)
  | 1 => fieldIf (field w 4 12 == 0) (.sln (bv 6 w 16) (bv 4 w 0) x)
  | 2 => fieldIf (field w 4 11 == 0) (.slzp (bv 6 w 16) (bitAt w 15) (bv 4 w 0) x)
  | 3 => fieldIf (field w 4 5 == 0) (.slset (bv 6 w 16) (bitAt w 15) (bv 6 w 9) (bv 4 w 0))
  | _ => .error .unassignedOp

/-- One slot that is not a LIMM, extended by x (R15, R17: within a slot the lowest cause decides). -/
def decodeSlot (w : Nat) (x : Option Limm) : Except DecodeError Instr :=
  let op := field w 22 6
  let r : Except DecodeError Instr :=
    match field w 28 3 with
    | 0 => decodeScalar op w x
    | 1 => decodeVector op w x
    | 2 => decodeMatrix op w
    | 3 => decodeEngine op w
    | 4 => decodeScale op w x
    | _ => .error .reservedKind
  match r with
  | .error .reservedField =>
    if field w 28 3 != 1 && field w 0 4 == 8 then .error .guardReserved else .error .reservedField
  | .error e => .error e
  | .ok i =>
    if !i.guardOk then .error .guardReserved
    else if !i.fieldsOk then .error .reservedField
    else .ok i

/-- Whether the word is a LIMM slot (R28). -/
def isLimm (w : Nat) : Bool := field w 28 3 == 5

/-- An instruction from the words at its place: a slot and, if the next word is a LIMM, its extension (R28, R29).
The answer carries the words that follow. -/
def decodeWords : List W32 → Except DecodeError (Instr × List W32)
  | [] => .error .beyondStore
  | w :: rest =>
    let plain := (decodeSlot w.toNat none).map (·, rest)
    if w.toNat / 2 ^ 31 == 1 then plain
    else
      match rest with
      | l :: rest' =>
        if isLimm l.toNat then
          match decodeSlot w.toNat (some (bv 28 l.toNat 0)) with
          | .ok i => if i.limm? == some (bv 28 l.toNat 0) && i.limmOk then .ok (i, rest') else .error .limmMisplaced
          | .error e => .error e
        else plain
      | [] => plain

/-- The instruction of a word numbered as spec/opcode_table.json numbers it; the stop bit is framing and is set
aside (log 11), so the slot stands alone, as the last of its bundle. -/
def decodeTableWord (nbits w : Nat) : Option Instr :=
  if nbits == 32 then
    match decodeWords [BitVec.ofNat 32 (w % 2 ^ 31 + 2 ^ 31)] with
    | .ok (i, _) => some i
    | .error _ => none
  else none

/-! ### The encoder -/

def bit (b : Bool) : Nat := if b then 1 else 0

/-- A field's value v at weight k above the fields in rest. -/
def pack (v k rest : Nat) : Nat := v * k + rest

/-- A slot's word without its stop bit: KIND, OP and the 22 operand bits (R15). -/
def slotWord (kind op body : Nat) : Nat := kind * 2 ^ 28 + op * 2 ^ 22 + body

/-- The word of a slot instruction, stop bit clear; events have none. -/
def Instr.word? : Instr → Option Nat
  | .add d a b g => some (slotWord 0 0 (pack (d.toNat) 65536 (pack (a.toNat) 1024 (pack (b.toNat) 16 (g.toNat)))))
  | .sub d a b g => some (slotWord 0 1 (pack (d.toNat) 65536 (pack (a.toNat) 1024 (pack (b.toNat) 16 (g.toNat)))))
  | .and d a b g => some (slotWord 0 2 (pack (d.toNat) 65536 (pack (a.toNat) 1024 (pack (b.toNat) 16 (g.toNat)))))
  | .or d a b g => some (slotWord 0 3 (pack (d.toNat) 65536 (pack (a.toNat) 1024 (pack (b.toNat) 16 (g.toNat)))))
  | .xor d a b g => some (slotWord 0 4 (pack (d.toNat) 65536 (pack (a.toNat) 1024 (pack (b.toNat) 16 (g.toNat)))))
  | .andn d a b g => some (slotWord 0 5 (pack (d.toNat) 65536 (pack (a.toNat) 1024 (pack (b.toNat) 16 (g.toNat)))))
  | .shl d a b g => some (slotWord 0 6 (pack (d.toNat) 65536 (pack (a.toNat) 1024 (pack (b.toNat) 16 (g.toNat)))))
  | .shr d a b g => some (slotWord 0 7 (pack (d.toNat) 65536 (pack (a.toNat) 1024 (pack (b.toNat) 16 (g.toNat)))))
  | .sar d a b g => some (slotWord 0 8 (pack (d.toNat) 65536 (pack (a.toNat) 1024 (pack (b.toNat) 16 (g.toNat)))))
  | .rotl d a b g => some (slotWord 0 9 (pack (d.toNat) 65536 (pack (a.toNat) 1024 (pack (b.toNat) 16 (g.toNat)))))
  | .mul d a b g => some (slotWord 0 10 (pack (d.toNat) 65536 (pack (a.toNat) 1024 (pack (b.toNat) 16 (g.toNat)))))
  | .mulh d a b g => some (slotWord 0 11 (pack (d.toNat) 65536 (pack (a.toNat) 1024 (pack (b.toNat) 16 (g.toNat)))))
  | .mulhu d a b g => some (slotWord 0 12 (pack (d.toNat) 65536 (pack (a.toNat) 1024 (pack (b.toNat) 16 (g.toNat)))))
  | .div d a b g => some (slotWord 0 13 (pack (d.toNat) 65536 (pack (a.toNat) 1024 (pack (b.toNat) 16 (g.toNat)))))
  | .divu d a b g => some (slotWord 0 14 (pack (d.toNat) 65536 (pack (a.toNat) 1024 (pack (b.toNat) 16 (g.toNat)))))
  | .rem d a b g => some (slotWord 0 15 (pack (d.toNat) 65536 (pack (a.toNat) 1024 (pack (b.toNat) 16 (g.toNat)))))
  | .remu d a b g => some (slotWord 0 16 (pack (d.toNat) 65536 (pack (a.toNat) 1024 (pack (b.toNat) 16 (g.toNat)))))
  | .min d a b g => some (slotWord 0 17 (pack (d.toNat) 65536 (pack (a.toNat) 1024 (pack (b.toNat) 16 (g.toNat)))))
  | .max d a b g => some (slotWord 0 18 (pack (d.toNat) 65536 (pack (a.toNat) 1024 (pack (b.toNat) 16 (g.toNat)))))
  | .minu d a b g => some (slotWord 0 19 (pack (d.toNat) 65536 (pack (a.toNat) 1024 (pack (b.toNat) 16 (g.toNat)))))
  | .maxu d a b g => some (slotWord 0 20 (pack (d.toNat) 65536 (pack (a.toNat) 1024 (pack (b.toNat) 16 (g.toNat)))))
  | .addi d a i g _ => some (slotWord 0 21 (pack (d.toNat) 65536 (pack (a.toNat) 1024 (pack (i.toNat) 16 (g.toNat)))))
  | .andi d a i g _ => some (slotWord 0 22 (pack (d.toNat) 65536 (pack (a.toNat) 1024 (pack (i.toNat) 16 (g.toNat)))))
  | .ori d a i g _ => some (slotWord 0 23 (pack (d.toNat) 65536 (pack (a.toNat) 1024 (pack (i.toNat) 16 (g.toNat)))))
  | .xori d a i g _ => some (slotWord 0 24 (pack (d.toNat) 65536 (pack (a.toNat) 1024 (pack (i.toNat) 16 (g.toNat)))))
  | .shli d a i g => some (slotWord 0 25 (pack (d.toNat) 65536 (pack (a.toNat) 1024 (pack (i.toNat) 16 (g.toNat)))))
  | .shri d a i g => some (slotWord 0 26 (pack (d.toNat) 65536 (pack (a.toNat) 1024 (pack (i.toNat) 16 (g.toNat)))))
  | .sari d a i g => some (slotWord 0 27 (pack (d.toNat) 65536 (pack (a.toNat) 1024 (pack (i.toNat) 16 (g.toNat)))))
  | .clz d a g => some (slotWord 0 28 (pack (d.toNat) 65536 (pack (a.toNat) 1024 (g.toNat))))
  | .ctz d a g => some (slotWord 0 28 (pack (d.toNat) 65536 (pack (a.toNat) 1024 (pack (1) 16 (g.toNat)))))
  | .popc d a g => some (slotWord 0 28 (pack (d.toNat) 65536 (pack (a.toNat) 1024 (pack (2) 16 (g.toNat)))))
  | .sext d a w g => some (slotWord 0 29 (pack (d.toNat) 65536 (pack (a.toNat) 1024 (pack (w.toNat) 16 (g.toNat)))))
  | .zext d a w g => some (slotWord 0 30 (pack (d.toNat) 65536 (pack (a.toNat) 1024 (pack (w.toNat) 16 (g.toNat)))))
  | .bext d a b g => some (slotWord 0 31 (pack (d.toNat) 65536 (pack (a.toNat) 1024 (pack (b.toNat) 16 (g.toNat)))))
  | .bins d a b g => some (slotWord 0 32 (pack (d.toNat) 65536 (pack (a.toNat) 1024 (pack (b.toNat) 16 (g.toNat)))))
  | .adds0 d a b g => some (slotWord 0 33 (pack (d.toNat) 65536 (pack (a.toNat) 1024 (pack (b.toNat) 16 (g.toNat)))))
  | .adds1 d a b g => some (slotWord 0 34 (pack (d.toNat) 65536 (pack (a.toNat) 1024 (pack (b.toNat) 16 (g.toNat)))))
  | .adds2 d a b g => some (slotWord 0 35 (pack (d.toNat) 65536 (pack (a.toNat) 1024 (pack (b.toNat) 16 (g.toNat)))))
  | .adds3 d a b g => some (slotWord 0 36 (pack (d.toNat) 65536 (pack (a.toNat) 1024 (pack (b.toNat) 16 (g.toNat)))))
  | .cmp c p a b g => some (slotWord 0 37 (pack (c.toNat) 524288 (pack (p.toNat) 65536 (pack (a.toNat) 1024 (pack (b.toNat) 16 (g.toNat))))))
  | .cmpi c p a i g _ => some (slotWord 0 38 (pack (c.toNat) 524288 (pack (p.toNat) 65536 (pack (a.toNat) 1024 (pack (i.toNat) 16 (g.toNat))))))
  | .plog d f a b g => some (slotWord 0 39 (pack (d.toNat) 524288 (pack (f.toNat) 32768 (pack (a.toNat) 4096 (pack (b.toNat) 128 (g.toNat))))))
  | .sel d a p b g => some (slotWord 0 40 (pack (d.toNat) 65536 (pack (a.toNat) 1024 (pack (p.toNat) 128 (pack (b.toNat) 16 (g.toNat))))))
  | .movw d i g => some (slotWord 0 41 (pack (d.toNat) 65536 (pack (i.toNat) 16 (g.toNat))))
  | .br o g => some (slotWord 0 42 (pack (o.toNat) 16 (g.toNat)))
  | .call o g => some (slotWord 0 43 (pack (o.toNat) 16 (g.toNat)))
  | .jr a g => some (slotWord 0 44 (pack (a.toNat) 1024 (g.toNat)))
  | .jt d i g => some (slotWord 0 45 (pack (d.toNat) 65536 (pack (i.toNat) 16 (g.toNat))))
  | .loop n a d g => some (slotWord 0 46 (pack (n.toNat) 1048576 (pack (a.toNat) 8192 (pack (d.toNat) 16 (g.toNat)))))
  | .loopi n c d g _ => some (slotWord 0 46 (pack (n.toNat) 1048576 (pack (1) 524288 (pack (c.toNat) 8192 (pack (d.toNat) 16 (g.toNat))))))
  | .trap c g => some (slotWord 0 47 (pack (c.toNat) 16 (g.toNat)))
  | .brk c g => some (slotWord 0 47 (pack (1) 65536 (pack (c.toNat) 16 (g.toNat))))
  | .exit g => some (slotWord 0 47 (pack (8192) 16 (g.toNat)))
  | .yield g => some (slotWord 0 47 (pack (12288) 16 (g.toNat)))
  | .trigger g => some (slotWord 0 47 (pack (16384) 16 (g.toNat)))
  | .waitdep g => some (slotWord 0 47 (pack (20480) 16 (g.toNat)))
  | .phase g => some (slotWord 0 47 (pack (24576) 16 (g.toNat)))
  | .wait nl ns nc nt g => some (slotWord 0 48 (pack (nl.toNat) 262144 (pack (ns.toNat) 16384 (pack (nc.toNat) 1024 (pack (nt.toNat) 64 (g.toNat))))))
  | .fence scope mask g => some (slotWord 0 49 (pack (scope.toNat) 524288 (pack (mask.toNat) 16 (g.toNat))))
  | .mfcr d n g => some (slotWord 0 50 (pack (d.toNat) 65536 (pack (n.toNat) 16 (g.toNat))))
  | .mtcr d n g => some (slotWord 0 50 (pack (d.toNat) 65536 (pack (1) 32768 (pack (n.toNat) 16 (g.toNat)))))
  | .ldl d a c z g _ => some (slotWord 0 51 (pack (d.toNat) 65536 (pack (a.toNat) 1024 (pack (c.toNat) 64 (pack (z.toNat) 16 (g.toNat))))))
  | .stl d a c z g _ => some (slotWord 0 52 (pack (d.toNat) 65536 (pack (a.toNat) 1024 (pack (c.toNat) 64 (pack (z.toNat) 16 (g.toNat))))))
  | .ldg d a c z g _ => some (slotWord 0 53 (pack (d.toNat) 65536 (pack (a.toNat) 1024 (pack (c.toNat) 64 (pack (z.toNat) 16 (g.toNat))))))
  | .stg d a c z g _ => some (slotWord 0 54 (pack (d.toNat) 65536 (pack (a.toNat) 1024 (pack (c.toNat) 64 (pack (z.toNat) 16 (g.toNat))))))
  | .red d a c z g _ => some (slotWord 0 55 (pack (d.toNat) 65536 (pack (a.toNat) 1024 (pack (c.toNat) 64 (pack (z.toNat) 16 (g.toNat))))))
  | .atomAdd d a c w g _ => some (slotWord 0 56 (pack (d.toNat) 65536 (pack (a.toNat) 1024 (pack (c.toNat) 64 (pack (w.toNat) 16 (g.toNat))))))
  | .atomMin d a c w g _ => some (slotWord 0 57 (pack (d.toNat) 65536 (pack (a.toNat) 1024 (pack (c.toNat) 64 (pack (w.toNat) 16 (g.toNat))))))
  | .atomMax d a c w g _ => some (slotWord 0 58 (pack (d.toNat) 65536 (pack (a.toNat) 1024 (pack (c.toNat) 64 (pack (w.toNat) 16 (g.toNat))))))
  | .atomAnd d a c w g _ => some (slotWord 0 59 (pack (d.toNat) 65536 (pack (a.toNat) 1024 (pack (c.toNat) 64 (pack (w.toNat) 16 (g.toNat))))))
  | .atomOr d a c w g _ => some (slotWord 0 60 (pack (d.toNat) 65536 (pack (a.toNat) 1024 (pack (c.toNat) 64 (pack (w.toNat) 16 (g.toNat))))))
  | .atomXor d a c w g _ => some (slotWord 0 61 (pack (d.toNat) 65536 (pack (a.toNat) 1024 (pack (c.toNat) 64 (pack (w.toNat) 16 (g.toNat))))))
  | .atomSwap d a c w g _ => some (slotWord 0 62 (pack (d.toNat) 65536 (pack (a.toNat) 1024 (pack (c.toNat) 64 (pack (w.toNat) 16 (g.toNat))))))
  | .atomCas d a c w g _ => some (slotWord 0 63 (pack (d.toNat) 65536 (pack (a.toNat) 1024 (pack (c.toNat) 64 (pack (w.toNat) 16 (g.toNat))))))
  | .atomw d a c g _ => some (slotWord 0 63 (pack (d.toNat) 65536 (pack (a.toNat) 1024 (pack (c.toNat) 64 (pack (2) 16 (g.toNat))))))
  | .vadd d a b m z t => some (slotWord 1 0 (pack (d.toNat) 131072 (pack (a.toNat) 4096 (pack (b.toNat) 128 (pack (m.toNat) 16 (pack (bit z) 8 (pack (t.toNat) 2 0)))))))
  | .vsub d a b m z t => some (slotWord 1 1 (pack (d.toNat) 131072 (pack (a.toNat) 4096 (pack (b.toNat) 128 (pack (m.toNat) 16 (pack (bit z) 8 (pack (t.toNat) 2 0)))))))
  | .vmul d a b m z t => some (slotWord 1 2 (pack (d.toNat) 131072 (pack (a.toNat) 4096 (pack (b.toNat) 128 (pack (m.toNat) 16 (pack (bit z) 8 (pack (t.toNat) 2 0)))))))
  | .vfma d a b m z t => some (slotWord 1 3 (pack (d.toNat) 131072 (pack (a.toNat) 4096 (pack (b.toNat) 128 (pack (m.toNat) 16 (pack (bit z) 8 (pack (t.toNat) 2 0)))))))
  | .vmax d a b m z t => some (slotWord 1 4 (pack (d.toNat) 131072 (pack (a.toNat) 4096 (pack (b.toNat) 128 (pack (m.toNat) 16 (pack (bit z) 8 (pack (t.toNat) 2 0)))))))
  | .vmin d a b m z t => some (slotWord 1 5 (pack (d.toNat) 131072 (pack (a.toNat) 4096 (pack (b.toNat) 128 (pack (m.toNat) 16 (pack (bit z) 8 (pack (t.toNat) 2 0)))))))
  | .vabs d a m z t => some (slotWord 1 6 (pack (d.toNat) 131072 (pack (a.toNat) 4096 (pack (m.toNat) 16 (pack (bit z) 8 (pack (t.toNat) 2 0))))))
  | .vneg d a m z t => some (slotWord 1 7 (pack (d.toNat) 131072 (pack (a.toNat) 4096 (pack (m.toNat) 16 (pack (bit z) 8 (pack (t.toNat) 2 0))))))
  | .vcmp c k a b m z => some (slotWord 1 8 (pack (c.toNat) 1048576 (pack (k.toNat) 131072 (pack (a.toNat) 4096 (pack (b.toNat) 128 (pack (m.toNat) 16 (pack (bit z) 8 0)))))))
  | .viadd d a b m z t => some (slotWord 1 9 (pack (d.toNat) 131072 (pack (a.toNat) 4096 (pack (b.toNat) 128 (pack (m.toNat) 16 (pack (bit z) 8 (pack (t.toNat) 2 0)))))))
  | .visub d a b m z t => some (slotWord 1 10 (pack (d.toNat) 131072 (pack (a.toNat) 4096 (pack (b.toNat) 128 (pack (m.toNat) 16 (pack (bit z) 8 (pack (t.toNat) 2 0)))))))
  | .vimul d a b m z t => some (slotWord 1 11 (pack (d.toNat) 131072 (pack (a.toNat) 4096 (pack (b.toNat) 128 (pack (m.toNat) 16 (pack (bit z) 8 (pack (t.toNat) 2 0)))))))
  | .vimulh d a b m z t => some (slotWord 1 12 (pack (d.toNat) 131072 (pack (a.toNat) 4096 (pack (b.toNat) 128 (pack (m.toNat) 16 (pack (bit z) 8 (pack (t.toNat) 2 0)))))))
  | .vand d a b m z t => some (slotWord 1 13 (pack (d.toNat) 131072 (pack (a.toNat) 4096 (pack (b.toNat) 128 (pack (m.toNat) 16 (pack (bit z) 8 (pack (t.toNat) 2 0)))))))
  | .vor d a b m z t => some (slotWord 1 14 (pack (d.toNat) 131072 (pack (a.toNat) 4096 (pack (b.toNat) 128 (pack (m.toNat) 16 (pack (bit z) 8 (pack (t.toNat) 2 0)))))))
  | .vxor d a b m z t => some (slotWord 1 15 (pack (d.toNat) 131072 (pack (a.toNat) 4096 (pack (b.toNat) 128 (pack (m.toNat) 16 (pack (bit z) 8 (pack (t.toNat) 2 0)))))))
  | .vshl d a b m z t => some (slotWord 1 16 (pack (d.toNat) 131072 (pack (a.toNat) 4096 (pack (b.toNat) 128 (pack (m.toNat) 16 (pack (bit z) 8 (pack (t.toNat) 2 0)))))))
  | .vshr d a b m z t => some (slotWord 1 17 (pack (d.toNat) 131072 (pack (a.toNat) 4096 (pack (b.toNat) 128 (pack (m.toNat) 16 (pack (bit z) 8 (pack (t.toNat) 2 0)))))))
  | .vsar d a b m z t => some (slotWord 1 18 (pack (d.toNat) 131072 (pack (a.toNat) 4096 (pack (b.toNat) 128 (pack (m.toNat) 16 (pack (bit z) 8 (pack (t.toNat) 2 0)))))))
  | .vimin d a b m z t => some (slotWord 1 19 (pack (d.toNat) 131072 (pack (a.toNat) 4096 (pack (b.toNat) 128 (pack (m.toNat) 16 (pack (bit z) 8 (pack (t.toNat) 2 0)))))))
  | .vimax d a b m z t => some (slotWord 1 20 (pack (d.toNat) 131072 (pack (a.toNat) 4096 (pack (b.toNat) 128 (pack (m.toNat) 16 (pack (bit z) 8 (pack (t.toNat) 2 0)))))))
  | .vicmpSigned c k a b m z => some (slotWord 1 21 (pack (c.toNat) 1048576 (pack (k.toNat) 131072 (pack (a.toNat) 4096 (pack (b.toNat) 128 (pack (m.toNat) 16 (pack (bit z) 8 0)))))))
  | .vicmpUnsigned c k a b m z => some (slotWord 1 22 (pack (c.toNat) 1048576 (pack (k.toNat) 131072 (pack (a.toNat) 4096 (pack (b.toNat) 128 (pack (m.toNat) 16 (pack (bit z) 8 0)))))))
  | .vcvt d a e m z => some (slotWord 1 23 (pack (d.toNat) 131072 (pack (a.toNat) 4096 (pack (e.toNat) 128 (pack (m.toNat) 16 (pack (bit z) 8 0))))))
  | .vpack d a f p m z => some (slotWord 1 24 (pack (d.toNat) 131072 (pack (a.toNat) 4096 (pack (f.toNat) 512 (pack (p.toNat) 128 (pack (m.toNat) 16 (pack (bit z) 8 0)))))))
  | .vunpk d a f p m z => some (slotWord 1 25 (pack (d.toNat) 131072 (pack (a.toNat) 4096 (pack (f.toNat) 512 (pack (p.toNat) 128 (pack (m.toNat) 16 (pack (bit z) 8 0)))))))
  | .vexp2 d a m z => some (slotWord 1 26 (pack (d.toNat) 131072 (pack (a.toNat) 4096 (pack (m.toNat) 16 (pack (bit z) 8 0)))))
  | .vlog2 d a m z => some (slotWord 1 27 (pack (d.toNat) 131072 (pack (a.toNat) 4096 (pack (m.toNat) 16 (pack (bit z) 8 0)))))
  | .vrcp d a m z => some (slotWord 1 28 (pack (d.toNat) 131072 (pack (a.toNat) 4096 (pack (m.toNat) 16 (pack (bit z) 8 0)))))
  | .vrsq d a m z => some (slotWord 1 29 (pack (d.toNat) 131072 (pack (a.toNat) 4096 (pack (m.toNat) 16 (pack (bit z) 8 0)))))
  | .vrsum d a m => some (slotWord 1 30 (pack (d.toNat) 131072 (pack (a.toNat) 4096 (pack (m.toNat) 16 0))))
  | .vrmaxI d a m => some (slotWord 1 31 (pack (d.toNat) 131072 (pack (a.toNat) 4096 (pack (m.toNat) 16 0))))
  | .vrminI d a m => some (slotWord 1 32 (pack (d.toNat) 131072 (pack (a.toNat) 4096 (pack (m.toNat) 16 0))))
  | .vscan d a m => some (slotWord 1 33 (pack (d.toNat) 131072 (pack (a.toNat) 4096 (pack (m.toNat) 16 0))))
  | .vsrch d a b m => some (slotWord 1 34 (pack (d.toNat) 131072 (pack (a.toNat) 4096 (pack (b.toNat) 128 (pack (m.toNat) 16 0)))))
  | .vrand d b m z => some (slotWord 1 35 (pack (d.toNat) 131072 (pack (b.toNat) 512 (pack (m.toNat) 16 (pack (bit z) 8 0)))))
  | .vrandF d b m z => some (slotWord 1 35 (pack (d.toNat) 131072 (pack (1) 4096 (pack (b.toNat) 512 (pack (m.toNat) 16 (pack (bit z) 8 0))))))
  | .vperm d a b m z => some (slotWord 1 36 (pack (d.toNat) 131072 (pack (a.toNat) 4096 (pack (b.toNat) 128 (pack (m.toNat) 16 (pack (bit z) 8 0))))))
  | .vbcast d b m z t => some (slotWord 1 37 (pack (d.toNat) 131072 (pack (b.toNat) 128 (pack (m.toNat) 16 (pack (bit z) 8 (pack (t.toNat) 2 0))))))
  | .vslide d a b m z => some (slotWord 1 38 (pack (d.toNat) 131072 (pack (a.toNat) 4096 (pack (b.toNat) 128 (pack (m.toNat) 16 (pack (bit z) 8 0))))))
  | .vsel d a b m => some (slotWord 1 39 (pack (d.toNat) 131072 (pack (a.toNat) 4096 (pack (b.toNat) 128 (pack (m.toNat) 16 0)))))
  | .mlog f k a b => some (slotWord 1 40 (pack (f.toNat) 1048576 (pack (k.toNat) 131072 (pack (a.toNat) 4096 (pack (b.toNat) 128 0)))))
  | .mpop d a m => some (slotWord 1 41 (pack (d.toNat) 131072 (pack (a.toNat) 4096 (pack (m.toNat) 16 0))))
  | .mfirst d a m => some (slotWord 1 42 (pack (d.toNat) 131072 (pack (a.toNat) 4096 (pack (m.toNat) 16 0))))
  | .vpart d m => some (slotWord 1 43 (pack (d.toNat) 131072 (pack (m.toNat) 16 0)))
  | .vpartInv d m => some (slotWord 1 43 (pack (d.toNat) 131072 (pack (32) 128 (pack (m.toNat) 16 0))))
  | .vldl d c b m z _ => some (slotWord 1 44 (pack (d.toNat) 131072 (pack (c.toNat) 4096 (pack (b.toNat) 128 (pack (m.toNat) 16 (pack (bit z) 8 0))))))
  | .vstl d c b m _ => some (slotWord 1 45 (pack (d.toNat) 131072 (pack (c.toNat) 4096 (pack (b.toNat) 128 (pack (m.toNat) 16 0)))))
  | .vgath d a b m z _ => some (slotWord 1 46 (pack (d.toNat) 131072 (pack (a.toNat) 4096 (pack (b.toNat) 128 (pack (m.toNat) 16 (pack (bit z) 8 0))))))
  | .vscat d a b m _ => some (slotWord 1 47 (pack (d.toNat) 131072 (pack (a.toNat) 4096 (pack (b.toNat) 128 (pack (m.toNat) 16 0)))))
  | .vldg d c b m z _ => some (slotWord 1 48 (pack (d.toNat) 131072 (pack (c.toNat) 4096 (pack (b.toNat) 128 (pack (m.toNat) 16 (pack (bit z) 8 0))))))
  | .vstg d c b m _ => some (slotWord 1 49 (pack (d.toNat) 131072 (pack (c.toNat) 4096 (pack (b.toNat) 128 (pack (m.toNat) 16 0)))))
  | .vmovg d j b => some (slotWord 1 50 (pack (d.toNat) 131072 (pack (j.toNat) 4096 (pack (b.toNat) 128 0))))
  | .vextr d a j => some (slotWord 1 51 (pack (d.toNat) 131072 (pack (a.toNat) 4096 (pack (j.toNat) 128 0))))
  | .accept d a b m => some (slotWord 1 52 (pack (d.toNat) 131072 (pack (a.toNat) 4096 (pack (b.toNat) 128 (pack (m.toNat) 16 0)))))
  | .mpush p g => some (slotWord 2 0 (pack (bit p) 2097152 (g.toNat)))
  | .mshift g => some (slotWord 2 1 (g.toNat))
  | .mpreld p v g => some (slotWord 2 2 (pack (bit p) 2097152 (pack (v.toNat) 65536 (g.toNat))))
  | .mdrain p v g => some (slotWord 2 3 (pack (bit p) 2097152 (pack (v.toNat) 65536 (g.toNat))))
  | .mzero p g => some (slotWord 2 4 (pack (bit p) 2097152 (g.toNat)))
  | .mcfg n g => some (slotWord 2 5 (pack (n.toNat) 65536 (g.toNat)))
  | .mfeedRing f n g => some (slotWord 2 6 (pack (bit f) 2097152 (pack (n.toNat) 8192 (g.toNat))))
  | .mfeedMesh f n g => some (slotWord 2 6 (pack (bit f) 2097152 (pack (1) 524288 (pack (n.toNat) 8192 (g.toNat)))))
  | .mfeedHandle f n g => some (slotWord 2 6 (pack (bit f) 2097152 (pack (2) 524288 (pack (n.toNat) 8192 (g.toNat)))))
  | .slw a g _ => some (slotWord 4 0 (pack (a.toNat) 65536 (g.toNat)))
  | .sln a g _ => some (slotWord 4 1 (pack (a.toNat) 65536 (g.toNat)))
  | .slzp a e g _ => some (slotWord 4 2 (pack (a.toNat) 65536 (pack (bit e) 32768 (g.toNat))))
  | .slset a e i g => some (slotWord 4 3 (pack (a.toNat) 65536 (pack (bit e) 32768 (pack (i.toNat) 512 (g.toNat)))))
  | .cpyG2l a b c g => some (slotWord 3 0 (pack (a.toNat) 65536 (pack (b.toNat) 1024 (pack (c.toNat) 16 (g.toNat)))))
  | .cpyL2g a b c g => some (slotWord 3 1 (pack (a.toNat) 65536 (pack (b.toNat) 1024 (pack (c.toNat) 16 (g.toNat)))))
  | .cpyL2l a b c g => some (slotWord 3 2 (pack (a.toNat) 65536 (pack (b.toNat) 1024 (pack (c.toNat) 16 (g.toNat)))))
  | .cpyCl a b c g => some (slotWord 3 3 (pack (a.toNat) 65536 (pack (b.toNat) 1024 (pack (c.toNat) 16 (g.toNat)))))
  | .cpyPe a b c g => some (slotWord 3 4 (pack (a.toNat) 65536 (pack (b.toNat) 1024 (pack (c.toNat) 16 (g.toNat)))))
  | .qcfg q a g => some (slotWord 3 8 (pack (q.toNat) 65536 (pack (a.toNat) 1024 (g.toNat))))
  | .qcfgOff q g => some (slotWord 3 8 (pack (q.toNat) 65536 (pack (1) 16 (g.toNat))))
  | .qresv q d c g => some (slotWord 3 9 (pack (q.toNat) 65536 (pack (d.toNat) 1024 (pack (c.toNat) 16 (g.toNat)))))
  | .qcommit q c g => some (slotWord 3 10 (pack (q.toNat) 65536 (pack (c.toNat) 16 (g.toNat))))
  | .qawait q d c g => some (slotWord 3 11 (pack (q.toNat) 65536 (pack (d.toNat) 1024 (pack (c.toNat) 16 (g.toNat)))))
  | .qrel q c g => some (slotWord 3 12 (pack (q.toNat) 65536 (pack (c.toNat) 16 (g.toNat))))
  | .qtick q d g => some (slotWord 3 13 (pack (q.toNat) 65536 (pack (d.toNat) 1024 (g.toNat))))
  | .qfill q a g => some (slotWord 3 14 (pack (q.toNat) 65536 (pack (a.toNat) 1024 (g.toNat))))
  | .qtest q p t g => some (slotWord 3 15 (pack (q.toNat) 65536 (pack (p.toNat) 1024 (pack (t.toNat) 16 (g.toNat)))))
  | .qfence m g => some (slotWord 3 16 (pack (m.toNat) 16 (g.toNat)))
  | .route a b c g => some (slotWord 3 24 (pack (a.toNat) 65536 (pack (b.toNat) 1024 (pack (c.toNat) 16 (g.toNat)))))
  | .rtcfg a b c g => some (slotWord 3 25 (pack (a.toNat) 65536 (pack (b.toNat) 1024 (pack (c.toNat) 16 (g.toNat)))))
  | .rasm a b c g => some (slotWord 3 26 (pack (a.toNat) 65536 (pack (b.toNat) 1024 (pack (c.toNat) 16 (g.toNat)))))
  | .rret a b c g => some (slotWord 3 27 (pack (a.toNat) 65536 (pack (b.toNat) 1024 (pack (c.toNat) 16 (g.toNat)))))
  | .kvadv a b c g => some (slotWord 3 32 (pack (a.toNat) 65536 (pack (b.toNat) 1024 (pack (c.toNat) 16 (g.toNat)))))
  | .kvtrunc a b c g => some (slotWord 3 33 (pack (a.toNat) 65536 (pack (b.toNat) 1024 (pack (c.toNat) 16 (g.toNat)))))
  | .kvmap a b c g => some (slotWord 3 34 (pack (a.toNat) 65536 (pack (b.toNat) 1024 (pack (c.toNat) 16 (g.toNat)))))
  | .pnlook a b c g => some (slotWord 3 35 (pack (a.toNat) 65536 (pack (b.toNat) 1024 (pack (c.toNat) 16 (g.toNat)))))
  | .pnins a b c g => some (slotWord 3 36 (pack (a.toNat) 65536 (pack (b.toNat) 1024 (pack (c.toNat) 16 (g.toNat)))))
  | .pnrel a b c g => some (slotWord 3 37 (pack (a.toNat) 65536 (pack (b.toNat) 1024 (pack (c.toNat) 16 (g.toNat)))))
  | .pxtile a b c g => some (slotWord 3 40 (pack (a.toNat) 65536 (pack (b.toNat) 1024 (pack (c.toNat) 16 (g.toNat)))))
  | .encfrm a b c g => some (slotWord 3 41 (pack (a.toNat) 65536 (pack (b.toNat) 1024 (pack (c.toNat) 16 (g.toNat)))))
  | _ => none

/-- The word of a LIMM slot (R28). -/
def limmWord (x : Limm) (stop : Bool) : W32 := BitVec.ofNat 32 (bit stop * 2 ^ 31 + 5 * 2 ^ 28 + x.toNat)

/-- The words of an instruction; the last carries the stop bit when stop holds. -/
def encode (i : Instr) (stop : Bool) : List W32 :=
  match i.word? with
  | none => []
  | some w =>
    match i.limm? with
    | none => [BitVec.ofNat 32 (bit stop * 2 ^ 31 + w)]
    | some x => [BitVec.ofNat 32 w, limmWord x stop]

/-! ### Bundles -/

/-- A slot of a bundle: its index in memory order and its instruction. -/
structure BundleSlot where
  index : Nat
  instr : Instr
deriving DecidableEq, Repr

/-- The largest number of slots of each kind (R16). -/
def kindLimit : Nat → Nat
  | 1 => 2
  | 3 => 2
  | _ => 1

/-- The place of a kind in the order scalar, vector, matrix, engine, scale (R16). -/
def kindRank : Nat → Nat := id

/-- What framing rules the word at index k breaks, given the words before it (R16, R17). -/
def frameErrors (before : List Nat) (k : Nat) (w : Nat) (next : Option Nat) : List DecodeError :=
  let kind := field w 28 3
  let seen := (before.map fun v => field v 28 3).filter (· != 5)
  if kind == 5 then
    let bad :=
      match before.getLast? with
      | none => true
      | some p => 
        match decodeSlotForLimm p (bv 28 w 0) with
        | some ok => !ok
        | none => true
    (if bad then [.limmMisplaced] else [])
      ++ (if kindLimit 5 ≤ (before.filter isLimm).length then [.tooMany] else [])
      ++ (if k == 7 && w / 2 ^ 31 == 0 then [.noStop] else [])
  else
    (match decodeSlot w (next.bind fun n => if w / 2 ^ 31 == 0 && isLimm n then some (bv 28 n 0) else none) with
      | .error e => [e]
      | .ok _ => []) ++
    (if kind < 5 && seen.any (fun s => s < 5 && kindRank kind < kindRank s) then [.kindOrder] else []) ++
    (if kind < 5 && kindLimit kind ≤ (seen.filter (· == kind)).length then [.tooMany] else []) ++
    (if k == 7 && w / 2 ^ 31 == 0 then [.noStop] else [])
where
  /-- Whether the slot p accepts the LIMM payload x: some false or none where it does not. -/
  decodeSlotForLimm (p : Nat) (x : Limm) : Option Bool :=
    if isLimm p then none
    else
      match field p 28 3 with
      | 0 => accept (decodeScalar (field p 22 6) p (some x)) x
      | 1 => accept (decodeVector (field p 22 6) p (some x)) x
      | 4 => accept (decodeScale (field p 22 6) p (some x)) x
      | _ => none
  accept (r : Except DecodeError Instr) (x : Limm) : Option Bool :=
    match r with
    | .ok i => some (i.limmType.accepts x)
    | .error _ => some true

/-- The lowest cause among several (R17). -/
def lowestError (es : List DecodeError) : Option DecodeError :=
  es.foldl (fun b e => match b with | none => some e | some c => if e.cause < c.cause then some e else some c) none

/-- Frame the words at the program counter: up to 8 slots to the first stop bit. The answer is the slots with their
LIMMs and the number of words, or the offending slot index and its cause (R13, R16, R17). avail is the
number of words the store still holds from here. -/
def frameBundle (words : List W32) (avail : Nat) : Except (Nat × DecodeError) (List BundleSlot × Nat) :=
  go 8 0 words avail [] []
where
  go : Nat → Nat → List W32 → Nat → List Nat → List BundleSlot → Except (Nat × DecodeError) (List BundleSlot × Nat)
  | 0, k, _, _, _, acc => .ok (acc.reverse, k)
  | fuel + 1, k, ws, avail, before, acc =>
    if avail == 0 then .error (k, .beyondStore)
    else
      let w := (ws.headD 0#32).toNat
      let next := if 1 < avail then (ws.tail.head?).map (·.toNat) else none
      match lowestError (frameErrors before k w next) with
      | some e => .error (k, e)
      | none =>
        let acc :=
          if isLimm w then acc
          else
            let x := next.bind fun n => if w / 2 ^ 31 == 0 && isLimm n then some (bv 28 n 0) else none
            match decodeSlot w x with
            | .ok i => ⟨k, i⟩ :: acc
            | .error _ => acc
        if w / 2 ^ 31 == 1 then .ok (acc.reverse, k + 1)
        else go fuel (k + 1) ws.tail (avail - 1) (before ++ [w]) acc

end Sys2Proof
end

