-- ==== Sys2Proof/Config.lean ====
section
/-! DEFINITION. What the package fixes (R3 and the resource tables) and the free values: constants without a body,
of which nothing can be proved, for what the manual leaves open (log 5). -/

namespace Sys2Proof.Config

/-- Main memory: frames 0x0 to 0x5FF_FFFF (R307, 12 resource table). -/
def mainFrames : Nat := 0x6000000
/-- Bytes of main memory. -/
def mainBytes : Nat := mainFrames * 4096
/-- Words of a core's instruction store (R13, R14: 512 KiB). -/
def storeWords : Nat := 131072
/-- Pool entries (R218). -/
def poolSize : Nat := 4096
/-- Largest value of a counter (07 resource table). -/
def counterMax : Nat := 4095
/-- Scratchpad bytes (05 resource table). -/
def padBytes : Nat := 0x200000
def bankBytes : Nat := 0x20000
/-- Issue cycles before a request falls back to freeze-and-snapshot (R379). -/
def fallbackCycles : Nat := 4096
/-- Issue cycles of a stub half (R378). -/
def stubCycles : Nat := 65536
/-- Merge groups, park entries, walk-cache and TLB entries, reduction groups and contributions per slice (10, 12). -/
def mergeGroups : Nat := 64
def parkEntries : Nat := 64
def tlbEntries : Nat := 2048
def walkEntries : Nat := 256
def redGroups : Nat := 1024
/-- Lines of an L1 and of a slice of the LLC, and LLC lines of a mebibyte (R3). -/
def l1Lines : Nat := 2048
def sliceLines : Nat := 2 ^ 20
def linesPerMiB : Nat := 8192
def redEntries : Nat := 65536
/-- Aging credit and scheduling tick, nanoseconds (R371). -/
def tickNs : Nat := 1000000

/-- A byte read from host memory (R327); the argument counts the reads. -/
opaque hostByte : Nat → Byte
/-- Whether the host answers an access in time and without an error status (R323). -/
opaque hostAnswers : Nat → Bool
/-- A byte read under another key than it was written under (R328). -/
opaque cipherByte : Nat → Byte
/-- What the encoder codes of a frame (R469): the payload's byte at a place behind its fixed beginning, and what the coder keeps for
later frames. They depend on the session record's parameters, the frame ring's, the samples, and what the coder has kept. -/
opaque bitstreamByte : List Nat → Nat → Byte
opaque coderState : List Nat → Nat
/-- A byte pulled from a peer package or read at a UET peer (R240). -/
opaque peerByte : Nat → Byte
/-- Whether the first of two box elements that name one byte wins (R234). -/
opaque firstWins : Nat → Bool
/-- The SHA3-512 digest of the public key that is fused into the die (R494). -/
opaque fusedKeyDigest : List Byte
/-- The bytes of an image's file, which firmware measures (R494, log 7): by its VA, its entry and its instruction words. -/
opaque imageBytes : List Nat → List Byte
/-- The fused security version (R494). -/
opaque fusedVersion : Nat
/-- The ML-DSA-87 signature of an attestation report by the device identity key (R495). -/
opaque attestSign : List Byte → List Byte
/-- Payload bytes of a coded frame, by what it is coded from (R469). -/
opaque payloadBytes : List Nat → Nat

/-- An element past the end of a lane, which a change of k within a panel or slice reaches: of the lane's own elements and its place
(R170, R411). -/
opaque pastLane : Nat → Nat → BitVec 16

/-- A register at the start of a restore half, where nothing has been reloaded yet (R377). -/
opaque resumeWord : Nat → BitVec 64

/-- Whether a ring of a unit outside the modelled gang can take row packets (R424, log 1). -/
opaque farUsable : Nat → Bool

/-- Whether a running unit of another core has arrived at its job's phase by now (R350, log 1). -/
opaque peerArrives : Nat → Bool

/-- The signature of a paired unit on another core (R355, log 1). -/
opaque peerSig : Nat → BitVec 64

/-- STATUS of a job whose completion counter a failed peer chunk has marked (R242); the manual gives no code. -/
opaque failedStatus : BitVec 8

/-- The VA of the context area that the dispatcher gives a unit (R384). -/
opaque areaVa : Nat → BitVec 64

/-- The graph sequence number in a completion record of a phase or a job, which belongs to no one graph (R358). -/
opaque recordGraph : Nat → BitVec 16

/-- Which admissible placement the dispatcher takes (R341). -/
opaque placeChoice : Nat → Nat

/-- The number that the front end gives a job, and the share by which a tokeniser takes requests of several classes and
partitions (R441, R458, R486). -/
opaque jobNumber : Nat → BitVec 32
opaque tokChoice : Nat → Nat

/-- The bytes of a partition's supervisor, which firmware measures (R494). -/
opaque supervisor : Nat → List Byte

/-- The bytes of a partition descriptor, of which an attestation report holds the digest (R495): the manual gives its
fields, here as numbers in their order, and no layout. -/
opaque descBytes : List Nat → List Byte

/-- The machine-check vector of a partition (R489). -/
opaque mcVector : BitVec 6

/-- SLOT of a trap that no slot raises: a stub overrun or a bad SAVEPC at resume (R378, R382). -/
opaque trapSlot : Nat → Nat

/-- Whether a request to a peer package is answered: a fault there that its partition ends by ABORT returns as an aborted access
(R324). -/
opaque peerAnswers : Nat → Bool

/-- Which of its partition's lines a full slice or a full quota evicts (R279, R485). -/
opaque victim : Nat → Nat

/-- Which chunk of a peer copy mismatches or is lost (R242). -/
opaque lostChunk : Nat → Nat

/-- The fault code of an aborted access for which the spec names none (R285, R288). -/
opaque abortCode : Nat → BitVec 4

end Sys2Proof.Config
end

