-- ==== Sys2Proof/Machine/State.lean ====
section
/-! DEFINITION. The state of the modelled core and of the package it stands in, as plain data. Each field
names the rule of spec/ that gives it; INVENTORY.md lists them with their reset values. -/

namespace Sys2Proof.Machine

/-- A finite map by natural keys: strictly rising keys. What an unlisted key holds is said at each use. -/
abbrev SMap (α : Type) := List (Nat × α)

/-- Memory: (address, byte) pairs, addresses strictly rising, no byte 0x00; an unlisted address reads 0x00 (log 4). -/
abbrev Memory := List Host.Cell

/-- A vector register's 64 latches of one edge (R188): SCALE of entry l in bits 16 l + 15 to 16 l, ZP in bits 8 l + 7 to 8 l. -/
structure Latches where
  scale : BitVec 1024
  zp    : BitVec 512
deriving DecidableEq, Repr

/-- Every SCALE 0x007F and every ZP 0 (R188). -/
def Latches.start : Latches := ⟨(List.replicate 64 0).foldl (fun (a : BitVec 1024) _ => (a <<< 16) ||| 0x7F#1024) 0#1024, 0#512⟩

/-- The configuration that pushes carry (R185, R186). -/
structure MatCfg where
  integer : Bool
  ga      : BitVec 2
  gb      : BitVec 2
  rows    : W64
  cols    : W64
deriving DecidableEq, Repr

def MatCfg.reset : MatCfg := ⟨false, 0#2, 0#2, BitVec.allOnes 64, BitVec.allOnes 64⟩

/-- Where a feeder takes its slices from (R174 to R177). -/
inductive FeedSrc where
  | ring (q : BitVec 6)
  | mesh (desc : W64)
  | handle (d0 d1 : W64)
deriving DecidableEq, Repr

/-- A feeder (R174 to R179): its binding, the format it took at binding, and its position. -/
structure Feeder where
  src     : Option FeedSrc
  fmt     : W64               -- format register value at binding: FMT, GSIZE, XVAL
  open_   : Bool              -- a slot or panel has been taken and is not used up
  pos     : Nat               -- elements of K already pushed from the open slot or panel
  fetched : Nat               -- panels whose fetch has been generated (handle source)
  used    : Nat               -- panels used up (handle source)
  landing : List (BitVec 1024)  -- slices in the remote landing buffer, oldest first (R176)
  bind    : Nat               -- number of the binding, so that fetches of an earlier one are dropped (R179)
deriving DecidableEq, Repr

def Feeder.unbound : Feeder := ⟨none, 0#64, false, 0, 0, 0, [], 0⟩

/-- A destination of an exposed result (R32, R380). -/
inductive Dest where
  | g (r : BitVec 6) (v : W64)
  | p (r : BitVec 3) (v : Bool)
  | v (r : BitVec 5) (bits : VReg) (data : VReg)   -- only the bits set in bits are written (R125, R136)
  | m (r : BitVec 3) (bits : W64) (data : W64)
  | cr (n : BitVec 11) (v : W64)
  | latch (north : Bool) (scaleBits : BitVec 1024) (zpBits : BitVec 512) (data : Latches)
  | mcfg (c : MatCfg)
  | feeder (north : Bool) (f : Feeder)
deriving DecidableEq, Repr

/-- An exposed result in flight: the issue cycle in which it lands, its place among the unit's accesses in program order
(R34), and the CR.FFLAGS bits it sets there. -/
structure Landing where
  due   : Nat
  ord   : Nat
  dest  : Dest
  flags : BitVec 6
deriving DecidableEq, Repr

/-- A ring descriptor (R198, R200). Beside the filled marks it keeps, by slot, what holds the ring until a configuration (slots
of failed work, R203) and which slots at HEAD engines have freed before an earlier one (R206). -/
structure Ring where
  w0    : W64
  w1    : W64
  head  : W16
  tail  : W16
  rsv   : W16
  marks : BitVec 1024
  held  : BitVec 1024
  gone  : BitVec 1024
deriving DecidableEq, Repr

/-- The scratchpad side of one core: allotted banks, format registers, bytes (unlisted 0x00) and ring descriptors. -/
structure Pad where
  banks : BitVec 16
  fmt   : Vector W64 16
  bytes : Memory
  rings : Vector (Option Ring) 64
deriving DecidableEq, Repr

def Pad.empty : Pad := ⟨0#16, Vector.replicate 16 0#64, [], Vector.replicate 64 none⟩

/-- One level of the hardware loop stack is a counter name, its first word and its last bundle (R74, R78). -/
structure LoopState where
  lc    : Vector W32 4
  start : Vector (BitVec 19) 4
  last  : Vector (BitVec 19) 4
  sel   : Vector (BitVec 2) 4
  depth : Nat
deriving DecidableEq, Repr

def LoopState.empty : LoopState :=
  ⟨Vector.replicate 4 0#32, Vector.replicate 4 0#19, Vector.replicate 4 0#19, Vector.replicate 4 0#2, 0⟩

/-- Why a unit was frozen: REASON of R383. -/
inductive FreezeReason where
  | trap | brk | halt | preempt
deriving DecidableEq, Repr

/-- What the sequencer of the core is doing. -/
inductive RunState where
  | none                          -- no unit on the core
  | running                       -- issuing (in a stub half when CR.PREEMPT says so)
  | frozen (r : FreezeReason)     -- held by freeze-and-snapshot (R379)
  | yielded                       -- the save half's YIELD has issued; the context is still to be saved (R376)
  | saved                         -- the context has been saved and the core released (R376)
  | exited                        -- EXIT has issued; operations are still to perform (R80)
  | stopped                       -- cancelled; operations are still to perform (R359)
  | completed                     -- the unit has completed (R80)
deriving DecidableEq, Repr

/-- An engine command (R42). Registers were read when its bundle issued. -/
inductive Cmd where
  | cpyG2l (near far0 far1 ctl gx : W64) (idx : List W32)
  | cpyL2g (near far0 far1 ctl : W64)
  | cpyL2l (near far ctl : W64)
  | cpyCl (near far ctl : W64)
  | cpyPe (near far0 far1 ctl : W64)
  | panel (north : Bool) (bind p : Nat) (d0 d1 : W64)
  | route (a b issued : W64)
  | rtcfg (a b : W64)
  | rasm (a b : W64)
  | rret (a b : W64)
  | kvadv (a b : W64)
  | kvtrunc (a b : W64)
  | kvmap (a b : W64)
  | pnlook (a b c : W64)
  | pnins (a b c : W64)
  | pnrel (a b : W64)
  | pxtile (a b c : W64)
  | encfrm (a b : W64)
deriving DecidableEq, Repr

/-- How far a queue entry has come. -/
inductive Stage where
  | waiting
  | fired (src : Nat)                        -- ring input taken at this local address (R206)
  | read (entry : List W64) (tickets : Option (List (Nat × Nat)))   -- a ladle read whose object-table entry has been read and whose lines are not yet all requested, with the slots it has reserved (R243, R291)
  | begun (src dst : Nat) (tickets : List (Nat × Nat)) (entry : List W64)  -- begun: source and destination starts, (core, index) of reserved slots, object-table entry
  | sent (src : Nat) (chunks : List Chunk) (entry : List W64)  -- a push to a peer: its chunks have been sent and await their acknowledgements (R240, R241)
deriving DecidableEq, Repr

/-- Whether an access of an engine operation is parked at a slice, or has been aborted with a fault code and VA (R323, R324). -/
inductive Halt where
  | none
  | parked (slice park : BitVec 6)
  | aborted (code : BitVec 4) (va : W64)
deriving DecidableEq, Repr

/-- An entry of an engine queue (R221). ord is its number in program order. -/
structure QEntry where
  ord   : Nat
  seq   : W32
  pc    : BitVec 19
  cls   : BitVec 4
  cmd   : Cmd
  fmts  : Vector W64 16      -- bank formats when its bundle issued (R158)
  stage : Stage
  halt  : Halt
deriving DecidableEq, Repr

/-- What an access of the unit's slots does (R253). -/
inductive AccKind where
  | load (d : BitVec 6) (size : Nat)
  | vload (d : BitVec 5) (mask : W64) (zero : Bool)
  | store
  | atom (op : AtomOp) (ty : AtomTy) (d : BitVec 6) (v expected : BitVec 128)
  | red (ty : BitVec 2) (nm1 rank : BitVec 12) (v : W64)
  | drawbase                                  -- the write of DRAWBASE made by CR.DRAWHI (R404)
deriving DecidableEq, Repr

/-- Where a part of an access stands. -/
inductive PartStage where
  | waiting                       -- not yet taken up by its home
  | merging (slice : BitVec 6)    -- in a merge group, or waiting for one (R292)
  | atPin (pa : Nat)              -- passed to the frame's pin slice (R280)
  | packet                        -- its response is on the network (R302)
  | parked (slice park : BitVec 6)
  | redOpen (slice : BitVec 6)    -- waiting in or for a reduction group (R287)
  | refused                       -- a contribution that the home refused (R287)
  | done
  | aborted (code : BitVec 4)
deriving DecidableEq, Repr

/-- The part of an access that lies in one naturally aligned 16-byte unit (R270): its bytes as (offset in the access, byte);
for a read, the byte is what has been read. -/
structure Part where
  va    : W64
  bytes : List (Nat × Byte)
  stage : PartStage
deriving DecidableEq, Repr

/-- A global access of the unit's slots that has not performed (R254). id is program order. -/
structure Access where
  id    : Nat
  cls   : BitVec 4
  kind  : AccKind
  va    : W64
  parts : List Part
  pc    : BitVec 19
deriving DecidableEq, Repr

/-- A FENCE that has not performed: the classes of K, the scope, and the first access or queue entry after it (R262). -/
structure MemFence where
  classes : BitVec 16
  scope   : BitVec 3
  before  : Nat
deriving DecidableEq, Repr

/-- A write posted to a peer package, or to the host (package 32), that no flush read has followed: its class,
program-order id and VA (R273). -/
structure Posted where
  package : Nat
  cls     : BitVec 4
  id      : Nat
  va      : W64
deriving DecidableEq, Repr

/-- An error that a deferred trap has not consumed: its order, class (0 NL, 1 NS, 2 NC, 3 feeder west, 4 feeder north), cause, and for an aborted access its fault code and VA (R220, R325). -/
structure Deferred where
  ord   : Nat
  cls   : Nat
  cause : Byte
  code  : BitVec 4
  va    : W64
  ring  : Option (BitVec 6 × W16)   -- the ring and index of the slot that a failed copy holds (R249)
  bind  : Nat                       -- for a feeder's panel, the binding that it was fetched for (R179)
deriving DecidableEq, Repr

/-- A line of the L1: the data and the event count at which the home held it (R260, R276). -/
structure L1Line where
  slot  : BitVec 12
  gen   : BitVec 4
  va    : Nat                 -- VA div 128
  data  : BitVec 1024
  stamp : Nat
deriving DecidableEq, Repr

/-- Group state of one PE in one plane (R187). -/
structure GroupAcc where
  ab : BitVec 32
  a  : BitVec 32
  b  : BitVec 32
deriving DecidableEq, Repr

/-- A slice pair in flight (R167): its age in beats since its push, tag, decoded operands and everything it carries. -/
structure Slice where
  age    : Nat
  plane  : Bool
  k      : Nat
  cfg    : MatCfg
  fmtW   : W64
  fmtN   : W64
  west   : List (List W16)    -- element codes of row i, k each
  north  : List (List W16)
  sw     : Latches
  sn     : Latches
  groupN : Nat                -- group length when it ends a group, else 0
deriving DecidableEq, Repr

structure Matrix where
  planes : Vector (Vector VReg 64) 2
  rp     : Vector (BitVec 6) 2
  group  : SMap GroupAcc            -- key 4096 plane + 64 row + column; unlisted is clear
  gpos   : Vector Nat 2
  slices : List Slice
  cfg    : MatCfg
  sw     : Latches
  sn     : Latches
  west   : Feeder
  north  : Feeder
  left   : List W64                 -- remote descriptors whose partly sent slot on another core a rebound feeder counts as received (R179)
deriving DecidableEq, Repr

/-- R189. -/
def Matrix.start : Matrix :=
  { planes := Vector.replicate 2 (Vector.replicate 64 0#2048), rp := Vector.replicate 2 0#6, group := []
    gpos := Vector.replicate 2 0, slices := [], cfg := .reset, sw := .start, sn := .start
    west := .unbound, north := .unbound, left := [] }

/-- A route entry's words (R421). -/
abbrev RouteEntry := W64 × W64

/-- The state of a rank of an open round (R428). -/
inductive RankState where
  | pending | returned | dropped | droppedInvalid | timedOut
deriving DecidableEq, Repr

structure Rank where
  st     : RankState
  len    : Nat                   -- bytes that its return has brought
  weight : W32
  expert : W16
  spill  : Bool
deriving DecidableEq, Repr

/-- A row packet still to be filled (R424). -/
structure RowPacket where
  row    : Nat
  rank   : Nat
  core   : Nat
  q      : BitVec 6
  expert : W16
  spill  : Bool
  drawn  : Bool                  -- generated: its NT entry is drawn
deriving DecidableEq, Repr

/-- A round (R423, R430). -/
structure Round where
  ord      : Nat                 -- the ROUTE's queue entry
  id       : W16
  nr       : Nat
  km       : Nat
  rin      : Nat
  tile     : List Byte           -- the rows as the engine read them when the ROUTE began
  deadline : Option Nat
  ranks    : List (List Rank)
  rowsDone : List Bool           -- combined into the output slot
  zbits    : List Bool
  slot     : Option (Nat × Nat)  -- output slot: local address and index (none while waiting for it)
  packets  : List RowPacket
deriving DecidableEq, Repr

/-- A mortar table (R427, R432). -/
structure Mortar where
  conf    : Option (W64 × W64)   -- the RASM operands
  round   : W16                  -- id of the open round or of the next
  open_   : Option Round
  late    : W16
  lateSinceCommit : Nat
deriving DecidableEq, Repr

def Mortar.start : Mortar := ⟨none, 0#16, none, 0#16, 0⟩

structure RouteState where
  tables : Vector (SMap RouteEntry) 4
  ra     : Vector Mortar 4
deriving DecidableEq, Repr

/-- Control registers and identity of the unit (R53 and the chapters that add to it). -/
structure Cregs where
  issued    : W64
  fflags    : BitVec 6
  stepping  : Byte
  cluster   : BitVec 5
  pcore     : BitVec 4
  lcore     : BitVec 4
  unit      : W32
  part      : BitVec 4
  job       : W32
  rung      : BitVec 3
  blocklim  : W32
  faultinfo : W64
  livebanks : BitVec 16
  qsel      : BitVec 6
  qerr      : BitVec 6
  cpystat   : W64
  otbase    : W64
  otlen     : BitVec 17
  cpyerr    : Vector W64 4
  gxmode    : W64
  redref    : Bool
  cbarGen   : BitVec 24
  cbarPend  : Bool
  cbarRing  : BitVec 6
  cbarCov   : List Nat           -- accesses that this unit's arrival covers (R299)
  cbarPeers : BitVec 16          -- other logical cores of the gang that have arrived
  cbarRecs  : List (BitVec 6 × BitVec 24)  -- release records still to be written: ring and GEN
  cbarRings : SMap (BitVec 6)    -- rings that the other cores' arrivals name
  cbarOut   : List (Nat × BitVec 6 × BitVec 24)  -- release records still to be written for the other cores: core, ring, GEN
  asidSlot  : BitVec 12
  asidGen   : BitVec 4
  memfault  : W64
  kverr     : W64
  pending   : Bool             -- CR.PREEMPT PENDING
  restore   : Bool             -- CR.PREEMPT STAGE
  savepc    : BitVec 19
  ctxbase   : W64
  drawlo    : W64
  drawhi    : W64
  drawkey   : W64
  rterr     : W64
deriving DecidableEq, Repr

def Cregs.start : Cregs where
  issued := 0#64
  fflags := 0#6
  stepping := 0#8
  cluster := 0#5
  pcore := 0#4
  lcore := 0#4
  unit := 0#32
  part := 0#4
  job := 0#32
  rung := 0#3
  blocklim := 0#32
  faultinfo := 0#64
  livebanks := 0#16
  qsel := 0#6
  qerr := 0#6
  cpystat := 0#64
  otbase := 0#64
  otlen := 0#17
  cpyerr := Vector.replicate 4 0#64
  gxmode := 0#64
  redref := false
  cbarGen := 0#24
  cbarPend := false
  cbarRing := 0#6
  cbarCov := []
  cbarPeers := 0#16
  cbarRecs := []
  cbarRings := []
  cbarOut := []
  asidSlot := 0#12
  asidGen := 0#4
  memfault := 0#64
  kverr := 0#64
  pending := false
  restore := false
  savepc := 0#19
  ctxbase := 0#64
  drawlo := 0#64
  drawhi := 0#64
  drawkey := 0#64
  rterr := 0#64

/-- The launch attributes a unit needs while it runs (R338). -/
structure UnitLaunch where
  graph  : W16
  launch : Nat
  gang   : Nat
  phb    : Bool
  paired : Bool
  units  : W32
  nr     : Nat
  nc     : Nat
  fuse   : Bool
  copy   : Nat                 -- 1 to 3 for a paired launch, else 0 (R354)
  arrived : Option W32         -- the phase in which the unit has arrived and waits (R350)
  drain  : List (BitVec 19 × BitVec 19 × BitVec 19)   -- drain table (R374)
  slots  : SMap (List W16)     -- slot tables by logical core (R296)
  routers : SMap (List W16)    -- as the routers hold them, by physical core (R342)
deriving DecidableEq, Repr

def UnitLaunch.none : UnitLaunch :=
  { graph := 0#16, launch := 0, gang := 0, phb := false, paired := false, units := 0#32, nr := 1, nc := 1
    fuse := false, copy := 0, arrived := Option.none, drain := [], slots := [], routers := [] }

/-- What a slot of the bundle in issue leaves to be done once the whole bundle has issued: a TRAP or BREAK with its
code (R79), the end of the unit (R80), the end of a save half or of a restore half (R376). -/
inductive After where
  | none
  | trap (code : BitVec 12)
  | brk (code : BitVec 12)
  | exit
  | save
  | restore
deriving DecidableEq, Repr

/-- The place in a bundle at which the model stands while it issues one (the model's own). -/
structure IssueCtx where
  npc     : Nat               -- byte address of the word after the bundle
  target  : Option Nat        -- where a taken transfer or a skipped loop goes
  jump    : Bool              -- a BR, CALL, JR or JT has been taken: no end test (R75)
  slot    : Nat               -- index of the slot in memory order
  ea      : Bool              -- the next engine slot is EA
  after   : After
  tried   : Bool              -- the sequencer has tried a bundle since the last event (log 2)
  since   : Option Nat        -- time base at which the present counted stall began (R213)
  landed  : List Landing      -- what has landed since the last bundle issued, the present issue cycle (R34)
deriving DecidableEq, Repr

def IssueCtx.start : IssueCtx := ⟨0, Option.none, false, 0, true, .none, false, Option.none, []⟩

/-- A ring release whose move other agents may not see yet (R214): the ring, whether HEAD moved, the index before the
move (or the ticket filled), the accesses it covers, and its scope. -/
structure Release where
  q     : BitVec 6
  head  : Bool
  index : W16
  accs  : List Nat
  scope : Nat
deriving DecidableEq, Repr

/-- An event of a paired unit's signature (R355): address word, data word, and for a CPY.L2G that has not performed the
order number of its queue entry. -/
structure SigEvent where
  addr : W64
  data : W64
  copy : Option Nat
deriving DecidableEq, Repr

/-- The unit on the modelled core: everything its context holds. -/
structure Unit where
  run      : RunState
  pc       : BitVec 19
  istore   : SMap W32                 -- by word; unlisted words are zero (R48)
  cyc      : Nat                      -- issue cycles of the unit, stubs included
  g        : Vector W64 64
  p        : BitVec 8
  v        : Vector VReg 32
  m        : Vector W64 8
  loops    : LoopState
  landing  : List Landing
  cr       : Cregs
  pad      : Pad
  mx       : Matrix
  nl       : Nat
  ns       : Nat
  nc       : Nat
  nt       : Nat
  cq0      : List QEntry
  cq1      : List QEntry
  fqw      : List QEntry
  fqn      : List QEntry
  rq       : List QEntry
  kq       : List QEntry
  seqs     : Vector W32 6             -- next entry number of each queue
  rels     : List Release             -- releases that have not performed for every agent (R214)
  qfences  : List (BitVec 6 × Nat)    -- QFENCEs: mask and the first entry after it (R223)
  nextAcc  : Nat                      -- program-order number of the next access or queue entry
  accs     : List Access
  fences   : List MemFence
  deferred : List Deferred
  posted   : List Posted              -- writes posted since the last flush (R273)
  l1       : List L1Line
  l1bound  : Vector Nat 16
  rt       : RouteState
  launch   : UnitLaunch
  ctx      : IssueCtx
  sig      : List SigEvent            -- events of the signature of a paired launch, in issue order (R355)
  request  : Option Nat               -- a pre-emption request: issue cycle at which it reached the unit (R375, R379)
  triggers : List Nat                 -- TRIGGERs whose release has not performed: first access after it (R346)
  wdheld   : Bool                     -- a WAITDEP's condition has held before (R347)
  stub     : Option Nat               -- issue cycle at which the present stub half began (R378)
  stubpc   : Option (BitVec 19)       -- STUBPC with SV (R378, R384)
deriving DecidableEq, Repr

/-- The scalar copy of a divert (R375): G, the loop stack and the RW, W1C and RS control registers. -/
structure ScalarCopy where
  g     : Vector W64 64
  p     : BitVec 8
  m     : Vector W64 8
  loops : LoopState
  cr    : Cregs
  rp    : Vector (BitVec 6) 2
  fmt   : Vector W64 16
deriving DecidableEq, Repr

/-- The context area of a unit (R384), region by region. -/
structure CtxArea where
  savepc   : BitVec 19
  kind     : Nat                      -- 1 drain stub, 2 freeze
  reason   : Nat
  banks    : BitVec 16
  time     : Nat
  issued   : W64
  stubpc   : Option (BitVec 19)
  scalar   : ScalarCopy
  qidx     : Option W64               -- CR.QIDX's image as system software has rewritten it while a stub is frozen (R382)
  snapshot : List Landing             -- due is REM, the bundles to issue before it lands
  rings    : Vector (Option Ring) 64
  v        : Vector VReg 32           -- freeze only
  mx       : Matrix                   -- planes: freeze only
  pad      : Memory
  before   : Nat                      -- first access issued after the divert: earlier ones land in the scalar copy (R49)
  landed   : List Landing             -- what had landed in the program's issue cycle, and has since (R34, R49)
  resumed  : Option Bool              -- resumed while its gang was off its core: whether SAVEPC then lay in the store (R382)
deriving DecidableEq, Repr

/-- A saved unit that has left the modelled core, with the scratchpads of its gang and its context area, until its gang is placed
again (R224, R373), and what waits for it to be resident: writes of engines and chunks (R204). -/
structure Aside where
  unit    : Unit
  peers   : SMap Pad
  area    : Option CtxArea
  inbound : List FarPut
  chunks  : List Chunk
deriving DecidableEq, Repr

/-! ### The package -/

/-- A 32-byte LLC sector: the slice that holds it, valid and dirty byte masks and data (R279). Keyed by PA div 32. -/
structure Sector where
  home  : BitVec 6
  valid : W32
  dirty : W32
  data  : BitVec 256
deriving DecidableEq, Repr

/-- Where the bytes of a line that a ladle read names go (R302): logical core, local address, first byte of the line,
count; and the copy's order number. -/
structure LadlePut where
  core : Nat
  addr : Nat
  off  : Nat
  len  : Nat
  ord  : Nat
deriving DecidableEq, Repr

/-- A merge group (R268, R292): the PA line, the key of its fill, the valid bytes when it opened, the sectors its reads
wait for, and its receivers: merged reads (access, part) and ladle writes. queued: a read that waits for a group to be free. -/
structure MergeGroup where
  slice   : BitVec 6
  line    : Nat
  key     : Nat
  overlay : List (Option Byte)
  sectors : BitVec 4
  members : List (Nat × Nat)
  puts    : List LadlePut
  open_   : Bool
  queued  : Bool
deriving DecidableEq, Repr

/-- A response packet on its way to a cluster stop (R302): its slice, the line's bytes, the merged reads and the ladle writes. -/
structure Packet where
  slice   : BitVec 6
  line    : Nat
  data    : List Byte
  members : List (Nat × Nat)
  puts    : List LadlePut
deriving DecidableEq, Repr

structure TlbEntry where
  slice : BitVec 6
  slot  : BitVec 12
  gen   : BitVec 4
  va    : Nat
  size  : Nat
  pa    : Nat
  leaf  : W64
  sc    : BitVec 2
  at_   : Nat               -- physical address of the leaf
deriving DecidableEq, Repr

/-- A walk-cache entry (R333). -/
structure WalkEntry where
  slice : BitVec 6
  level : Nat
  slot  : BitVec 12
  gen   : BitVec 4
  tag   : Nat
  entry : W64
deriving DecidableEq, Repr

/-- Who waits in a park entry. -/
inductive Parked where
  | access (acc part : Nat)
  | copy (cq1 : Bool)
  | panel (north : Bool)
  | rq
  | kq
  | job (key : Nat)
  | encoder (fr : BitVec 6)
  | ladder (key : Nat)              -- the dispatcher's read of a rung entry or of the launch records of a rung
  | retry (i : Instr)               -- a read that the Clatik complex makes on an event, which comes again when the read is resumed
  | edge (bs : List Byte) (submit : Option Nat)   -- a write of the front end: its bytes, and the job whose graph is submitted after it
  | agent (q : Requester)           -- a request of an agent outside the modelled core (R310)
  | chunk (c : Chunk) (count : Bool)   -- a peer's chunk: its writes, or the add to its landing's arrival count (R310, R492)
deriving DecidableEq, Repr

/-- A fault record, 32 bytes (R323). -/
structure FaultRecord where
  va      : W64
  entry   : W64
  slot    : BitVec 12
  gen     : BitVec 4
  code    : BitVec 4
  level   : Nat
  peer    : Bool
  full    : Bool
  kind    : Nat
  cls     : BitVec 4
  slice   : BitVec 6
  park    : Byte
  package : BitVec 5
  cluster : BitVec 5
  pcore   : BitVec 4
  agent   : BitVec 2
  unit    : W32
deriving DecidableEq, Repr

structure ParkEntry where
  slice : BitVec 6
  index : BitVec 6
  who   : Parked
  va    : W64
  part  : BitVec 4          -- partition that owns the slot
  code  : BitVec 4          -- fault code
  slot  : BitVec 12
  gen   : BitVec 4
  kind  : Nat               -- access kind of R316
deriving DecidableEq, Repr

/-- Statistic counters of a slice (R281). -/
structure SliceStats where
  fills  : W64
  merged : W64
  splits : W64
  hits   : W64
  resp   : W64
deriving DecidableEq, Repr

def SliceStats.zero : SliceStats := ⟨0#64, 0#64, 0#64, 0#64, 0#64⟩

/-- A reduction group (R287). -/
structure RedGroup where
  slice : BitVec 6
  slot  : BitVec 12
  gen   : BitVec 4
  va    : W64
  pa    : Nat
  ty    : BitVec 2
  nm1   : BitVec 12
  held  : SMap W64          -- by rank
  accs  : List Nat
deriving DecidableEq, Repr

structure AsidEntry where
  v    : Bool
  gen  : BitVec 4
  part : BitVec 4
  root : BitVec 40
deriving DecidableEq, Repr

/-- A status record of a translation command (R311): 0 done, 1 rejected. -/
structure TcmdStatus where
  part   : BitVec 4
  status : Nat
deriving DecidableEq, Repr

/-- A translation command that has not been reported complete: the accesses translated before an invalidation (R320), or the access or queue
entry to which an abort is still to be delivered (R311). -/
structure TcmdPending where
  part  : BitVec 4
  accs  : List Nat
  ladle : List Nat           -- ladle copies by order number: lines of them are translated and not yet written
  gone  : List Nat           -- an aborted access or queue entry by order number: it has still to come back to its unit
deriving DecidableEq, Repr

/-- An image as the dispatcher uses it (R46, R48); the byte layout of .dxi files is not in the spec (log 7). -/
structure Image where
  entry   : W64
  text    : List W32
  rings   : List (BitVec 6 × W64 × W64 × Bool)   -- words 0 and 1; whether PERM also names the unit itself (perm=self)
  banks   : List (BitVec 4 × W64)
  handles : List (W16 × List W64)
  drain   : List (Nat × Nat × Nat)
  slots   : List (Nat × List W16)
  ok      : Bool                       -- the header is complete and names no missing label (R340 DETAIL 0x03, R374)
deriving DecidableEq, Repr

/-- A completion or stream status record waiting or written (R358, R368). -/
structure CompRecord where
  job    : W32
  graph  : W16
  launch : Byte
  level  : Byte
  status : Byte
  detail : Byte
  result : Byte
  phase  : W32
  sig    : W64
  time   : Nat
deriving DecidableEq, Repr

inductive GangState where
  | waiting
  | running (at_ : Placement)
  | saving (at_ : Placement)
  | saved
  | done
deriving DecidableEq, Repr

structure Gang where
  st      : GangState
  cluster : Option (BitVec 5)          -- where it was placed last (R354)
  ready   : Option Nat                 -- time base since which it is ready (R371)
  started : Nat
  cancelled : Bool                     -- a cancel of it has been accepted (R359)
deriving DecidableEq, Repr

/-- What the dispatcher knows of a unit of a launch (R346 to R350, R80). -/
structure UnitInfo where
  done      : Bool
  triggered : Bool
  arrived   : Option W32               -- the phase in which it has arrived by PHASE and is held
  waits     : Bool                     -- held in WAITDEP (R372)
  status    : Byte
  detail    : Byte
  sig       : W64
deriving DecidableEq, Repr

def UnitInfo.start : UnitInfo := ⟨false, false, Option.none, false, 0#8, 0#8, 0#64⟩

structure Launch where
  rec_     : LaunchRec
  order    : Nat                       -- submission order over the package (R371)
  deps     : List (W16 × Nat)          -- producers: graph sequence number, launch index (R343)
  rung     : BitVec 3
  cscale   : Nat
  gangs    : List Gang                 -- of every copy of a paired launch, copy by copy
  units    : SMap UnitInfo             -- by 2^32 (copy − 1) + unit index; unlisted UnitInfo.start
  copies   : Nat                       -- 1, 2 or 3 copies to run (R354, R356)
  started  : Option Nat
  status   : Option Byte               -- set when the launch has completed
  detail   : Byte
  result   : Byte
  sig      : W64
  cancelled : Option Byte              -- a cancel has been accepted with this status
  endPhase : Option W32                -- the job's phase in which it completed
deriving DecidableEq, Repr

structure Graph where
  seq      : W16
  launches : List Launch
  done     : Bool
  cancelled : Option Byte              -- a cancel of it has been accepted with this status (R359)
deriving DecidableEq, Repr

/-- A job record with its D fields and the dispatcher's own notes (R361, R368). -/
structure Job where
  r        : JobRec
  open_    : Bool
  phase    : W32
  deadline : W64
  compTail : W32
  created  : Nat
  drawBase : BitVec 128
  rung     : BitVec 3
  nextSeq  : W16
  graphs   : List Graph
  graphsOut   : W32                    -- GRAPHS and LAUNCHES: outstanding ones (R357, R361)
  launchesOut : W32
  held     : List CompRecord
  climb    : Nat
  due      : Option Nat                -- time base at which the next stream graph is due (R364)
  done     : Bool
  failed   : Bool                      -- a peer chunk of the job has failed (R242)
  status   : Byte                      -- lowest nonzero status of its parts, else 0
  slot     : BitVec 12
  gen      : BitVec 4
  halt     : Halt                      -- the write of a completion record, where it is parked or aborted
deriving DecidableEq, Repr

/-- A unit-event record (R383). -/
structure UnitEvent where
  part   : BitVec 4
  job    : W32
  unit   : W32
  lcore  : BitVec 4
  reason : Nat
  info   : W64
  area   : W64
deriving DecidableEq, Repr

/-- A slot of a frame ring (R463, R464): state 0 free, 1 filling, 2 complete, 3 encoding. -/
structure FrameSlot where
  st    : Nat
  fn    : W32
  tiles : Nat
  taken : List (Nat × Nat)
deriving DecidableEq, Repr

structure FrameRing where
  reg   : FrameRingReg
  scale : List W32
  offs  : List W32
  slots : List FrameSlot
  fhead : W32
  pages : List Nat                 -- frames of its span, page by page, as translated at registration
deriving DecidableEq, Repr

/-- A session of the encoder, or a waiting ONE (R471): its ring, frame number (ONE), session record, pixel rate as a fraction
(BIND), owner job, the identifier under which its accesses translate, and whether the modelled unit's command made it. -/
structure Session where
  fr   : BitVec 6
  fn   : W32
  rec_ : W64
  num  : Nat
  den  : Nat
  job  : Nat
  slot : BitVec 12
  gen  : BitVec 4
  own  : Bool
deriving DecidableEq, Repr

/-- A frame that the encoder has taken (R472): its session, its number, whether by ENCFRM ONE, and the time of the take. -/
structure Encoding where
  ses  : Session
  fn   : W32
  one  : Bool
  time : Nat
  halt : Halt
deriving DecidableEq, Repr

structure Encoder where
  bound : List Session
  busy  : Option Encoding
  ones  : List Session                -- waiting ONE commands
  turn  : List (BitVec 6)             -- round-robin order
  coder : List (BitVec 12 × W64 × Nat)  -- by session record: what the coder keeps from the frames coded before (R469)
deriving DecidableEq, Repr

structure Pantry where
  buckets : Nat
  log2n   : Nat
  backmap : Nat
deriving DecidableEq, Repr

/-- A loaded vocabulary (R442). -/
structure Vocab where
  part    : BitVec 4
  skip    : Bool
  ntok    : Nat
  merges  : List (W32 × W32 × W32 × W32)
  tokens  : SMap (List Byte)           -- by token id; unlisted ids have no bytes
  special : List (W32 × List Byte)
  byteTab : List W32
  cls     : List (BitVec 4)
  join    : List W16
  bytes   : Nat                        -- of its image, which stands in pinned LLC
deriving DecidableEq, Repr

/-- A detokeniser context (R449 to R452). -/
structure DetokCtx where
  part    : BitVec 4
  job     : W32
  flow    : Nat
  session : W64
  vocab   : BitVec 4
  raw     : Bool
  incl    : Bool
  stops   : List (List Byte)
  maxTok  : Nat
  held    : List Byte                  -- UTF-8 stage
  out     : List Byte                  -- held back by the stop stage
  ntok    : Nat
  seq     : Nat
  ended   : Bool
  ring    : RingRef
  block   : W64
  slot    : BitVec 12
deriving DecidableEq, Repr

/-- A request queued for a tokeniser (R441). -/
structure TokReq where
  part    : BitVec 4
  job     : W32
  vocab   : BitVec 4
  special : Bool
  body    : List Byte
  replay  : Option (List W32)
  inRing  : RingRef
  rpRing  : RingRef
  sc      : BitVec 2
deriving DecidableEq, Repr

/-- A tokeniser (R445 to R448): its request, the tokens not yet written, the position of the next one, whether the slot with
END has been written, and the next replay index (none once the replay ring has its END). -/
structure Tokeniser where
  req    : Option TokReq
  tokens : List W32
  pos    : Nat
  ended  : Bool
  rpos   : Option Nat
deriving DecidableEq, Repr

def Tokeniser.idle : Tokeniser := ⟨Option.none, [], 0, false, Option.none⟩

/-- A Mirot reply record that has left (R456). -/
structure Reply where
  flow  : Nat
  bytes : List Byte
deriving DecidableEq, Repr

/-- A request block in use until its job completes: its partition, template and index, and of its job the number, the vocabulary, the
flow, the session and the first graph, as its request was taken (R441, R442, R455, R458, R459). -/
structure ReqBlock where
  part     : BitVec 4
  template : W16
  index    : Nat
  job      : W32
  vocab    : BitVec 4
  flow     : Nat
  session  : W64
  graph    : List LaunchRec
deriving DecidableEq, Repr

structure TextState where
  vocabs    : SMap Vocab
  templates : List TemplateReg
  blocks    : List ReqBlock
  shares    : SMap Nat                 -- requests taken in the present round, by 16 × class + partition, and by 64 + class (R441, R486)
  toks      : Vector Tokeniser 8
  queue     : List TokReq
  ctxs      : List DetokCtx
  replies   : List Reply
deriving DecidableEq, Repr

/-- A machine-check record (R489). -/
structure McRecord where
  part   : BitVec 4
  addr   : W64
  source : Nat
  place  : W16
  jobid  : W64
  time   : Nat
deriving DecidableEq, Repr

/-- The state of the boot sequence (R494). -/
inductive BootState where
  | off | recovery | running
deriving DecidableEq, Repr

/-- Package-wide state of 23_partitions_links.md. -/
structure Package where
  boot      : BootState
  number    : BitVec 5
  members   : BitVec 32              -- packages of the load-store domain; 0 outside any domain
  link      : Bool                   -- the host port's link is up
  parts     : SMap PartDesc
  keys      : SMap Nat               -- key number of each partition
  nextKey   : Nat
  resets    : SMap Nat               -- partitions in reset and the step reached (R487)
  acks      : List (BitVec 4)        -- reset acknowledgements written to the host
  heldIrq   : List (BitVec 4 × BitVec 6)
  sentIrq   : List (BitVec 4 × BitVec 6)
  mchecks   : List McRecord
  corrected : Vector Nat 6           -- corrected errors by source
  logged    : Nat                    -- errors in data of no partition, logged by firmware
  landings  : List (LandingReg × Nat × Bool)   -- arrival count, failure recorded
  badChunks : List (W16 × W32 × W16)  -- chunks that have mismatched once: sender, SEQ, index (R242)
  heldChunks : List Chunk            -- chunks whose landing ring has no room or whose unit is not resident (R203, R204)
  outbox    : List (Nat × Chunk)     -- chunks sent, oldest first: to a package, or 32 + the peer of an endpoint entry (R240)
  endpoints : List (BitVec 4 × W16 × Nat)
  meas      : Vector (BitVec 512) 8  -- M0 to M7
  measured  : List Nat               -- images registered, by VA (R494)
  power     : Nat
  tripped   : Bool
  reports   : List (List Byte)
deriving DecidableEq, Repr

structure State where
  unit     : Unit
  here     : BitVec 5 × BitVec 4     -- the physical core that the model follows: cluster and core number (log 1, R55)
  peers    : SMap Pad                -- other logical cores of the gang (log 1)
  area     : Option CtxArea
  areaMem  : Option (W64 × CtxArea)  -- the context that memory holds at a CR.CTXBASE, as it was written last (R384)
  ringPos  : SMap Nat                -- records written to a partition's rings, by 16 × ring + partition: 0 EVRING, 1 MCRING, 2 FAULTRING
  ringOut  : SMap Nat                -- records that system software has taken of a partition's fault ring
  aside    : List Aside              -- saved units that have given up the modelled core (R373)
  time     : Nat                     -- the time base, nanoseconds (R363)
  dram     : Memory                  -- main memory at the controllers; unlisted bytes read 0x00 (log 4)
  dramKey  : SMap Nat                -- by 32-byte sector: key number it was written under; unlisted: any
  llc      : SMap Sector
  bad      : List Nat                -- sectors whose bytes have an uncorrectable error (R489)
  owed     : List (BitVec 4 × W32 × Nat)  -- jobs to be cancelled for a read of such a sector: partition, job, sector (R489)
  pinned   : SMap (BitVec 4)         -- pinned frames and the partition that pinned them (R280)
  owners   : SMap (BitVec 4)         -- by frame: the partition whose lines of it the LLC holds (R485, R487)
  zeroing  : List (Nat × Nat × Nat)  -- pages made zero through a leaf whose Z stands: first frame, frames, the leaf's address (R326)
  stats    : Vector SliceStats 64
  groups   : List MergeGroup
  packets  : List (Nat × Packet)
  nextPkt  : Nat
  inbound  : List FarPut             -- writes of other cores' engines that wait for room or for the unit to be resident (R203, R204)
  tlb      : List TlbEntry
  walks    : List WalkEntry
  reads    : Nat                     -- table-entry reads at the controllers
  parks    : List ParkEntry
  faults   : List (BitVec 4 × FaultRecord)   -- fault rings: records not yet taken by system software
  heldFlt  : List (BitVec 4 × FaultRecord)   -- records held for a full fault ring
  reds     : List RedGroup
  redWait  : List (BitVec 6 × Requester)   -- contributions waiting to open a group, in arrival order
  asids    : SMap AsidEntry
  tcmds    : List TcmdStatus
  tpend    : List TcmdPending
  twait    : List (BitVec 4 × BitVec 6 × BitVec 6 × Bool)  -- RESUME (false) and ABORT (true) commands for accesses whose record waits for room (R323)
  images   : SMap Image              -- by image VA (log 7)
  jobs     : SMap Job                -- by 2^32 × partition + job number
  order    : Nat                     -- next submission order
  events   : List UnitEvent
  cores    : List (BitVec 5 × BitVec 4)   -- occupied physical cores
  frames   : SMap FrameRing
  enc      : Encoder
  pantries : SMap Pantry             -- by 16 × partition + number
  text     : TextState
  pkg      : Package
  freeCtr  : Nat                     -- next free value (log 5)
  stamp    : Nat                     -- event count for L1 bounds (R260)
  agenda   : List Instr              -- events that come next, in order (log 2)
deriving DecidableEq, Repr

/-- Reasons a step stops the machine. -/
inductive Fault where
  /-- Raised by TWRITE, PANTRY and ZERO_FILL events that name a physical address at or beyond the end of main memory
  (the frame table of 12_address_spaces.md ends at 0x5FF_FFFF): the spec says no such address exists. Safe: the model stops. -/
  | noSuchAddress (pa : Nat)
deriving DecidableEq, Repr

/-- Reasons a step refuses. -/
inductive Refusal where
  /-- Raised by exec for an instruction without a meaning. Safe. -/
  | notModelled (mnemonic : String)
  /-- Raised by step when State.agenda names a slot instruction: only events stand in the agenda. Safe. -/
  | agendaNotEvent
deriving DecidableEq, Repr

def Unit.start : Unit where
  run := .none
  pc := 0#19
  istore := []
  cyc := 0
  g := Vector.replicate 64 0#64
  p := 1#8
  v := Vector.replicate 32 0#2048
  m := Vector.replicate 8 0#64
  loops := .empty
  landing := []
  cr := .start
  pad := .empty
  mx := .start
  nl := 0
  ns := 0
  nc := 0
  nt := 0
  cq0 := []
  cq1 := []
  fqw := []
  fqn := []
  rq := []
  kq := []
  seqs := Vector.replicate 6 0#32
  rels := []
  qfences := []
  nextAcc := 0
  accs := []
  fences := []
  deferred := []
  posted := []
  l1 := []
  l1bound := Vector.replicate 16 0
  rt := ⟨Vector.replicate 4 [], Vector.replicate 4 .start⟩
  launch := .none
  ctx := .start
  sig := []
  request := Option.none
  triggers := []
  wdheld := false
  stub := Option.none
  stubpc := Option.none

/-- The package at power-on (R494): no unit, no partition, nothing in memory, the boot ROM still to run. -/
def Package.start : Package where
  boot := .off
  number := 0#5
  members := 0#32
  link := false
  parts := []
  keys := []
  nextKey := 1
  resets := []
  acks := []
  heldIrq := []
  sentIrq := []
  mchecks := []
  corrected := Vector.replicate 6 0
  logged := 0
  landings := []
  badChunks := []
  heldChunks := []
  outbox := []
  endpoints := []
  meas := Vector.replicate 8 0#512
  measured := []
  power := 1400
  tripped := false
  reports := []

/-- The machine right after reset. -/
def State.reset : State where
  unit := .start
  here := (0#5, 0#4)
  peers := []
  area := Option.none
  areaMem := Option.none
  ringPos := []
  ringOut := []
  aside := []
  time := 0
  dram := []
  dramKey := []
  llc := []
  bad := []
  owed := []
  pinned := []
  owners := []
  zeroing := []
  stats := Vector.replicate 64 .zero
  groups := []
  packets := []
  nextPkt := 0
  inbound := []
  tlb := []
  walks := []
  reads := 0
  parks := []
  faults := []
  heldFlt := []
  reds := []
  redWait := []
  asids := []
  tcmds := []
  tpend := []
  twait := []
  images := []
  jobs := []
  order := 0
  events := []
  cores := []
  frames := []
  enc := ⟨[], Option.none, [], [], []⟩
  pantries := []
  text := ⟨[], [], [], [], Vector.replicate 8 .idle, [], [], []⟩
  pkg := .start
  freeCtr := 0
  stamp := 0
  agenda := []

end Sys2Proof.Machine
end

