-- ==== Sys2Proof/Machine/SMap.lean ====
section
/-! DEFINITION. Finite maps by natural keys in one canonical form (strictly rising keys), and memory as bytes
that read 0x00 where nothing is listed. -/

namespace Sys2Proof.Machine

/-- What the map holds at key k. -/
def mget {α : Type} (m : List (Nat × α)) (k : Nat) : Option α :=
  match m with
  | [] => none
  | (k', v) :: rest => if k' == k then some v else mget rest k

/-- The map with v at key k. -/
def mset {α : Type} (m : List (Nat × α)) (k : Nat) (v : α) : List (Nat × α) :=
  match m with
  | [] => [(k, v)]
  | (k', v') :: rest =>
    if k == k' then (k, v) :: rest else if k < k' then (k, v) :: (k', v') :: rest else (k', v') :: mset rest k v

/-- The map without key k. -/
def mdel {α : Type} (m : List (Nat × α)) (k : Nat) : List (Nat × α) :=
  match m with
  | [] => []
  | (k', v') :: rest => if k == k' then mdel rest k else (k', v') :: mdel rest k

/-- The map with every key in [lo, hi) removed. -/
def mclear {α : Type} (m : List (Nat × α)) (lo hi : Nat) : List (Nat × α) :=
  m.filter fun e => e.1 < lo || hi ≤ e.1

/-- Keys strictly rising, all above lo (none: no lower bound). -/
def mrising {α : Type} : Option Nat → List (Nat × α) → Bool
  | _, [] => true
  | lo, (k, _) :: rest => (match lo with | none => true | some l => l < k) && mrising (some k) rest

/-- The canonical form of a map. -/
def mwf {α : Type} (m : List (Nat × α)) : Bool := mrising none m

/-- The canonical form of memory: rising addresses and no listed 0x00. -/
def Memory.wf (m : Memory) : Bool := mwf m && m.all fun e => e.2 != 0#8

/-- The byte at address a. -/
def readByte (m : Memory) (a : Nat) : Byte := (mget m a).getD 0#8

/-- The memory with byte b at address a. -/
def writeByte (m : Memory) (a : Nat) (b : Byte) : Memory := if b == 0#8 then mdel m a else mset m a b

/-- n bytes from address a, the lowest address first. -/
def readBytes (m : Memory) (a : Nat) : Nat → List Byte
  | 0 => []
  | n + 1 => readByte m a :: readBytes m (a + 1) n

/-- The bytes bs stored from address a up. -/
def writeBytes (m : Memory) (a : Nat) : List Byte → Memory
  | [] => m
  | b :: bs => writeBytes (writeByte m a b) (a + 1) bs

/-- Little-endian value of a byte list (R5). -/
def leNat : List Byte → Nat
  | [] => 0
  | b :: bs => b.toNat + 256 * leNat bs

/-- The n low bytes of v, least significant first (R5). -/
def leBytes (v : Nat) : Nat → List Byte
  | 0 => []
  | n + 1 => BitVec.ofNat 8 v :: leBytes (v / 256) n

/-- The unsigned value of the n bytes at a. -/
def readNat (m : Memory) (a n : Nat) : Nat := leNat (readBytes m a n)

/-- The n low bytes of v stored at a. -/
def writeNat (m : Memory) (a n v : Nat) : Memory := writeBytes m a (leBytes v n)

/-- The numbers lo, lo + 1, …, lo + n − 1. -/
def upto (lo : Nat) : Nat → List Nat
  | 0 => []
  | n + 1 => lo :: upto (lo + 1) n

/-- The element of a list at i, d where there is none. -/
def nth {α : Type} (l : List α) (i : Nat) (d : α) : α := l.getD i d

/-- The list with f applied to its element i. -/
def modAt {α : Type} (l : List α) (i : Nat) (f : α → α) : List α :=
  match l, i with
  | [], _ => []
  | a :: rest, 0 => f a :: rest
  | a :: rest, i + 1 => a :: modAt rest i f

/-- The first n elements removed and returned beside the rest. -/
def cut {α : Type} (n : Nat) (l : List α) : List α × List α := (l.take n, l.drop n)

/-- A list cut into runs of n elements, at most fuel of them. -/
def chunks {α : Type} (n : Nat) : Nat → List α → List (List α)
  | 0, _ => []
  | _, [] => []
  | fuel + 1, l => l.take n :: chunks n fuel (l.drop n)

/-- n repetitions of f from a. -/
def iter {α : Type} (f : α → α) : Nat → α → α
  | 0, a => a
  | n + 1, a => iter f n (f a)

end Sys2Proof.Machine
end

