-- ==== Sys2Proof/Machine/Ops.lean ====
section
/-! DEFINITION. The shared operations: registers, results in flight, rings, counters, control registers, and
the taking of a trap with the freeze it leads to. -/

namespace Sys2Proof.Machine

/-! ### Registers (R50, R121, R122) -/

def State.mapUnit (s : State) (f : Unit → Unit) : State := { s with unit := f s.unit }

def State.mapCr (s : State) (f : Cregs → Cregs) : State := s.mapUnit fun u => { u with cr := f u.cr }

/-- G[r]; G0 reads 0 (R50). -/
def gReg (u : Unit) (r : BitVec 6) : W64 := if r == 0#6 then 0#64 else u.g[r.toNat]'r.isLt

/-- G[r], r taken modulo 64, for registers of a pair or quad. -/
def gNat (u : Unit) (r : Nat) : W64 := gReg u (BitVec.ofNat 6 r)

/-- P[r]; P0 reads 1 (R50). -/
def pReg (u : Unit) (r : BitVec 3) : Bool := r == 0#3 || u.p.getLsbD r.toNat

def vReg (u : Unit) (r : BitVec 5) : VReg := u.v[r.toNat]'r.isLt

/-- M[r]; M0 reads all ones (R122). -/
def mReg (u : Unit) (r : BitVec 3) : W64 := if r == 0#3 then BitVec.allOnes 64 else u.m[r.toNat]'r.isLt

/-- Writes of G0 are discarded (R50). -/
def setG (u : Unit) (r : BitVec 6) (v : W64) : Unit := if r == 0#6 then u else { u with g := u.g.set r.toNat v r.isLt }

/-- The byte with bit n set to b. -/
def setBit (x : Byte) (n : Nat) (b : Bool) : Byte :=
  if b then x ||| BitVec.ofNat 8 (2 ^ n) else x &&& ~~~BitVec.ofNat 8 (2 ^ n)

/-- Writes of P0 are discarded (R50). -/
def setP (u : Unit) (r : BitVec 3) (v : Bool) : Unit := if r == 0#3 then u else { u with p := setBit u.p r.toNat v }

/-- Only the bits set in bits are written: a result writes lanes (R125). -/
def setV (u : Unit) (r : BitVec 5) (bits data : VReg) : Unit :=
  { u with v := u.v.set r.toNat ((u.v[r.toNat]'r.isLt &&& ~~~bits) ||| (data &&& bits)) r.isLt }

/-- Writes of M0 are discarded. -/
def setM (u : Unit) (r : BitVec 3) (bits data : W64) : Unit :=
  if r == 0#3 then u else { u with m := u.m.set r.toNat ((u.m[r.toNat]'r.isLt &&& ~~~bits) ||| (data &&& bits)) r.isLt }

/-- Whether a slot guarded by g executes (R20). -/
def guardOn (g : BitVec 4) (u : Unit) : Bool :=
  if g.msb then !pReg u (g.setWidth 3) else pReg u (g.setWidth 3)

/-- A result in flight: it lands lat issue cycles after the bundle in issue (R32). -/
def push (u : Unit) (lat : Nat) (d : Dest) (flags : BitVec 6) : Unit :=
  { u with landing := u.landing ++ [⟨u.cyc + lat, u.nextAcc, d, flags⟩] }

/-- A result in flight to G[r], setting no flag. -/
def pushG (s : State) (lat : Nat) (r : BitVec 6) (v : W64) : State := s.mapUnit fun u => push u lat (.g r v) 0#6

/-- A result in flight to P[r]. -/
def pushP (s : State) (r : BitVec 3) (v : Bool) : State := s.mapUnit fun u => push u 1 (.p r v) 0#6

/-- A field of a 64-bit word: n bits from bit lo. -/
def fld (w : W64) (lo n : Nat) : Nat := w.toNat / 2 ^ lo % 2 ^ n

/-- Bit lo of a word. -/
def fbit (w : W64) (lo : Nat) : Bool := w.getLsbD lo

def w64 (n : Nat) : W64 := BitVec.ofNat 64 n
def w32 (n : Nat) : W32 := BitVec.ofNat 32 n
def w16 (n : Nat) : W16 := BitVec.ofNat 16 n
def bit01 (b : Bool) : Nat := if b then 1 else 0

/-- Signed value of the low n bits of x. -/
def sxInt (x n : Nat) : Int := let y := x % 2 ^ n; if y < 2 ^ (n - 1) then y else (y : Int) - 2 ^ n

/-- The low n bits of an integer, as a number. -/
def loBits (x : Int) (n : Nat) : Nat := (x % (2 ^ n : Int)).toNat

/-! ### Rings (R198 to R202) -/

/-- N of a ring: slots (R200). -/
def Ring.n (r : Ring) : Nat := fld r.w0 21 10 + 1
/-- Bytes of a slot (R198). -/
def Ring.size (r : Ring) : Nat := (fld r.w0 32 11 + 1) * 32
def Ring.reorder (r : Ring) : Bool := fbit r.w0 31
def Ring.base (r : Ring) : Nat := fld r.w0 0 21
def Ring.cons (r : Ring) : Nat := fld r.w0 56 2
def Ring.scope (r : Ring) : Nat := fld r.w0 52 3
def Ring.cls (r : Ring) : BitVec 4 := BitVec.ofNat 4 (fld r.w0 48 4)
/-- Firing threshold (R198). -/
def Ring.thr (r : Ring) : Nat := fld r.w1 32 10 + 1
def Ring.perm (r : Ring) : Nat := fld r.w1 0 24
/-- WRAP of R200. -/
def Ring.wrap (r : Ring) : Nat := r.n * (65536 / r.n)
/-- dist(x, y) of R200. -/
def Ring.dist (r : Ring) (x y : W16) : Nat := (y.toNat + r.wrap - x.toNat) % r.wrap
/-- x advanced by c (R200). -/
def Ring.adv (r : Ring) (x : W16) (c : Nat) : W16 := w16 ((x.toNat + c) % r.wrap)
/-- Local address of index x (R200). -/
def Ring.addr (r : Ring) (x : W16) : Nat := r.base + x.toNat % r.n * r.size
/-- Value returned by QRESV, QAWAIT and QTICK (R210). -/
def Ring.value (r : Ring) (x : W16) : W64 := w64 (x.toNat * 2 ^ 32 + r.addr x)
/-- Filled slots (R200). -/
def Ring.filled (r : Ring) : Nat := r.dist r.head r.tail
/-- Free slots (R200). -/
def Ring.room (r : Ring) : Nat := r.n - r.dist r.head r.rsv
/-- Whether slot x mod N carries its filled mark. -/
def Ring.marked (r : Ring) (x : W16) : Bool := r.marks.getLsbD (x.toNat % r.n)

/-- The marks with the mark of x set to b. -/
def Ring.setMark (r : Ring) (x : W16) (b : Bool) : Ring :=
  let m := BitVec.ofNat 1024 (2 ^ (x.toNat % r.n))
  { r with marks := if b then r.marks ||| m else r.marks &&& ~~~m }

/-- TAIL passes the run of filled slots (R202, R211); fuel: N. -/
def Ring.pass : Nat → Ring → Ring
  | 0, r => r
  | fuel + 1, r =>
    if r.tail != r.rsv && r.marked r.tail then
      Ring.pass fuel { r.setMark r.tail false with tail := r.adv r.tail 1 }
    else r

/-- A ticket filled (R211). -/
def Ring.fill (r : Ring) (tk : W16) : Ring := Ring.pass r.n (r.setMark tk true)

/-- Whether a ticket can be filled (R211): outstanding and not filled. -/
def Ring.canFill (r : Ring) (tk : Nat) : Bool :=
  tk < r.wrap && r.dist r.tail (w16 tk) < r.dist r.tail r.rsv && !r.marked (w16 tk)

def Ring.reserve (r : Ring) (c : Nat) : Ring := { r with rsv := r.adv r.rsv c }
def Ring.free (r : Ring) (c : Nat) : Ring := { r with head := r.adv r.head c }

/-- A slot mask with the bit of index x set. -/
def Ring.slotBit (r : Ring) (x : W16) : BitVec 1024 := BitVec.ofNat 1024 (2 ^ (x.toNat % r.n))

/-- A mask with the bits of c indices from x on. -/
def Ring.slotBits (r : Ring) (x : W16) (c : Nat) : BitVec 1024 := (List.range c).foldl (fun m k => m ||| r.slotBit (r.adv x k)) 0#1024

/-- TAIL moves over the c oldest reserved slots (R201, R210); a slot of failed work that the unit's own commit passes is held no more. -/
def Ring.commit (r : Ring) (c : Nat) : Ring := { r with tail := r.adv r.tail c, held := r.held &&& ~~~r.slotBits r.tail c }

/-- Whether a mask has the bit of index x. -/
def Ring.hasBit (r : Ring) (m : BitVec 1024) (x : W16) : Bool := m.getLsbD (x.toNat % r.n)

/-- An engine's commit (R201, R203): TAIL moves over the oldest reserved slot, unless failed work holds the ring there. -/
def Ring.commitOne (r : Ring) : Ring := if r.tail == r.rsv || r.hasBit r.held r.tail then r else r.commit 1

/-- Failed work keeps the slot that it had reserved at x (R203): the ring is held there, or, where commits out of turn have
passed x (R201), at the oldest reserved slot. -/
def Ring.hold (r : Ring) (x : W16) : W16 × Ring :=
  let y := if r.dist r.tail x < r.dist r.tail r.rsv then x else r.tail
  if r.tail == r.rsv then (y, r) else (y, { r with held := r.held ||| r.slotBit y })

/-- HEAD passes the slots that engines have freed (R206); fuel: N. -/
def Ring.passFreed : Nat → Ring → Ring
  | 0, r => r
  | fuel + 1, r =>
    if r.head != r.tail && r.hasBit r.gone r.head then
      Ring.passFreed fuel { r with gone := r.gone &&& ~~~r.slotBit r.head, head := r.adv r.head 1 }
    else r

/-- An engine frees the slot of index x (R206): HEAD moves once every earlier slot is free. -/
def Ring.freeAt (r : Ring) (x : W16) : Ring := Ring.passFreed r.n { r with gone := r.gone ||| r.slotBit x }

/-- Slots from HEAD on that engines have freed out of turn. -/
def Ring.goneCount (r : Ring) : Nat := ((List.range r.n).filter fun k => r.gone.getLsbD k).length

/-- A fresh configuration (R209). -/
def Ring.fresh (w0 w1 : W64) : Ring := ⟨w0, w1, 0#16, 0#16, 0#16, 0#1024, 0#1024, 0#1024⟩

/-- Whether a pair of configuration words is valid for a unit with these banks in a gang of these logical cores (R199). -/
def ringValid (w0 w1 : W64) (banks : BitVec 16) (gang : Nat) : Bool :=
  let r := Ring.fresh w0 w1
  fld w0 58 6 == 0 && fld w0 55 1 == 0 && fld w0 43 5 == 0 && fld w1 42 22 == 0 && fld w1 24 8 == 0
    && r.base % 32 == 0 && r.cons < 2 && r.scope < 5
    && banks.getLsbD (r.base / Config.bankBytes)
    && r.base % Config.bankBytes + r.n * r.size ≤ Config.bankBytes
    && r.perm != 0 && ((upto 0 16).all fun c => !r.perm.testBit c || gang.testBit c) && r.perm < 2 ^ 23
    && (r.reorder || popc24 r.perm == 1)
    && r.thr ≤ r.n
where
  /-- One bits of a 24-bit number. -/
  popc24 (x : Nat) : Nat := (upto 0 24).foldl (fun a i => a + x / 2 ^ i % 2) 0

def ringAt (p : Pad) (q : BitVec 6) : Option Ring := p.rings[q.toNat]'q.isLt

def setRing (p : Pad) (q : BitVec 6) (r : Option Ring) : Pad := { p with rings := p.rings.set q.toNat r q.isLt }

def modRing (p : Pad) (q : BitVec 6) (f : Ring → Ring) : Pad :=
  match ringAt p q with
  | some r => setRing p q (some (f r))
  | none => p

/-! ### Scratchpad (R151, R152) -/

/-- Whether every byte of [a, a + n) lies in an allotted bank (R83, R152). -/
def padOk (banks : BitVec 16) (a n : Nat) : Bool :=
  if n == 0 then a < Config.padBytes
  else a + n ≤ Config.padBytes
    && (upto (a / Config.bankBytes) ((a + n - 1) / Config.bankBytes - a / Config.bankBytes + 1)).all fun b => banks.getLsbD b

def padRead (p : Pad) (a n : Nat) : Nat := readNat p.bytes a n

def padWrite (p : Pad) (a n v : Nat) : Pad := { p with bytes := writeNat p.bytes a n v }

def padPut (p : Pad) (a : Nat) (bs : List Byte) : Pad := { p with bytes := writeBytes p.bytes a bs }

/-! ### Counters (R218) -/

def poolUsed (u : Unit) : Nat := u.nl + u.ns + u.nc + u.nt

/-- Whether n entries of the counter c can be drawn (R218). -/
def canDraw (u : Unit) (c n : Nat) : Bool := poolUsed u + n ≤ Config.poolSize && c + n ≤ Config.counterMax

/-! ### Accesses and releases -/

/-- The accesses of the unit that a release naming class c covers: its class and class 15 (R214, R264); far: also writes
posted and not flushed. -/
def covered (u : Unit) (all far : Bool) (c : BitVec 4) : List Nat :=
  ((u.accs.filter fun a => all || a.cls == c || a.cls == 15#4).map (·.id))
    ++ (if far then (u.posted.filter fun p => all || p.cls == c || p.cls == 15#4).map (·.id) else [])

/-- Whether a part has performed: its value is fixed or its home has ordered it, or it has been aborted (R254, R324). -/
def Part.performed (p : Part) : Bool :=
  match p.stage with
  | .done => true
  | .packet => true
  | .refused => true
  | .aborted _ => true
  | _ => false

/-- Whether an access has performed. -/
def Access.performed (a : Access) : Bool := a.parts.all Part.performed

/-- Whether a posted write still waits for a flush at a scope (R273): one to a peer at .dom and wider, one to the host at .sys. -/
def Posted.holds (p : Posted) (scope : Nat) : Bool := if p.package == 32 then 4 ≤ scope else 3 ≤ scope

/-- Whether every access of the list has performed at a scope (R264, R273). -/
def performed (u : Unit) (scope : Nat) (ids : List Nat) : Bool :=
  (u.accs.all fun a => !ids.contains a.id || a.performed) && !(u.posted.any fun p => p.holds scope && ids.contains p.id)

def Release.performed (u : Unit) (l : Release) : Bool := Machine.performed u l.scope l.accs

/-- The index a ring shows to other agents: as it stood before the earliest release that has not performed (R214). -/
def shownTail (u : Unit) (q : BitVec 6) (r : Ring) : W16 :=
  u.rels.foldl (fun t l =>
    if l.q == q && !l.head && !l.performed u && r.dist r.head l.index < r.dist r.head t then l.index else t) r.tail

/-- HEAD as other agents see it (R214). -/
def shownHead (u : Unit) (q : BitVec 6) (r : Ring) : W16 :=
  match u.rels.find? fun l => l.q == q && l.head && !l.performed u with
  | some l => l.index
  | none => r.head

/-- The ring as other agents than the unit see it (R214). -/
def shownRing (u : Unit) (q : BitVec 6) (r : Ring) : Ring :=
  { r with tail := shownTail u q r, head := shownHead u q r }

/-- A release recorded, and the performed ones dropped. -/
def addRelease (u : Unit) (r : Release) : Unit :=
  { u with rels := (u.rels.filter fun l => !l.performed u) ++ (if r.performed u then [] else [r]) }

/-- A release by the unit on one of its rings, which stands at r and becomes r' (R214): it covers the accesses of the ring's
class and of class 15. head: it moves HEAD; index: the index before the move, or the ticket filled. -/
def unitRelease (u : Unit) (q : BitVec 6) (r r' : Ring) (head : Bool) (index : W16) : Unit :=
  let u := { u with pad := setRing u.pad q (some r') }
  addRelease u ⟨q, head, index, covered u false (3 ≤ r.scope) r.cls, r.scope⟩

/-- A configuration or raw-index write discards what the descriptor held: releases not yet performed, and the slots
held by failed copies (R205). -/
def discardHolds (u : Unit) (q : BitVec 6) : Unit :=
  { u with
    rels := u.rels.filter (·.q != q)
    deferred := u.deferred.map fun d =>
      match d.ring with
      | some (q', _) => if q' == q then { d with ring := none } else d
      | none => d }

/-- An event of the unit's signature: an address word and a data word (R355). -/
def sigEvent (u : Unit) (addr data : W64) : Unit :=
  if u.launch.paired then { u with sig := u.sig ++ [⟨addr, data, none⟩] } else u

/-! ### Control registers (R52, R53) -/

def jobKey (part : BitVec 4) (job : W32) : Nat := part.toNat * 2 ^ 32 + job.toNat

/-- The job of the unit on the core. -/
def unitJob (s : State) : Option Job := mget s.jobs (jobKey s.unit.cr.part s.unit.cr.job)

/-- The image of CR.LDEPTH (R78). -/
def ldepth (l : LoopState) : W64 :=
  w64 (l.depth % 8 + l.sel[0].toNat * 2 ^ 8 + l.sel[1].toNat * 2 ^ 10 + l.sel[2].toNat * 2 ^ 12 + l.sel[3].toNat * 2 ^ 14)

/-- The register of a mortar table (R432). -/
def rastat (m : Mortar) : W64 :=
  w64 (m.late.toNat * 2 ^ 48 + m.round.toNat * 2 ^ 32
    + (match m.conf with | some (a, _) => bit01 (fbit a 48) * 4 + 1 | none => 0)
    + bit01 m.open_.isSome * 2)

/-- Numbers that R53 and the other chapters assign (R54). -/
def crAssigned (n : Nat) : Bool :=
  n ≤ 0x009 || (0x010 ≤ n && n ≤ 0x01C) || (0x040 ≤ n && n ≤ 0x047) || (0x050 ≤ n && n ≤ 0x061) || n == 0x070
    || (0x080 ≤ n && n ≤ 0x085) || (0x090 ≤ n && n ≤ 0x092) || (0x094 ≤ n && n ≤ 0x097) || (0x0A0 ≤ n && n ≤ 0x0A2)
    || (0x0B0 ≤ n && n ≤ 0x0B2) || (0x0C0 ≤ n && n ≤ 0x0C2) || (0x0D0 ≤ n && n ≤ 0x0D3) || (0x0E0 ≤ n && n ≤ 0x0E4)

/-- The selected descriptor (R216). -/
def selRing (u : Unit) : Option Ring := ringAt u.pad u.cr.qsel

/-- The value MFCR returns (R53 and the chapters that add registers); unassigned numbers give 0. -/
def crRead (s : State) (n : Nat) : W64 :=
  let u := s.unit
  let c := u.cr
  if n == 0x000 then w64 s.time
  else if n == 0x001 then c.issued
  else if n == 0x002 then c.fflags.setWidth 64
  else if n == 0x003 then
    w64 (c.stepping.toNat * 2 ^ 56 + c.cluster.toNat * 2 ^ 40 + c.pcore.toNat * 2 ^ 36 + c.lcore.toNat * 2 ^ 32 + c.unit.toNat)
  else if n == 0x004 then w64 (c.part.toNat * 2 ^ 60 + c.job.toNat)
  else if n == 0x005 then (match unitJob s with | some j => j.phase.setWidth 64 | none => 0#64)
  else if n == 0x006 then c.rung.setWidth 64
  else if n == 0x007 then c.blocklim.setWidth 64
  else if n == 0x008 then c.faultinfo
  else if n == 0x009 then (u.p ||| 1#8).setWidth 64
  else if n < 0x010 then 0#64
  else if n < 0x014 then (nth u.loops.lc.toList (n - 0x010) 0#32).setWidth 64
  else if n < 0x018 then (nth u.loops.start.toList (n - 0x014) 0#19).setWidth 64
  else if n < 0x01C then (nth u.loops.last.toList (n - 0x018) 0#19).setWidth 64
  else if n == 0x01C then ldepth u.loops
  else if n < 0x040 then 0#64
  else if n < 0x048 then mReg u (BitVec.ofNat 3 (n - 0x040))
  else if n < 0x050 then 0#64
  else if n < 0x060 then nth u.pad.fmt.toList (n - 0x050) 0#64
  else if n == 0x060 then u.pad.banks.setWidth 64
  else if n == 0x061 then c.livebanks.setWidth 64
  else if n == 0x070 then w64 (u.mx.rp[0].toNat + u.mx.rp[1].toNat * 256)
  else if n == 0x080 then c.qsel.setWidth 64
  else if n == 0x081 then (match selRing u with | some r => r.w0 | none => 0#64)
  else if n == 0x082 then (match selRing u with | some r => r.w1 | none => 0#64)
  else if n == 0x083 then
    (match selRing u with
    | some r => w64 (r.rsv.toNat * 2 ^ 32 + r.tail.toNat * 2 ^ 16 + r.head.toNat)
    | none => 0#64)
  else if n == 0x084 then c.qerr.setWidth 64
  else if n == 0x085 then
    w64 ((Config.poolSize - poolUsed u) * 2 ^ 48 + u.nt * 2 ^ 36 + u.nc * 2 ^ 24 + u.ns * 2 ^ 12 + u.nl)
  else if n == 0x090 then c.cpystat
  else if n == 0x091 then c.otbase
  else if n == 0x092 then c.otlen.setWidth 64
  else if n < 0x094 then 0#64
  else if n < 0x098 then nth c.cpyerr.toList (n - 0x094) 0#64
  else if n == 0x0A0 then c.gxmode
  else if n == 0x0A1 then w64 (bit01 c.redref)
  else if n == 0x0A2 then w64 (c.cbarGen.toNat * 256 + bit01 c.cbarPend * 64)
  else if n == 0x0B0 then w64 (c.asidGen.toNat * 2 ^ 12 + c.asidSlot.toNat)
  else if n == 0x0B1 then c.memfault
  else if n == 0x0B2 then c.kverr
  else if n == 0x0C0 then w64 (bit01 c.restore * 2 + bit01 c.pending)
  else if n == 0x0C1 then c.savepc.setWidth 64
  else if n == 0x0C2 then c.ctxbase
  else if n == 0x0D0 then c.drawlo
  else if n == 0x0D1 then c.drawhi
  else if n == 0x0D2 then c.drawkey
  else if n < 0x0E0 then 0#64
  else if n < 0x0E4 then nth (u.rt.ra.toList.map rastat) (n - 0x0E0) 0#64
  else if n == 0x0E4 then c.rterr
  else 0#64

/-- The loop state with the fields of CR.LDEPTH set (R78). -/
def setLdepth (l : LoopState) (v : W64) : LoopState :=
  { l with depth := fld v 0 3, sel := #v[BitVec.ofNat 2 (fld v 8 2), BitVec.ofNat 2 (fld v 10 2), BitVec.ofNat 2 (fld v 12 2), BitVec.ofNat 2 (fld v 14 2)] }

/-- The indices of CR.QIDX set, every mark cleared (R217). -/
def setQidx (r : Ring) (v : W64) : Ring :=
  { r with
    head := w16 (fld v 0 16), tail := w16 (fld v 16 16), rsv := w16 (fld v 32 16), marks := 0#1024
    held := 0#1024, gone := 0#1024 }

/-- Whether raw indices keep the invariant of R200 (R217). -/
def qidxOk (r : Ring) (v : W64) : Bool :=
  let r' := setQidx r v
  r'.head.toNat < r.wrap && r'.tail.toNat < r.wrap && r'.rsv.toNat < r.wrap
    && r.dist r'.head r'.tail ≤ r.dist r'.head r'.rsv && r.dist r'.head r'.rsv ≤ r.n

/-- The bits of CR.QERR that v clears are cleared, and with each the record that it governs (R216, R250, R331, R432). -/
def clearQerr (c : Cregs) (v : W64) : Cregs :=
  { c with
    qerr := c.qerr &&& ~~~v.setWidth 6
    cpyerr := Vector.ofFn fun i => if v.getLsbD i.val then 0#64 else c.cpyerr[i]
    rterr := if v.getLsbD 4 then 0#64 else c.rterr
    kverr := if v.getLsbD 5 then 0#64 else c.kverr }

/-- A control register holding v from now on: the register alone, with reserved and RO bits kept (R8, R52). W1C, WO and
acting registers are not written here. -/
def crPoke (u : Unit) (n : Nat) (v : W64) : Unit :=
  if n == 0x007 then { u with cr.blocklim := v.setWidth 32 }
  else if n == 0x009 then { u with p := v.setWidth 8 ||| 1#8 }
  else if 0x010 ≤ n && n < 0x014 then { u with loops.lc := u.loops.lc.setIfInBounds (n - 0x010) (v.setWidth 32) }
  else if 0x014 ≤ n && n < 0x018 then { u with loops.start := u.loops.start.setIfInBounds (n - 0x014) (v.setWidth 19 &&& 0x7FFFC#19) }
  else if 0x018 ≤ n && n < 0x01C then { u with loops.last := u.loops.last.setIfInBounds (n - 0x018) (v.setWidth 19 &&& 0x7FFFC#19) }
  else if n == 0x01C then { u with loops := setLdepth u.loops v }
  else if 0x041 ≤ n && n < 0x048 then setM u (BitVec.ofNat 3 (n - 0x040)) (BitVec.allOnes 64) v
  else if 0x050 ≤ n && n < 0x060 then { u with pad.fmt := u.pad.fmt.setIfInBounds (n - 0x050) v }
  else if n == 0x061 then { u with cr.livebanks := v.setWidth 16 &&& u.pad.banks }
  else if n == 0x070 then { u with mx.rp := #v[v.setWidth 6, (v >>> 8).setWidth 6] }
  else if n == 0x080 then { u with cr.qsel := v.setWidth 6 }
  else if n == 0x083 then
    let u := discardHolds u u.cr.qsel
    { u with pad := modRing u.pad u.cr.qsel fun r => if qidxOk r v then setQidx r v else r }
  else if n == 0x0A0 then { u with cr.gxmode := v }
  else if n == 0x0D0 then { u with cr.drawlo := v }
  else if n == 0x0D1 then { u with cr.drawhi := v }
  else u

/-- The write of DRAWBASE that CR.DRAWHI makes: one 16-byte write of class 15 (R404). Its NS entry is drawn. -/
def drawbaseWrite (u : Unit) : Unit :=
  let lo := leBytes u.cr.drawlo.toNat 8
  let hi := leBytes u.cr.drawhi.toNat 8
  { u with
    nextAcc := u.nextAcc + 1
    accs := u.accs ++ [⟨u.nextAcc, 15#4, .drawbase, 0#64, [⟨0#64, (upto 0 16).zip (lo ++ hi), .waiting⟩], u.pc⟩] }

/-- An arrival of this unit at the cluster barrier (R299): a release at .clu covering every access. -/
def barrierArrive (u : Unit) (q : BitVec 6) : Unit :=
  { u with cr.cbarPend := true, cr.cbarRing := q, cr.cbarCov := u.accs.map (·.id) }

/-- Whether logical core c belongs to the gang (R337). -/
def inGang (u : Unit) (c : Nat) : Bool := c / 4 < u.launch.nr && c % 4 < u.launch.nc

/-- The logical cores of the gang, ascending (R337). -/
def gangCores (u : Unit) : List Nat := (upto 0 16).filter (inGang u)

/-- The gang as a mask of logical cores. -/
def gangMask (u : Unit) : Nat := (gangCores u).foldl (fun m c => m + 2 ^ c) 0

/-- The place of a logical core among the cores of a gang with nc columns, ascending (R337). -/
def coreRank (nc c : Nat) : Nat := c / 4 * nc + c % 4

/-- The index of the unit on logical core c of the gang (R337). -/
def coreUnit (u : Unit) (c : Nat) : Nat := u.cr.unit.toNat - coreRank u.launch.nc u.cr.lcore.toNat + coreRank u.launch.nc c

/-- Whether the unit on logical core c of this unit's gang counts as exited: the dispatcher knows it as done (R299). -/
def peerDone (s : State) (c : Nat) : Bool :=
  let u := s.unit
  match unitJob s with
  | none => false
  | some j =>
    match j.graphs.find? (·.seq == u.launch.graph) with
    | none => false
    | some g =>
      match g.launches[u.launch.launch]? with
      | none => false
      | some l =>
        match mget l.units (2 ^ 32 * (u.launch.copy - 1) + coreUnit u c) with
        | some i => i.done
        | none => false

/-- The open generation completes once every unit of the gang has arrived or exited (R299). -/
def barrierAdvance (s : State) : State :=
  let u := s.unit
  let others := (gangCores u).all fun c => c == u.cr.lcore.toNat || u.cr.cbarPeers.getLsbD c || peerDone s c
  let gone := u.run == .exited || u.run == .completed || u.run == .stopped
  if others && ((u.cr.cbarPend && performed u 1 u.cr.cbarCov) || (gone && u.cr.cbarPeers != 0#16)) then
    s.mapCr fun c =>
      { c with
        cbarGen := c.cbarGen + 1
        cbarRecs := if c.cbarPend then c.cbarRecs ++ [(c.cbarRing, c.cbarGen + 1)] else c.cbarRecs
        cbarOut := c.cbarOut ++ c.cbarRings.map fun r => (r.1, r.2, c.cbarGen + 1)
        cbarRings := []
        cbarPend := false
        cbarPeers := 0#16
        cbarCov := [] }
  else s

/-- What comes about when a write of control register n lands: W1C bits clear, and the acting registers act (R52, R299, R404). -/
def crLand (s : State) (n : Nat) (v : W64) : State :=
  if n == 0x002 then s.mapCr fun c => { c with fflags := c.fflags &&& ~~~v.setWidth 6 }
  else if n == 0x084 then s.mapCr fun c => clearQerr c v
  else if n == 0x090 then s.mapCr fun c => { c with cpystat := c.cpystat &&& ~~~v }
  else if n == 0x0A1 then s.mapCr fun c => { c with redref := c.redref && !fbit v 0 }
  else if n == 0x0A2 then barrierAdvance (s.mapUnit fun u => barrierArrive u (v.setWidth 6))
  else if n == 0x0D1 then s.mapUnit fun u => drawbaseWrite (crPoke u n v)
  else if n == 0x0D3 then (if fbit v 5 then s.mapCr fun c => { c with fflags := c.fflags ||| 32#6 } else s)
  else s.mapUnit fun u => crPoke u n v

/-! ### Landing (R32, R34, R57) -/

/-- Latch values with the selected entries replaced (R188, R192). -/
def mergeLatches (old : Latches) (scaleBits : BitVec 1024) (zpBits : BitVec 512) (d : Latches) : Latches :=
  ⟨(old.scale &&& ~~~scaleBits) ||| (d.scale &&& scaleBits), (old.zp &&& ~~~zpBits) ||| (d.zp &&& zpBits)⟩

/-- FMT of a format register value (R156). -/
def fmtOf (w : W64) : Nat := fld w 0 4

/-- Beat depth of a matrix format (R85). -/
def beatDepth (f : Nat) : Nat := if f == 1 || f == 2 then 1 else if f == 7 || f == 8 || f == 11 then 4 else 2

/-- Whether two feeders belong to one multicast group (R176). -/
def sameGroup (f g : Feeder) : Bool :=
  match f.src, g.src with
  | some (.mesh w), some (.mesh v) => fld w 12 4 != 0 && w.setWidth 16 == v.setWidth 16
  | _, _ => false

/-- Whether a feeder that is bound again leaves a slot partly sent that no other feeder still receives: for it the feeder counts as
having received the slot (R176, R179). -/
def leavesSlot (old other : Feeder) (w : W64) : Bool :=
  old.fetched % (32 / beatDepth (fmtOf old.fmt)) != 0 && !sameGroup old other && (fld w 12 4 == 0 || fld w 16 4 == 0)

/-- A feeder's old position is discarded as a new binding takes effect (R179): its partly pushed slot is freed, through the mesh the
partly sent slot, for the feeder counts as having received it, unless other feeders still receive the group's slices: of a ring of this
core at once, of another core's as landBinds says; and a hidden ring starts empty. A feeder that joins the group of the other one goes on
where that one stands. -/
def bindFeeder (u : Unit) (north : Bool) (f : Feeder) : Unit :=
  let old := if north then u.mx.north else u.mx.west
  let other := if north then u.mx.west else u.mx.north
  let f := if sameGroup f other then { f with fetched := other.fetched } else f
  let pad := match old.src with
    | some (.ring q) => if old.open_ then modRing u.pad q fun r => r.free 1 else u.pad
    | some (.mesh w) =>
      if fld w 0 4 == u.cr.lcore.toNat && leavesSlot old other w then
        modRing u.pad (BitVec.ofNat 6 (fld w 4 6)) fun r => r.free 1
      else u.pad
    | some (.handle d0 _) => modRing u.pad (BitVec.ofNat 6 (fld d0 16 6)) fun r => Ring.fresh r.w0 r.w1
    | _ => u.pad
  let pad := match f.src with
    | some (.handle d0 _) => modRing pad (BitVec.ofNat 6 (fld d0 16 6)) fun r => Ring.fresh r.w0 r.w1
    | _ => pad
  let f := { f with bind := old.bind + 1 }
  let left := match old.src with
    | some (.mesh w) => if fld w 0 4 != u.cr.lcore.toNat && leavesSlot old other w then [w] else []
    | _ => []
  let mx := { u.mx with left := u.mx.left ++ left }
  if north then { u with pad := pad, mx := { mx with north := f } } else { u with pad := pad, mx := { mx with west := f } }

/-- A result lands. -/
def landDest (s : State) (d : Dest) : State :=
  match d with
  | .g r v => s.mapUnit fun u => setG u r v
  | .p r v => s.mapUnit fun u => setP u r v
  | .v r bits data => s.mapUnit fun u => setV u r bits data
  | .m r bits data => s.mapUnit fun u => setM u r bits data
  | .cr n v => crLand s n.toNat v
  | .latch north sb zb d =>
    s.mapUnit fun u =>
      if north then { u with mx.sn := mergeLatches u.mx.sn sb zb d } else { u with mx.sw := mergeLatches u.mx.sw sb zb d }
  | .mcfg c => s.mapUnit fun u => { u with mx.cfg := c, mx.gpos := Vector.replicate 2 0 }
  | .feeder north f => s.mapUnit fun u => bindFeeder u north f

def setFlags (s : State) (f : BitVec 6) : State := s.mapCr fun c => { c with fflags := c.fflags ||| f }

/-- Results land in order; then the flags they set, so that a flag set in the cycle of its clearing ends set (R34, R57). -/
def landAll (s : State) (ls : List Landing) : State :=
  setFlags (ls.foldl (fun s l => landDest s l.dest) s) (ls.foldl (fun f l => f ||| l.flags) 0#6)

/-- Every result due by now lands, in the order of R34. -/
def landDue (s : State) : State :=
  let (now, later) := s.unit.landing.partition fun l => l.due ≤ s.unit.cyc
  (landAll (s.mapUnit fun u => { u with landing := later }) now).mapUnit fun u => { u with ctx.landed := u.ctx.landed ++ now }

/-- Whether the units of the gang are resident (R204). -/
def coreResident (s : State) : Bool := !(s.unit.run == .saved || s.unit.run == .none)

/-! ### Traps, freeze and return (R58, R59, R379 to R385) -/

/-- CR.FAULTINFO (R58). -/
def faultInfo (pc : BitVec 19) (code : BitVec 12) (slot cause : Nat) : W64 :=
  w64 (pc.toNat * 2 ^ 32 + code.toNat * 2 ^ 12 + slot % 8 * 2 ^ 8 + cause % 256)

/-- The registers of the scalar copy (R375); the indices that CR.QIDX shows stay with the rings (log 94). -/
def scalarOf (u : Unit) : ScalarCopy :=
  { g := u.g, p := u.p, m := u.m, loops := u.loops, cr := u.cr, rp := u.mx.rp, fmt := u.pad.fmt }

/-- The control registers restored from a copy: RW, W1C and RS ones; RO ones keep their live values (R384). -/
def restoreCr (live saved : Cregs) : Cregs :=
  { live with
    fflags := saved.fflags, blocklim := saved.blocklim, livebanks := saved.livebanks, qsel := saved.qsel
    qerr := saved.qerr, cpystat := saved.cpystat, cpyerr := saved.cpyerr, gxmode := saved.gxmode
    redref := saved.redref, kverr := saved.kverr, drawlo := saved.drawlo, drawhi := saved.drawhi, rterr := saved.rterr }

/-- The control registers after a stub: the copy's, with the status that the hardware has set since the divert kept, so that no
later read shows an earlier state (R49, R386). -/
def mergeStatus (live saved : Cregs) : Cregs :=
  { saved with
    qerr := saved.qerr ||| live.qerr, cpystat := saved.cpystat ||| live.cpystat, redref := saved.redref || live.redref
    cpyerr := Vector.ofFn fun i => if saved.cpyerr[i] == 0#64 then live.cpyerr[i] else saved.cpyerr[i]
    kverr := if saved.kverr == 0#64 then live.kverr else saved.kverr
    rterr := if saved.rterr == 0#64 then live.rterr else saved.rterr }

/-- The unit with its scalar copy restored, but for CR.QIDX (R376, R382, log 94). -/
def restoreScalar (u : Unit) (c : ScalarCopy) : Unit :=
  { u with g := c.g, p := c.p, m := c.m, loops := c.loops, cr := restoreCr u.cr c.cr, mx.rp := c.rp, pad.fmt := c.fmt }

/-- Results in flight as snapshot entries: due counts the bundles still to issue (REM of R380). -/
def snapshotOf (u : Unit) : List Landing := u.landing.map fun l => { l with due := l.due - u.cyc }

/-- Snapshot entries re-landing from the next bundle on (R381). -/
def relandFrom (u : Unit) (ls : List Landing) : List Landing := ls.map fun l => { l with due := l.due + u.cyc }

/-- The context area of a unit that has none yet. -/
def CtxArea.start (u : Unit) : CtxArea :=
  { savepc := 0#19, kind := 0, reason := 0, banks := 0#16, time := 0, issued := 0#64, stubpc := none
    scalar := scalarOf u, qidx := none, snapshot := [], rings := Vector.replicate 64 none, v := Vector.replicate 32 0#2048
    mx := .start, pad := [], before := 0, landed := u.ctx.landed, resumed := none }

/-- A unit-event record (R383). -/
def unitEvent (s : State) (reason : Nat) (info : W64) : State :=
  let c := s.unit.cr
  { s with events := s.events ++ [⟨c.part, c.job, c.unit, c.lcore, reason, info, c.ctxbase⟩] }

/-- REASON of R383. -/
def FreezeReason.code : FreezeReason → Nat
  | .trap => 1
  | .brk => 2
  | .halt => 2
  | .preempt => 3

/-- The freeze before the bundle at pc (R379): results in flight become snapshot entries, the context is written to the
area, and a unit-event record is written (R383). Inside a stub the area keeps the diverted program's scalar copy and snapshot (R378). -/
def freeze (s : State) (why : FreezeReason) (pc : BitVec 19) : State :=
  let u := s.unit
  let old := s.area.getD (CtxArea.start u)
  let head := { old with
    resumed := none, rings := u.pad.rings, v := u.v, mx := u.mx, pad := u.pad.bytes, kind := 2, reason := why.code, banks := u.pad.banks, time := s.time, issued := u.cr.issued }
  let ctx := { u.ctx with tried := false, since := none }
  if u.cr.pending then
    unitEvent
      { s with
        area := some { head with stubpc := some pc }
        unit := { u with run := .frozen why, pc := pc, stubpc := some pc, ctx := ctx } } why.code u.cr.faultinfo
  else
    unitEvent
      { s with
        area := some { head with
          savepc := pc, stubpc := none, scalar := scalarOf u, snapshot := snapshotOf u, landed := u.ctx.landed }
        unit := { u with run := .frozen why, pc := pc, landing := [], cr.savepc := pc, ctx := ctx } } why.code u.cr.faultinfo

/-- Taking a trap: CR.FAULTINFO is written and the unit frozen before the bundle at pc, or after it where the bundle has
issued (R58, R59, R379). -/
def takeTrap (s : State) (why : FreezeReason) (at_ next : BitVec 19) (code : BitVec 12) (slot cause : Nat) : State :=
  freeze (s.mapCr fun c => { c with faultinfo := faultInfo at_ code slot cause }) why next

/-- A non-issuing trap of the bundle at the program counter (R58). -/
def trapHere (s : State) (slot cause : Nat) (code : BitVec 12) : State :=
  takeTrap s .trap s.unit.pc s.unit.pc code slot cause

/-! ### Slots and their issue (R30, R35, R59, R69) -/

/-- What a slot does when its bundle reaches issue: its whole effect, a stall, or a trap under which the bundle does
not issue; a deferred trap consumes its error in the state given with it (R220); hold: the slot stalls after an arrival that is made
whether or not the bundle issues (R350). -/
inductive SlotAnswer where
  | go (s : State)
  | block
  | hold (arrive : State → State)
  | trap (cause : Nat) (code : BitVec 12)
  | deferred (s : State) (cause : Nat)

/-- A slot under its guard (R20). -/
def guarded (g : BitVec 4) (s : State) (f : State → SlotAnswer) : SlotAnswer := if guardOn g s.unit then f s else .go s

/-- A slot of a bundle: its index in memory order, whether it is an engine slot, whether it writes local memory (R84),
whether R213 times its stalls, and what it does. -/
structure BundleOp where
  idx    : Nat
  engine : Bool
  store  : Bool
  counts : Bool
  run    : State → SlotAnswer

/-- The state after the answer, where the slot proceeds. -/
def SlotAnswer.after (a : SlotAnswer) (s : State) : State :=
  match a with
  | .go s' => s'
  | _ => s

/-- The first trap of the bundle in memory order, each slot seen against the state at issue; a later engine slot sees the
engine slot before it applied (R30, R35, R212). A deferred trap takes its place by its slot like any other (log 70). Answers the
slot and the state, cause and code. -/
def firstTrap (s sE : State) : List BundleOp → Option (Nat × Bool × State × Nat × BitVec 12)
  | [] => none
  | op :: rest =>
    let here := (if op.engine then sE else s).mapUnit fun u => { u with ctx.slot := op.idx }
    let eb := fun (t : State) => if op.engine then t.mapUnit fun u => { u with ctx.ea := false } else sE
    match op.run here with
    | .trap cause code => some (op.idx, false, here, cause, code)
    | .deferred s' cause => some (op.idx, true, s', cause, 0#12)
    | .go s' => firstTrap s (eb s') rest
    | _ => firstTrap s (eb sE) rest

/-- The slots that cannot proceed, each seen as in firstTrap (R30, R213). -/
def blockers (s sE : State) : List BundleOp → List BundleOp
  | [] => []
  | op :: rest =>
    let here := (if op.engine then sE else s).mapUnit fun u => { u with ctx.slot := op.idx }
    let eb := fun (t : State) => if op.engine then t.mapUnit fun u => { u with ctx.ea := false } else sE
    match op.run here with
    | .block => op :: blockers s (eb sE) rest
    | .hold _ => op :: blockers s (eb sE) rest
    | .go s' => blockers s (eb s') rest
    | _ => blockers s (eb sE) rest

/-- The slots whose stalls R213 times, among those that hold the bundle. -/
def countedBlockers (s : State) (ops : List BundleOp) : List BundleOp := (blockers s s ops).filter (·.counts)

/-- How far the slots of a bundle come: all proceed, one is held back, or one arrives and is held back. -/
inductive RunResult where
  | done (s : State)
  | blocked
  | held (arrive : State → State)

/-- The slots of one kind of write run in order. -/
def runOps (stores : Bool) (s : State) : List BundleOp → RunResult
  | [] => .done s
  | op :: rest =>
    if op.store != stores then runOps stores s rest
    else
      match op.run (s.mapUnit fun u => { u with ctx.slot := op.idx }) with
      | .go s' => runOps stores (if op.engine then s'.mapUnit fun u => { u with ctx.ea := false } else s') rest
      | .hold f => .held f
      | _ => .blocked

/-- All slots of a bundle: local writes last (R84). -/
def runBundle (s : State) (ops : List BundleOp) : RunResult :=
  match runOps false s ops with
  | .done s' => runOps true s' ops
  | r => r

/-- Levels from d up pop; the counter select of a popped level reads 0, as in the printed run of R78 (log 54). -/
def popTo (l : LoopState) (d : Nat) : LoopState :=
  { l with depth := d, sel := Vector.ofFn fun i => if d ≤ i.val && i.val < l.depth then 0#2 else l.sel[i] }

/-- Pops loop levels and branches back: the end test of R75. fuel: the levels. -/
def endTest (pc : Nat) : Nat → LoopState → LoopState × Option Nat
  | 0, l => (l, none)
  | fuel + 1, l =>
    if h : 0 < l.depth ∧ l.depth ≤ 4 then
      let lv := l.depth - 1
      if (l.last[lv]'(by omega)).toNat == pc then
        let c := (l.sel[lv]'(by omega)).toNat
        let n := nth l.lc.toList c 0#32
        if n.toNat ≤ 1 then endTest pc fuel (popTo { l with lc := l.lc.setIfInBounds c 0#32 } lv)
        else ({ l with lc := l.lc.setIfInBounds c (n - 1) }, some (l.start[lv]'(by omega)).toNat)
      else (l, none)
    else (l, none)

/-- The bundle has issued: end test, program counter, issue cycle (R6, R69, R75); CR.ISSUED stands still in a stub (R375). The
program counter holds the low 19 bits of the next address, also past the last word of the store (log 69). -/
def retire (s : State) : State :=
  let u := s.unit
  let (loops, back) := if u.ctx.jump then (u.loops, none) else endTest u.pc.toNat 4 u.loops
  let npc := match u.ctx.target with
    | some t => t
    | none => match back with
      | some t => t
      | none => u.ctx.npc
  { s with
    unit := { u with
      loops := loops
      pc := BitVec.ofNat 19 npc
      cyc := u.cyc + 1
      cr.issued := if u.cr.pending then u.cr.issued else u.cr.issued + 1
      ctx := { u.ctx with tried := true, since := none, landed := [] } } }

/-- CR.QIDX written through an image: the indices of the selected ring, where they are legal (R203, R382). -/
def pokeQidx (u : Unit) (v : W64) : Unit :=
  { u with pad := modRing u.pad u.cr.qsel fun r =>
      if qidxOk r v then { r with head := w16 (fld v 0 16), tail := w16 (fld v 16 16), rsv := w16 (fld v 32 16) } else r }

/-- The restore half's YIELD: every result in flight lands, the scalar copy and the matrix state come back, and the unit
goes on at CR.SAVEPC with its snapshot re-landing (R195, R376). The stub has ended: SV is clear (R378). -/
def endRestore (s : State) : State :=
  let s := landAll (s.mapUnit fun u => { u with landing := [] }) s.unit.landing
  match s.area with
  | none => s
  | some a =>
    { s with area := some { a with stubpc := none, qidx := none } }.mapUnit fun u =>
      let u := restoreScalar u { a.scalar with cr := mergeStatus u.cr a.scalar.cr }
      let u := a.qidx.elim u (pokeQidx u)
      { u with
        mx := { u.mx with
          cfg := a.mx.cfg, gpos := a.mx.gpos, sw := a.mx.sw, sn := a.mx.sn, west := a.mx.west, north := a.mx.north
          left := u.mx.left ++ a.mx.left }
        cr := { u.cr with pending := false, restore := false }
        pc := u.cr.savepc, stub := none, stubpc := none
        landing := relandFrom u a.snapshot, ctx.landed := a.landed }

/-- What remains after the bundle has issued: TRAP, BREAK, EXIT, and the two ends of YIELD. at_ is the bundle's address;
slot is 0, for a scalar slot stands first (R16). -/
def afterIssue (at_ : BitVec 19) (slot : Nat) (s : State) : State :=
  match s.unit.ctx.after with
  | .none => s
  | .trap code => takeTrap s .trap at_ s.unit.pc code slot 0x10
  | .brk code => takeTrap s .brk at_ s.unit.pc code slot 0x11
  | .exit => barrierAdvance (s.mapUnit fun u => { u with run := .exited, landing := [], pc := at_, loops := popTo u.loops 0 })
  | .save => s.mapUnit fun u => { u with run := .yielded, landing := [] }
  | .restore => endRestore s

/-- The bundle at the program counter could not issue: it stalls there, timed from now where the stall counts (R30, R213). -/
def stall (s : State) (counts : Bool) : State :=
  s.mapUnit fun u => { u with ctx.tried := true, ctx.since := if counts then some (u.ctx.since.getD s.time) else none }

/-- The state in which a bundle of nwords words at the program counter reaches issue: due results have landed. -/
def atIssue (nwords : Nat) (s : State) : State :=
  (landDue s).mapUnit fun u => { u with ctx := { IssueCtx.start with npc := u.pc.toNat + 4 * nwords, since := u.ctx.since } }

/-- A bundle of nwords words at the program counter reaches issue: due results land, traps are taken in the order of R30,
a slot that cannot proceed holds it, and otherwise its slots take effect, local writes last (R84). -/
def issueOps (ops : List BundleOp) (nwords : Nat) (s : State) : State :=
  let s1 := atIssue nwords s
  match firstTrap s1 s1 ops with
  | some (slot, false, _, cause, code) => trapHere s slot cause code
  | some (slot, true, s', cause, code) =>
    trapHere (s.mapUnit fun u =>
      { u with deferred := s'.unit.deferred, cr := { u.cr with memfault := s'.unit.cr.memfault } }) slot cause code
  | none =>
    match runBundle s1 ops with
    | .done s2 => afterIssue s.unit.pc 0 (retire s2)
    | .blocked => stall s !(countedBlockers s1 ops).isEmpty
    | .held f =>
      match runBundle (atIssue nwords (f s)) ops with
      | .done s2 => afterIssue s.unit.pc 0 (retire s2)
      | _ => stall (f s) !(countedBlockers s1 ops).isEmpty

/-- A slot that issues alone, as a bundle of its own. -/
def issueOne (engine store : Bool) (nwords : Nat) (counts : Bool) (f : State → SlotAnswer) (s : State) :
    Host.Outcome State Fault Refusal :=
  .next (issueOps [⟨0, engine, store, counts, f⟩] nwords s)

/-- Words of a slot with its extension. -/
def wordsOf (x : Option Limm) : Nat := if x.isSome then 2 else 1

end Sys2Proof.Machine
end

