-- ==== Sys2Proof/Machine/Operands.lean ====
section
/-! DEFINITION. Operand forms: immediates and their extension (R22, R28, R29), guarded scalar operations, and the
integer functions they apply. -/

namespace Sys2Proof.Machine

/-- The value of an imm-type slot: imm6 sign-extended, or the LIMM value of R28. -/
def immValue (i : BitVec 6) (x : Option Limm) : W64 :=
  match x with
  | none => i.signExtend 64
  | some l =>
    let v32 : BitVec 32 := BitVec.ofNat 32 (l.toNat % 2 ^ 26 * 64 + i.toNat)
    match l.toNat / 2 ^ 26 with
    | 0 => v32.signExtend 64
    | 1 => v32.setWidth 64
    | _ => v32.setWidth 64 <<< (32 : Nat)

/-- The trip count of LOOPI: imm6, or value[31:0] of its LIMM (R74). -/
def tripCount (i : BitVec 6) (x : Option Limm) : W32 :=
  match x with
  | none => i.setWidth 32
  | some _ => (immValue i x).setWidth 32

/-- The byte offset of an offset-type slot (R28, R29). -/
def offsetOf (x : Option Limm) : W64 :=
  match x with
  | none => 0#64
  | some l => (l.setWidth 26).signExtend 64

/-- The address of a memory operand: G[A] + offset, modulo 2^64. -/
def addrOf (u : Unit) (a : BitVec 6) (x : Option Limm) : W64 := gReg u a + offsetOf x

/-- A guarded operation on A and B into D, landing after lat issue cycles. -/
def alu (g : BitVec 4) (d : BitVec 6) (lat : Nat) (a b : BitVec 6) (f : W64 → W64 → W64) (s : State) : SlotAnswer :=
  guarded g s fun s => .go (pushG s lat d (f (gReg s.unit a) (gReg s.unit b)))

/-- A guarded operation on A and an immediate into D, landing in 1. -/
def aluImm (g : BitVec 4) (d a : BitVec 6) (v : W64) (f : W64 → W64 → W64) (s : State) : SlotAnswer :=
  guarded g s fun s => .go (pushG s 1 d (f (gReg s.unit a) v))

/-- A guarded operation on A into D, landing in 1. -/
def alu1 (g : BitVec 4) (d a : BitVec 6) (f : W64 → W64) (s : State) : SlotAnswer :=
  guarded g s fun s => .go (pushG s 1 d (f (gReg s.unit a)))

/-- Quotient toward zero; all ones for B = 0 (R61). −2^63 ÷ −1 wraps to −2^63. -/
def divS (x y : W64) : W64 := if y == 0#64 then BitVec.allOnes 64 else BitVec.ofInt 64 (x.toInt.tdiv y.toInt)

def divU (x y : W64) : W64 := if y == 0#64 then BitVec.allOnes 64 else w64 (x.toNat / y.toNat)

/-- Remainder with the sign of the dividend; A for B = 0 (R61). -/
def remS (x y : W64) : W64 := if y == 0#64 then x else BitVec.ofInt 64 (x.toInt.tmod y.toInt)

def remU (x y : W64) : W64 := if y == 0#64 then x else w64 (x.toNat % y.toNat)

/-- Zeros above the highest one bit. -/
def leadingZeros (v : W64) : Nat := (upto 0 64).foldl (fun n i => if v.getLsbD i then 63 - i else n) 64

/-- Zeros below the lowest one bit. -/
def trailingZeros (v : W64) : Nat := (upto 0 64).foldl (fun n i => if v.getLsbD (63 - i) then 63 - i else n) 64

def onesOf (v : W64) : Nat := (upto 0 64).foldl (fun n i => n + bit01 (v.getLsbD i)) 0

/-- The low n bits of v, sign-extended to 64 (n from 1 to 64). -/
def signExt64 (v n : Nat) : W64 := BitVec.ofInt 64 (sxInt v n)

/-- BEXT: w bits of A from p, p = B[5:0], w = B[13:8] + 1; bits beyond bit 63 read as 0 (R63). -/
def extractField (a b : W64) : W64 := w64 (a.toNat / 2 ^ fld b 0 6 % 2 ^ (fld b 8 6 + 1))

/-- BINS: the low w bits of A into D at p; bits above bit 63 are not written (R63). -/
def insertField (d a b : W64) : W64 :=
  let mask := w64 ((2 ^ (fld b 8 6 + 1) - 1) * 2 ^ fld b 0 6)
  (d &&& ~~~mask) ||| (a <<< fld b 0 6 &&& mask)

/-- The conditions of CMP (R65). -/
def condHolds (c : BitVec 3) (a b : W64) : Bool :=
  match c.toNat with
  | 0 => a == b
  | 1 => a != b
  | 2 => a.slt b
  | 3 => !a.slt b
  | 4 => a.ult b
  | 5 => !a.ult b
  | 6 => a &&& b != 0#64
  | _ => a &&& b == 0#64

end Sys2Proof.Machine
end

