-- ==== Sys2Proof/Machine/Busy.lean ====
section
/-! DEFINITION. Which ring descriptors are busy (R205). -/

namespace Sys2Proof.Machine

/-- The ring that a near or single-register far descriptor names (R228). -/
def nearRing (w : W64) : List Nat := if fbit w 63 then [fld w 56 6] else []

/-- The ring a feeder reads: its local ring, or the hidden ring of a handle binding (R175, R177). -/
def feederRing (f : Feeder) : Option Nat :=
  match f.src with
  | some (.ring q) => some q.toNat
  | some (.handle d0 _) => some (fld d0 16 6)
  | _ => none

/-- The own ring that a feeder is bound to: the ring it reads, or, through the mesh, the ring of this core that serves it (R176, R178). -/
def boundRing (u : Unit) (f : Feeder) : Option Nat :=
  match f.src with
  | some (.mesh w) => if fld w 0 4 == u.cr.lcore.toNat then some (fld w 4 6) else none
  | _ => feederRing f

/-- The mortar table of a ROUTE (R422). -/
def routeTable (b : W64) : Fin 4 := ⟨fld b 36 2, Nat.mod_lt _ (by decide)⟩

/-- The output ring of a configured mortar table (R427). -/
def outRing (m : Mortar) : List Nat :=
  match m.conf with
  | some (a, _) => [fld a 32 6]
  | none => []

/-- The own rings that a command names (R205). -/
def cmdRings (u : Unit) (c : Cmd) : List Nat :=
  match c with
  | .cpyG2l near _ _ _ _ _ => nearRing near
  | .cpyL2g near _ _ _ => nearRing near
  | .cpyL2l near far _ => nearRing near ++ nearRing far
  | .cpyCl near far ctl => nearRing near ++ (if !fbit ctl 57 && fld far 21 4 == u.cr.lcore.toNat then nearRing far else [])
  | .cpyPe near _ _ _ => nearRing near
  | .panel _ _ _ d0 _ => [fld d0 16 6]
  | .route _ b _ => outRing (u.rt.ra[routeTable b])
  | .rasm a _ => [fld a 32 6]
  | .pxtile a _ _ => [fld a 0 6]
  | _ => []

/-- Every entry of the six queues. -/
def allEntries (u : Unit) : List QEntry := u.cq0 ++ u.cq1 ++ u.fqw ++ u.fqn ++ u.rq ++ u.kq

/-- A ring is bound to a feeder, or as its hidden ring (R175 to R177). -/
def feederBound (u : Unit) (q : BitVec 6) : Bool :=
  boundRing u u.mx.west == some q.toNat || boundRing u u.mx.north == some q.toNat

/-- A descriptor is busy (R205): bound, named by an entry that has not performed, or named by a barrier arrival whose
record has not been committed. -/
def ringBusy (u : Unit) (q : BitVec 6) : Bool :=
  feederBound u q || (allEntries u).any (fun e => (cmdRings u e.cmd).contains q.toNat)
    || (u.cr.cbarPend && u.cr.cbarRing == q) || u.cr.cbarRecs.any (·.1 == q)

end Sys2Proof.Machine
end

