-- ==== Sys2Proof/Machine/Order.lean ====
section
/-! DEFINITION. Acquires, releases and the order in which accesses and queue entries may perform (R222, R223, R256 to R264). -/

namespace Sys2Proof.Machine

/-- An acquire at a scope: at .clu or wider it sets the L1 bound of every class (R260, R264). -/
def acquire (s : State) (scope : Nat) : State :=
  if scope == 0 then s else s.mapUnit fun u => { u with l1bound := Vector.replicate 16 s.stamp }

/-- The classes of a FENCE: its mask and class 15 (R262). -/
def fenceClasses (mask : BitVec 15) : BitVec 16 := mask.setWidth 16 ||| 0x8000#16

/-- Whether a FENCE has not performed: an earlier access of its classes has not performed, or a write of them posted to
a peer (at .dom or .sys) or to the host (at .sys) waits for its flush read (R262, R273). -/
def fenceOpen (u : Unit) (f : MemFence) : Bool :=
  (u.accs.any fun a => a.id < f.before && f.classes.getLsbD a.cls.toNat && !a.performed)
    || (3 ≤ f.scope.toNat && u.posted.any fun p =>
      p.id < f.before && f.classes.getLsbD p.cls.toNat && (p.package < 32 || f.scope == 4#3))

/-- Whether a FENCE still holds back an access with this id, in a class it names (R262). -/
def fenceHolds (u : Unit) (f : MemFence) (id : Nat) (cls : BitVec 4) : Bool :=
  f.before ≤ id && f.classes.getLsbD cls.toNat && fenceOpen u f

/-- Whether a FENCE still holds back a queue entry that entered after it, whatever its class (R262). -/
def fenceHoldsEntry (u : Unit) (f : MemFence) (ord : Nat) : Bool := f.before ≤ ord && fenceOpen u f

/-- Whether an access writes, or may write. -/
def AccKind.isRead : AccKind → Bool
  | .load _ _ => true
  | .vload _ _ _ => true
  | _ => false

/-- The package that owns a VA (R304). -/
def ownerOf (va : W64) : Nat := fld va 52 5

/-- First and last byte address of an access, as a range. -/
def accRange (a : Access) : Nat × Nat :=
  a.parts.foldl (fun (lo, hi) p =>
    p.bytes.foldl (fun (lo, hi) b => let x := (a.va.toNat + b.1) % 2 ^ 64; (min lo x, max hi x)) (lo, hi)) (2 ^ 64, 0)

/-- Whether two accesses share a byte of the same virtual address (R257). -/
def shareByte (a b : Access) : Bool :=
  let addr := fun (x : Access) => x.parts.flatMap fun p => p.bytes.map fun e => (x.va.toNat + e.1) % 2 ^ 64
  let (alo, ahi) := accRange a
  let (blo, bhi) := accRange b
  alo ≤ bhi && blo ≤ ahi && (addr a).any fun x => (addr b).contains x

/-- Queues by index: CQ0, CQ1, FQW, FQN, RQ, KQ (R223). -/
def queueOf (u : Unit) (i : Nat) : List QEntry :=
  match i with
  | 0 => u.cq0
  | 1 => u.cq1
  | 2 => u.fqw
  | 3 => u.fqn
  | 4 => u.rq
  | _ => u.kq

def setQueue (u : Unit) (i : Nat) (q : List QEntry) : Unit :=
  match i with
  | 0 => { u with cq0 := q }
  | 1 => { u with cq1 := q }
  | 2 => { u with fqw := q }
  | 3 => { u with fqn := q }
  | 4 => { u with rq := q }
  | _ => { u with kq := q }

/-- Entries of each queue (R221). -/
def queueLimit (i : Nat) : Nat :=
  match i with
  | 0 => 64
  | 1 => 64
  | 2 => 32
  | 3 => 32
  | 4 => 16
  | _ => 32

/-- Whether a QFENCE still holds an entry of queue i: an earlier entry of a named queue has not performed (R223). -/
def qfenceHolds (u : Unit) (i ord : Nat) : Bool :=
  u.qfences.any fun (m, first) =>
    m.getLsbD i && first ≤ ord
      && (upto 0 6).any fun k => m.getLsbD k && (queueOf u k).any fun e => e.ord < first

/-- The head entry of queue i when it may perform (R222, R223, R262). -/
def readyEntry (u : Unit) (i : Nat) : Option QEntry :=
  match queueOf u i with
  | [] => none
  | e :: _ => if qfenceHolds u i e.ord || u.fences.any (fun f => fenceHoldsEntry u f e.ord) then none else some e

/-- Fences that have performed are dropped; one at .clu or wider sets the L1 bound of its classes then (R260, R262).
Queue fences that hold nothing any more are dropped. -/
def pruneFences (s : State) : State :=
  let u := s.unit
  let done := u.fences.filter fun f => !fenceOpen u f && f.scope != 0#3
  { s with
    unit := { u with
      fences := u.fences.filter (fenceOpen u)
      l1bound := Vector.ofFn fun c => if done.any (·.classes.getLsbD c.val) then s.stamp else u.l1bound[c]
      qfences := u.qfences.filter fun (m, first) => (upto 0 6).any fun k => m.getLsbD k && (queueOf u k).any fun e => e.ord < first } }

/-- Whether a command may enter queue i: the queue has room, and an NC entry can be drawn (R218, R221). -/
def canEnqueue (u : Unit) (i : Nat) : Bool := (queueOf u i).length < queueLimit i && canDraw u u.nc 1

/-- A command enters queue i as its bundle issues (R221). -/
def enqueue (u : Unit) (i : Nat) (cls : BitVec 4) (c : Cmd) : Unit :=
  let seq := nth u.seqs.toList i 0#32
  let e : QEntry := ⟨u.nextAcc, seq, u.pc, cls, c, u.pad.fmt, .waiting, .none⟩
  let u := setQueue u i (queueOf u i ++ [e])
  { u with seqs := u.seqs.setIfInBounds i (seq + 1), nextAcc := u.nextAcc + 1 }

/-- A command entering queue i with its NC entry drawn. -/
def issueCmd (s : State) (i : Nat) (cls : BitVec 4) (c : Cmd) : SlotAnswer :=
  if canEnqueue s.unit i then .go (s.mapUnit fun u => enqueue { u with nc := u.nc + 1 } i cls c) else .block

/-- The head of queue i has performed: it leaves the queue. -/
def dequeue (s : State) (i : Nat) : State := pruneFences (s.mapUnit fun u => setQueue u i (queueOf u i).tail)

/-- The head of queue i replaced. -/
def setHead (u : Unit) (i : Nat) (e : QEntry) : Unit := setQueue u i (e :: (queueOf u i).tail)

/-- An error of queue i: its bit of CR.QERR (R219) and the first error record since the bit was last cleared (R250, R432). -/
def queueError (c : Cregs) (i : Nat) (handle kind : Nat) (seq : W32) : Cregs :=
  let rec_ := w64 (handle * 2 ^ 48 + kind * 2 ^ 32 + seq.toNat)
  let first := !c.qerr.getLsbD i
  { c with
    qerr := c.qerr ||| BitVec.ofNat 6 (2 ^ i)
    cpyerr := if i < 4 && first then c.cpyerr.setIfInBounds i rec_ else c.cpyerr
    rterr := if i == 4 && first then rec_ else c.rterr
    kverr := if i == 5 && first then rec_ else c.kverr }

/-- The oldest error in issue order among the classes a bundle needs (R220). -/
def oldestDeferred (u : Unit) (wanted : Deferred → Bool) : Option Deferred :=
  u.deferred.foldl (fun b d =>
    if wanted d then
      match b with
      | none => some d
      | some c => if d.ord < c.ord then some d else some c
    else b) none

/-- A deferred trap: the error is consumed, and CR.MEMFAULT takes an aborted access's code and VA (R220, R325). -/
def takeDeferred (s : State) (d : Deferred) : SlotAnswer :=
  .deferred (s.mapUnit fun u =>
    { u with
      deferred := u.deferred.erase d
      cr := if d.cause == 0x2D#8 then { u.cr with memfault := w64 (d.code.toNat * 2 ^ 60 + d.va.toNat % 2 ^ 57) } else u.cr })
    d.cause.toNat

end Sys2Proof.Machine
end

