-- ==== Sys2Proof/Machine/Control.lean ====
section
/-! DEFINITION. Control flow, hardware loops and unit control (R69 to R81, R376), and the three instructions that speak to the
dispatcher (R345 to R352). -/

namespace Sys2Proof.Machine

/-- Bytes of the instruction store. -/
def storeBytes : Nat := 4 * Config.storeWords

/-- A word of the instruction store (R48). -/
def fetchWord (u : Unit) (a : Nat) : W32 := (mget u.istore (a / 4)).getD 0#32

/-- Address of the last word of the bundle at a: the first with its stop bit set; fuel: the words of a bundle (R13). -/
def lastWord (u : Unit) : Nat → Nat → Nat
  | 0, a => a
  | fuel + 1, a => if (fetchWord u a).msb then a else lastWord u fuel (a + 4)

/-- Whether an address lies in the range of level i: from LSTART to the last word of the bundle at LEND (R77). -/
def inLevel (u : Unit) (i a : Nat) : Bool :=
  (nth u.loops.start.toList i 0#19).toNat ≤ a && a ≤ lastWord u 7 (nth u.loops.last.toList i 0#19).toNat

/-- The depth that a taken BR, JR or JT at pc to t leaves: the outermost level that it leaves pops, with those inside (R77). -/
def depthAfter (u : Unit) (pc t : Nat) : Nat :=
  ((upto 0 u.loops.depth).find? fun i => inLevel u i pc && !inLevel u i t).getD u.loops.depth

/-- A taken transfer: the next bundle is at t, and no end test runs (R75, R77). -/
def takeTo (s : State) (t : Nat) : State :=
  s.mapUnit fun u =>
    { u with loops := popTo u.loops (depthAfter u u.pc.toNat t), ctx := { u.ctx with target := some t, jump := true } }

/-- Whether a target lies in the instruction store, at a word (R72). -/
def targetOk (t : Int) : Bool := 0 ≤ t && t < storeBytes && t % 4 == 0

/-- The address of a word offset from the bundle in issue. -/
def wordOffset (s : State) (off : Int) : Int := (s.unit.pc.toNat : Int) + 4 * off

/-- BR label (R70, R72). -/
def slotBr (o : BitVec 18) (g : BitVec 4) (s : State) : SlotAnswer :=
  guarded g s fun s =>
    let t := wordOffset s o.toInt
    if targetOk t then .go (takeTo s t.toNat) else .trap 0x12 0#12

def execBr (o : BitVec 18) (g : BitVec 4) (s : State) : Host.Outcome State Fault Refusal :=
  issueOne false false 1 false (slotBr o g) s

/-- CALL label: G63 takes the address of the word after the bundle, and no level pops (R70, R77). -/
def slotCall (o : BitVec 18) (g : BitVec 4) (s : State) : SlotAnswer :=
  guarded g s fun s =>
    let t := wordOffset s o.toInt
    if targetOk t then
      .go ((pushG s 1 63#6 (w64 s.unit.ctx.npc)).mapUnit fun u => { u with ctx := { u.ctx with target := some t.toNat, jump := true } })
    else .trap 0x12 0#12

def execCall (o : BitVec 18) (g : BitVec 4) (s : State) : Host.Outcome State Fault Refusal :=
  issueOne false false 1 false (slotCall o g) s

/-- JR Ga (R71, R72). -/
def slotJr (a : BitVec 6) (g : BitVec 4) (s : State) : SlotAnswer :=
  guarded g s fun s =>
    let t := gReg s.unit a
    if targetOk t.toNat then .go (takeTo s t.toNat) else .trap 0x12 0#12

def execJr (a : BitVec 6) (g : BitVec 4) (s : State) : Host.Outcome State Fault Refusal :=
  issueOne false false 1 false (slotJr a g) s

/-- A word of a jump table; none outside the instruction store (R73). -/
def tableWord (s : State) (a : Int) : Option W32 :=
  if 0 ≤ a && a < storeBytes then some (fetchWord s.unit a.toNat) else none

/-- The target of a JT, or none for a jump-table fault (R73). -/
def jumpTarget (s : State) (table : Int) (index : Nat) : Option Nat :=
  (tableWord s table).bind fun e0 =>
    let n := e0.toNat / 2 ^ 19 % 256
    (tableWord s (table + 4 * (min index n : Nat))).bind fun e =>
      let t := e.toNat % 2 ^ 19
      if e.toNat / 2 ^ 27 != 0 || t % 4 != 0 then none else some t

/-- JT Gi, table (R73). -/
def slotJt (d : BitVec 6) (i : BitVec 12) (g : BitVec 4) (s : State) : SlotAnswer :=
  guarded g s fun s =>
    match jumpTarget s (wordOffset s i.toInt) (gReg s.unit d).toNat with
    | some t => .go (takeTo s t)
    | none => .trap 0x15 0#12

def execJt (d : BitVec 6) (i : BitVec 12) (g : BitVec 4) (s : State) : Host.Outcome State Fault Refusal :=
  issueOne false false 1 false (slotJt d i g) s

/-- The cause under which a LOOP on counter n with end address last does not issue: the lower one first (R76). -/
def loopCause (u : Unit) (n : BitVec 2) (last : Nat) : Option Nat :=
  let l := u.loops
  if 4 ≤ l.depth then some 0x13
  else if l.depth != 0 && (nth l.last.toList (l.depth - 1) 0#19).toNat < last then some 0x14
  else if (upto 0 l.depth).any fun i => nth l.sel.toList i 0#2 == n then some 0x14
  else none

/-- LOOP and LOOPI with their trip count (R74, R76). -/
def loopSlot (n : BitVec 2) (count : W32) (d : BitVec 9) (s : State) : SlotAnswer :=
  let u := s.unit
  let last := u.ctx.npc + 4 * d.toNat
  match loopCause u n last with
  | some c => .trap c 0#12
  | none =>
    if count == 0#32 then
      .go (s.mapUnit fun u => { u with ctx := { u.ctx with target := some (lastWord u 7 last + 4) } })
    else
      .go (s.mapUnit fun u =>
        let l := u.loops
        { u with
          loops :=
            { lc := l.lc.set n.toNat count n.isLt
              start := l.start.setIfInBounds l.depth (BitVec.ofNat 19 u.ctx.npc)
              last := l.last.setIfInBounds l.depth (BitVec.ofNat 19 last)
              sel := l.sel.setIfInBounds l.depth n
              depth := l.depth + 1 } })

/-- LOOP LCn, Ga, last (R74). -/
def slotLoop (n : BitVec 2) (a : BitVec 6) (d : BitVec 9) (g : BitVec 4) (s : State) : SlotAnswer :=
  guarded g s fun s => loopSlot n ((gReg s.unit a).setWidth 32) d s

def execLoop (n : BitVec 2) (a : BitVec 6) (d : BitVec 9) (g : BitVec 4) (s : State) : Host.Outcome State Fault Refusal :=
  issueOne false false 1 false (slotLoop n a d g) s

/-- LOOPI LCn, count, last (R74). -/
def slotLoopi (n : BitVec 2) (c : BitVec 6) (d : BitVec 9) (g : BitVec 4) (x : Option Limm) (s : State) : SlotAnswer :=
  guarded g s fun s => loopSlot n (tripCount c x) d s

def execLoopi (n : BitVec 2) (c : BitVec 6) (d : BitVec 9) (g : BitVec 4) (x : Option Limm) (s : State) :
    Host.Outcome State Fault Refusal :=
  issueOne false false (wordsOf x) false (slotLoopi n c d g x) s

/-- What is to be done once the bundle has issued. -/
def setAfter (s : State) (a : After) : State := s.mapUnit fun u => { u with ctx := { u.ctx with after := a } }

/-- TRAP code (R79): after its bundle, CAUSE 0x10 and the freeze. -/
def slotTrap (c : BitVec 12) (g : BitVec 4) (s : State) : SlotAnswer := guarded g s fun s => .go (setAfter s (.trap c))

def execTrap (c : BitVec 12) (g : BitVec 4) (s : State) : Host.Outcome State Fault Refusal :=
  issueOne false false 1 false (slotTrap c g) s

/-- BREAK code (R79). -/
def slotBrk (c : BitVec 12) (g : BitVec 4) (s : State) : SlotAnswer := guarded g s fun s => .go (setAfter s (.brk c))

def execBrk (c : BitVec 12) (g : BitVec 4) (s : State) : Host.Outcome State Fault Refusal :=
  issueOne false false 1 false (slotBrk c g) s

/-- EXIT (R80). -/
def slotExit (g : BitVec 4) (s : State) : SlotAnswer := guarded g s fun s => .go (setAfter s .exit)

def execExit (g : BitVec 4) (s : State) : Host.Outcome State Fault Refusal := issueOne false false 1 false (slotExit g) s

/-- Whether the unit's queues and counters are empty (R224). -/
def unitQuiet (u : Unit) : Bool :=
  u.nl == 0 && u.ns == 0 && u.nc == 0 && u.nt == 0 && u.cq0.isEmpty && u.cq1.isEmpty && u.fqw.isEmpty && u.fqn.isEmpty
    && u.rq.isEmpty && u.kq.isEmpty

/-- YIELD (R81, R376): nothing without a request; the end of the save half, held until the unit is quiet; the end of the
restore half. -/
def slotYield (g : BitVec 4) (s : State) : SlotAnswer :=
  guarded g s fun s =>
    if !s.unit.cr.pending then .go s
    else if s.unit.cr.restore then .go (setAfter s .restore)
    else if unitQuiet s.unit then .go (setAfter s .save)
    else .block

def execYield (g : BitVec 4) (s : State) : Host.Outcome State Fault Refusal := issueOne false false 1 false (slotYield g) s

end Sys2Proof.Machine
end

