-- ==== Sys2Proof/Machine/Codes.lean ====
section
/-! DEFINITION. Check codes and digests over byte strings: CRC-64 of R355, CRC-32C of R240, SHA3 of R396 and R494, and
the UTF-8 forms of R451. -/

namespace Sys2Proof.Machine

/-- One byte of the CRC-64 of R355: not reflected, polynomial 0x42F0_E1EB_A9EA_3693. -/
def crc64Byte (c : W64) (b : Byte) : W64 :=
  iter (fun (x : W64) => if x.msb then (x <<< 1) ^^^ 0x42F0E1EBA9EA3693#64 else x <<< 1) 8 (c ^^^ (b.setWidth 64 <<< 56))

/-- CRC-64 of a byte string, initial value 0 (R355). -/
def crc64 (bs : List Byte) : W64 := bs.foldl crc64Byte 0#64

/-- One byte of CRC-32C: reflected Castagnoli polynomial (R240). -/
def crc32cByte (c : W32) (b : Byte) : W32 :=
  iter (fun (x : W32) => if x.getLsbD 0 then (x >>> 1) ^^^ 0x82F63B78#32 else x >>> 1) 8 (c ^^^ b.setWidth 32)

/-- CRC-32C of a byte string (R240). -/
def crc32c (bs : List Byte) : W32 := ~~~(bs.foldl crc32cByte (BitVec.allOnes 32))

/-! ### SHA3 (FIPS 202, as R396 and R494 name it) -/

/-- Rotation of each lane, x + 5 y. -/
def keccakRot : List Nat := [0, 1, 62, 28, 27, 36, 44, 6, 55, 20, 3, 10, 43, 25, 39, 41, 45, 15, 21, 8, 18, 2, 61, 56, 14]

/-- Round constants. -/
def keccakRc : List W64 :=
  [0x0000000000000001#64, 0x0000000000008082#64, 0x800000000000808A#64, 0x8000000080008000#64, 0x000000000000808B#64,
   0x0000000080000001#64, 0x8000000080008081#64, 0x8000000000008009#64, 0x000000000000008A#64, 0x0000000000000088#64,
   0x0000000080008009#64, 0x000000008000000A#64, 0x000000008000808B#64, 0x800000000000008B#64, 0x8000000000008089#64,
   0x8000000000008003#64, 0x8000000000008002#64, 0x8000000000000080#64, 0x000000000000800A#64, 0x800000008000000A#64,
   0x8000000080008081#64, 0x8000000000008080#64, 0x0000000080000001#64, 0x8000000080008008#64]

def rotl64 (x : W64) (n : Nat) : W64 := if n == 0 then x else (x <<< n) ||| (x >>> (64 - n))

/-- One round on the 25 lanes. -/
def keccakRound (a : List W64) (rc : W64) : List W64 :=
  let at_ := fun (l : List W64) x y => nth l (x % 5 + 5 * (y % 5)) 0#64
  let c := (upto 0 5).map fun x => (upto 0 5).foldl (fun v y => v ^^^ at_ a x y) 0#64
  let d := (upto 0 5).map fun x => nth c ((x + 4) % 5) 0#64 ^^^ rotl64 (nth c ((x + 1) % 5) 0#64) 1
  let th := (upto 0 25).map fun i => nth a i 0#64 ^^^ nth d (i % 5) 0#64
  -- lane (X, Y) of the next arrangement takes lane (x, y) with X = y and Y = 2 x + 3 y
  let b := (upto 0 25).map fun i =>
    let x := i % 5
    let y := i / 5
    let x' := (x + 3 * y) % 5
    rotl64 (at_ th x' x) (nth keccakRot (x' + 5 * x) 0)
  let chi := (upto 0 25).map fun i =>
    let x := i % 5
    let y := i / 5
    at_ b x y ^^^ (~~~(at_ b (x + 1) y) &&& at_ b (x + 2) y)
  match chi with
  | l :: rest => (l ^^^ rc) :: rest
  | [] => []

/-- The permutation of 24 rounds. -/
def keccakF (a : List W64) : List W64 := keccakRc.foldl keccakRound a

/-- The message padded to a multiple of the rate r bytes, its suffix bits in b. -/
def sha3Pad (b : Byte) (r : Nat) (m : List Byte) : List Byte :=
  let k := r - m.length % r
  if k == 1 then m ++ [b ||| 0x80#8] else m ++ [b] ++ List.replicate (k - 2) 0#8 ++ [0x80#8]

/-- The state once a message is absorbed. -/
def sha3Absorb (b : Byte) (r : Nat) (m : List Byte) : List W64 :=
  let p := sha3Pad b r m
  (chunks r (p.length / r) p).foldl (fun st blk =>
    let lanes := (chunks 8 25 blk).map fun l => BitVec.ofNat 64 (leNat l)
    keccakF ((upto 0 25).map fun i => nth st i 0#64 ^^^ nth lanes i 0#64)) (List.replicate 25 0#64)

/-- The bytes of a state. -/
def sha3Bytes (st : List W64) : List Byte := st.flatMap fun l => leBytes l.toNat 8

/-- SHA3 with rate r and n output bytes. -/
def sha3 (r n : Nat) (m : List Byte) : List Byte := (sha3Bytes (sha3Absorb 0x06#8 r m)).take n

def sha3_256 (m : List Byte) : List Byte := sha3 136 32 m
def sha3_512 (m : List Byte) : List Byte := sha3 72 64 m

/-- The first blocks of r bytes that a state gives. -/
def squeeze (r : Nat) : Nat → List W64 → List Byte
  | 0, _ => []
  | n + 1, st => (sha3Bytes st).take r ++ squeeze r n (keccakF st)

/-- n blocks of SHAKE128 and of SHAKE256. -/
def shake128 (n : Nat) (m : List Byte) : List Byte := squeeze 168 n (sha3Absorb 0x1F#8 168 m)
def shake256 (n : Nat) (m : List Byte) : List Byte := squeeze 136 n (sha3Absorb 0x1F#8 136 m)

end Sys2Proof.Machine
end

