-- ==== Sys2Proof/Machine/Flags.lean ====
section
/-! DEFINITION. The arithmetic flags of CR.FFLAGS (R57, R94). -/

namespace Sys2Proof.Machine

def flagNV : BitVec 6 := 1#6
def flagOF : BitVec 6 := 2#6
def flagUF : BitVec 6 := 4#6
def flagNX : BitVec 6 := 8#6
def flagNAN : BitVec 6 := 16#6
def flagRESZ : BitVec 6 := 32#6

/-- A flag set under a condition. -/
def flagIf (b : Bool) (f : BitVec 6) : BitVec 6 := if b then f else 0#6

end Sys2Proof.Machine
end

