-- ==== Sys2Proof/Machine/Float.lean ====
section
/-! DEFINITION. Number formats, rounding and conversions (R85 to R107): exact values, one rounding, flags. -/

namespace Sys2Proof.Machine

/-- An exact value: a NaN or infinity with its sign bit, or ±m × 2^e; a zero keeps its sign. -/
inductive Num where
  | nan (neg : Bool)
  | inf (neg : Bool)
  | fin (neg : Bool) (m : Nat) (e : Int)
deriving DecidableEq, Repr

/-- A binary floating-point format (R87, R96): exponent and fraction bits, bias, largest finite magnitude code, and
special codes: 0 none, 1 IEEE, 2 the two NaN codes of E4M3. -/
structure FFmt where
  eb   : Nat
  mb   : Nat
  bias : Nat
  top  : Nat
  spec : Nat
deriving DecidableEq, Repr

def fp32 : FFmt := ⟨8, 23, 127, 0x7F7FFFFF, 1⟩
def fp16 : FFmt := ⟨5, 10, 15, 0x7BFF, 1⟩
def bf16 : FFmt := ⟨8, 7, 127, 0x7F7F, 1⟩
def e4m3 : FFmt := ⟨4, 3, 7, 0x7E, 2⟩
def e5m2 : FFmt := ⟨5, 2, 15, 0x7B, 1⟩
def e3m2 : FFmt := ⟨3, 2, 3, 0x1F, 0⟩
def e2m3 : FFmt := ⟨2, 3, 1, 0x1F, 0⟩
def e2m1 : FFmt := ⟨2, 1, 1, 0x7, 0⟩

/-- The sign bit's weight. -/
def FFmt.signBit (f : FFmt) : Nat := 2 ^ (f.eb + f.mb)

/-- The value of a code (R87, R96 to R98). -/
def decodeF (f : FFmt) (c : Nat) : Num :=
  let neg := c / f.signBit % 2 == 1
  let e := c / 2 ^ f.mb % 2 ^ f.eb
  let m := c % 2 ^ f.mb
  if f.spec == 1 && e == 2 ^ f.eb - 1 then (if m == 0 then .inf neg else .nan neg)
  else if f.spec == 2 && c % f.signBit == f.signBit - 1 then .nan neg
  else if e == 0 then .fin neg m (1 - f.bias - f.mb)
  else .fin neg (2 ^ f.mb + m) ((e : Int) - f.bias - f.mb)

def Num.isNan : Num → Bool
  | .nan _ => true
  | _ => false

def Num.neg? : Num → Bool
  | .nan n => n
  | .inf n => n
  | .fin n _ _ => n

def Num.isZero : Num → Bool
  | .fin _ 0 _ => true
  | _ => false

def Num.isInf : Num → Bool
  | .inf _ => true
  | _ => false

/-- m shifted right by sh and rounded: to nearest even, or toward zero; and whether bits were lost. -/
def shiftRound (rtz : Bool) (m sh : Nat) : Nat × Bool :=
  if sh == 0 then (m, false)
  else
    let d := m / 2 ^ sh
    let r := m % 2 ^ sh
    let half := 2 ^ (sh - 1)
    (if !rtz && (half < r || (r == half && d % 2 == 1)) then d + 1 else d, r != 0)

/-- Magnitude code of m × 2^e, m > 0, rounded with an exponent unbounded above (R88, R101), and whether it is inexact. -/
def quantF (f : FFmt) (rtz : Bool) (m : Nat) (e : Int) : Nat × Bool :=
  let emin : Int := 1 - f.bias
  let q : Int := max ((m.log2 : Int) + e) emin - f.mb
  let (m', lost) := if q ≤ e then (m * 2 ^ (e - q).toNat, false) else shiftRound rtz m (q - e).toNat
  if m' < 2 ^ f.mb then (m', lost) else ((q + f.mb + f.bias).toNat * 2 ^ f.mb + (m' - 2 ^ f.mb), lost)

/-- Whether m × 2^e lies below the smallest normal (R94). -/
def tiny (f : FFmt) (m : Nat) (e : Int) : Bool := m != 0 && (m.log2 : Int) + e < 1 - f.bias

def signed (f : FFmt) (neg : Bool) (mag : Nat) : Nat := if neg then f.signBit + mag else mag

/-- The canonical NaN of a format with IEEE specials (R90, R101). -/
def qnan (f : FFmt) : Nat := (2 ^ f.eb - 1) * 2 ^ f.mb + 2 ^ (f.mb - 1)

/-- RNE_F and RTZ_F of R93 for FP32, FP16 and BF16, and SAT_F of R101 for the narrow formats, with the flags of R94. -/
def encodeF (f : FFmt) (sat rtz : Bool) (x : Num) : Nat × BitVec 6 :=
  match x with
  | .nan neg =>
    if f.spec == 1 then (qnan f, 0#6)
    else if f.spec == 2 then (signed f neg (f.signBit - 1), 0#6)
    else (signed f neg f.top, flagNV)
  | .inf neg => if f.spec == 1 then (signed f neg ((2 ^ f.eb - 1) * 2 ^ f.mb), 0#6) else (signed f neg f.top, flagOF)
  | .fin neg 0 _ => (signed f neg 0, 0#6)
  | .fin neg m e =>
    let (mag, lost) := quantF f rtz m e
    if f.top < mag then
      (signed f neg (if sat || rtz then f.top else (2 ^ f.eb - 1) * 2 ^ f.mb), flagOF ||| flagNX)
    else (signed f neg mag, flagIf lost flagNX ||| flagIf (tiny f m e && lost) flagUF)

/-- RNE to an IEEE format. -/
def rneF (f : FFmt) (x : Num) : Nat × BitVec 6 := encodeF f false false x

/-- The FP32 code of a value. -/
def rne32 (x : Num) : Nat := (rneF fp32 x).1

/-! ### Exact arithmetic -/

/-- ±m × 2^e as an integer over 2^q, q ≤ e. -/
def scaledInt (neg : Bool) (m : Nat) (e q : Int) : Int :=
  let v : Int := m * 2 ^ (e - q).toNat
  if neg then -v else v

/-- The exact product, and whether it is inf × 0. -/
def mulNum (x y : Num) : Num × Bool :=
  match x, y with
  | .nan _, _ => (.nan false, false)
  | _, .nan _ => (.nan false, false)
  | .inf a, .inf b => (.inf (a != b), false)
  | .inf a, .fin b m _ => if m == 0 then (.nan false, true) else (.inf (a != b), false)
  | .fin a m _, .inf b => if m == 0 then (.nan false, true) else (.inf (a != b), false)
  | .fin a m e, .fin b m' e' => (.fin (a != b) (m * m') (e + e'), false)

/-- The exact sum, and whether it is (+inf) + (−inf); an exact zero is +0 unless both terms are −0 (R91). -/
def addNum (x y : Num) : Num × Bool :=
  match x, y with
  | .nan _, _ => (.nan false, false)
  | _, .nan _ => (.nan false, false)
  | .inf a, .inf b => if a == b then (.inf a, false) else (.nan false, true)
  | .inf a, .fin _ _ _ => (.inf a, false)
  | .fin _ _ _, .inf b => (.inf b, false)
  | .fin a m e, .fin b m' e' =>
    if m == 0 && m' == 0 then (.fin (a && b) 0 0, false)
    else
      let q := min e e'
      let v := scaledInt a m e q + scaledInt b m' e' q
      (.fin (v < 0) v.natAbs q, false)

def negNum : Num → Num
  | .nan n => .nan n
  | .inf n => .inf !n
  | .fin n m e => .fin (!n) m e

/-- A value times 2^n. -/
def scaleNum (x : Num) (n : Int) : Num :=
  match x with
  | .fin a m e => .fin a m (e + n)
  | y => y

/-- An integer as an exact value. -/
def intNum (v : Int) : Num := .fin (v < 0) v.natAbs 0

/-- −1, 0 or 1 as x is below, equal to or above y; NaN is excluded by the callers. Both zeros are equal. -/
def cmpNum (x y : Num) : Int :=
  match x, y with
  | .inf a, .inf b => if a == b then 0 else if a then -1 else 1
  | .inf a, _ => if a then -1 else 1
  | _, .inf b => if b then 1 else -1
  | .fin a m e, .fin b m' e' =>
    let q := min e e'
    let v := scaledInt a m e q
    let w := scaledInt b m' e' q
    if v < w then -1 else if v == w then 0 else 1
  | _, _ => 0

/-! ### Operations on codes -/

def nanSeen (xs : List Num) : BitVec 6 := flagIf (xs.any Num.isNan) flagNAN

/-- x + y, rounded once (R88, R94). -/
def addF (f : FFmt) (a b : Nat) : Nat × BitVec 6 :=
  let x := decodeF f a
  let y := decodeF f b
  let (s, nv) := addNum x y
  let (c, fl) := rneF f s
  (c, fl ||| flagIf nv flagNV ||| nanSeen [x, y])

def negF (f : FFmt) (a : Nat) : Nat := if a / f.signBit % 2 == 1 then a - f.signBit else a + f.signBit

/-- x − y, rounded once. -/
def subF (f : FFmt) (a b : Nat) : Nat × BitVec 6 :=
  let x := decodeF f a
  let y := decodeF f b
  let (s, nv) := addNum x (negNum y)
  let (c, fl) := rneF f s
  (c, fl ||| flagIf nv flagNV ||| nanSeen [x, y])

/-- x × y, rounded once. -/
def mulF (f : FFmt) (a b : Nat) : Nat × BitVec 6 :=
  let x := decodeF f a
  let y := decodeF f b
  let (p, nv) := mulNum x y
  let (c, fl) := rneF f p
  (c, fl ||| flagIf nv flagNV ||| nanSeen [x, y])

/-- FMA(a, b, c): one rounding; 0 × inf is invalid whatever the addend (R94). -/
def fmaF (f : FFmt) (a b c : Nat) : Nat × BitVec 6 :=
  let x := decodeF f a
  let y := decodeF f b
  let z := decodeF f c
  let (p, nv) := mulNum x y
  let (s, nv') := addNum p z
  let (r, fl) := rneF f s
  (r, fl ||| flagIf (nv || nv') flagNV ||| nanSeen [x, y, z])

/-- minimumNumber and maximumNumber (R92). -/
def minmaxF (f : FFmt) (wantMax : Bool) (a b : Nat) : Nat × BitVec 6 :=
  let x := decodeF f a
  let y := decodeF f b
  let r :=
    if x.isNan && y.isNan then qnan f
    else if x.isNan then b
    else if y.isNan then a
    else
      let below := cmpNum x y < 0 || (x.isZero && y.isZero && x.neg? && !y.neg?)
      if below == wantMax then b else a
  (r, nanSeen [x, y])

/-! ### Integers -/

/-- m × 2^e as the nearest integer (ties to even), or toward zero; and whether it is inexact. -/
def toInteger (rtz neg : Bool) (m : Nat) (e : Int) : Int × Bool :=
  let (v, lost) := if 0 ≤ e then (m * 2 ^ e.toNat, false) else shiftRound rtz m (-e).toNat
  (if neg then -(v : Int) else v, lost)

/-- Conversion into INT32 (R107). -/
def toInt32 (rtz : Bool) (x : Num) : Nat × BitVec 6 :=
  match x with
  | .nan _ => (0, flagNV ||| flagNAN)
  | .inf neg => (if neg then 0x80000000 else 0x7FFFFFFF, flagNV)
  | .fin neg m e =>
    let (v, lost) := toInteger rtz neg m e
    if v > 2147483647 then (0x7FFFFFFF, flagNV)
    else if v < -2147483648 then (0x80000000, flagNV)
    else ((v % 4294967296).toNat, flagIf lost flagNX)

/-- Two's-complement value of n bits. -/
def sint (n c : Nat) : Int := let y := c % 2 ^ n; if y < 2 ^ (n - 1) then y else (y : Int) - 2 ^ n

/-- SAT_MXINT8 of a value times 2^6 (R105), and its flags: OF and NX where it saturates (log 71). -/
def toMxint8 (x : Num) : Nat × BitVec 6 :=
  match x with
  | .nan _ => (0, flagNV)
  | .inf neg => (if neg then 0x81 else 0x7F, flagNV)
  | .fin neg m e =>
    let (v, lost) := toInteger false neg m (e + 6)
    if v > 127 then (0x7F, flagOF ||| flagNX)
    else if v < -127 then (0x81, flagOF ||| flagNX)
    else ((v % 256).toNat, flagIf lost flagNX)

/-! ### Element formats (R85) -/

/-- Bits of an element of format code f (R85). -/
def fmtBits (f : Nat) : Nat :=
  match f with
  | 0 => 32
  | 1 => 16
  | 2 => 16
  | 3 => 8
  | 4 => 8
  | 5 => 6
  | 6 => 6
  | 7 => 4
  | 8 => 4
  | 9 => 8
  | 10 => 8
  | 11 => 4
  | _ => 32

/-- Whether a format carries E8M0 scales (codes 0x3 to 0x9). -/
def fmtMx (f : Nat) : Bool := 3 ≤ f && f ≤ 9

/-- Whether a format is asymmetric (codes 0xA and 0xB). -/
def fmtAsym (f : Nat) : Bool := f == 10 || f == 11

/-- Group size of a GSIZE code (R156). -/
def gsize (c : Nat) : Nat := if c == 0 then 32 else if c == 1 then 64 else 128

/-- Value of an E8M0 code as an exponent; none for 0xFF (R99). -/
def e8m0 (c : Nat) : Option Int := if c == 255 then none else some ((c : Int) - 127)

/-- The floating-point format of a code, where it has one. -/
def fmtFloat (f : Nat) : Option FFmt :=
  match f with
  | 0 => some fp32
  | 1 => some fp16
  | 2 => some bf16
  | 3 => some e4m3
  | 4 => some e5m2
  | 5 => some e3m2
  | 6 => some e2m3
  | 7 => some e2m1
  | 8 => some e2m1
  | _ => none

/-- Value of an element code before its scale; xval is the extra value of FP4X (R97, R98, R103, R105). -/
def decodeElem (f xval c : Nat) : Num :=
  if f == 8 && c == 8 then decodeF e4m3 xval
  else
    match fmtFloat f with
    | some ff => decodeF ff c
    | none => if f == 9 then .fin (sint 8 c < 0) (sint 8 c).natAbs (-6) else intNum (sint 32 c)

/-- Value of an element under its E8M0 scale (R100). -/
def decodeMx (f xval c scale : Nat) : Num :=
  match e8m0 scale with
  | none => .nan false
  | some n => scaleNum (decodeElem f xval c) n

/-- Value of an asymmetric element under scale code s (FP16) and zero point z (R106). -/
def decodeAsym (c s z : Nat) : Num := (mulNum (decodeF fp16 s) (intNum ((c : Int) - z))).1

/-- emax of R102. -/
def mxEmax (f : Nat) : Int :=
  match f with
  | 3 => 8
  | 4 => 15
  | 5 => 4
  | 6 => 2
  | 7 => 2
  | 8 => 2
  | _ => 0

/-- SAT_F of a scaled value into an MX element (R101, R103, R105). -/
def satElem (f : Nat) (x : Num) : Nat × BitVec 6 :=
  if f == 9 then toMxint8 x
  else
    match fmtFloat f with
    | some ff =>
      let (c, fl) := encodeF ff true false x
      (if f == 8 && c == 8 then 0 else c, fl)
    | none => (0, 0#6)

/-- FLOOR(log2) of the largest magnitude of the finite nonzero values; none when all are zero. -/
def topExp (xs : List Num) : Option Int :=
  xs.foldl (fun b x =>
    match x with
    | .fin _ 0 _ => b
    | .fin _ m e =>
      let t := (m.log2 : Int) + e
      match b with
      | none => some t
      | some u => some (max t u)
    | _ => b) none

/-- The block derivation of R102: scale code, element codes, and each element's flags. -/
def quantBlock (f : Nat) (xs : List Num) : Nat × List (Nat × BitVec 6) :=
  if xs.any fun x => x.isNan || x.isInf then
    (255, xs.map fun x => (0, if x.isNan then flagNAN else if x.isInf then flagOF else 0#6))
  else
    let x0 : Int := match topExp xs with
      | none => 0
      | some t => t - mxEmax f
    let x1 := max (-127) (min 127 x0)
    ((x1 + 127).toNat, xs.map fun v => satElem f (scaleNum v (-x1)))

/-! ### The transcendental unit (R114 to R120) -/

def num32 (c : Nat) : Num := decodeF fp32 c

/-- FMA of FP32 codes, flags aside. -/
def fma32 (a b c : Nat) : Nat := (fmaF fp32 a b c).1

/-- POLY of R115 on an exact residual u: two FMAs and a product, each rounded once, nothing else (R114). -/
def polyNum (c1 c2 c3 : Nat) (u : Num) : Nat :=
  let fma := fun (b c : Nat) => rne32 (addNum (mulNum u (num32 b)).1 (num32 c)).1
  rne32 (mulNum u (num32 (fma (fma c3 c2) c1))).1

/-- POLY of R115 on a residual that is an FP32 value. -/
def poly (c1 c2 c3 u : Nat) : Nat := polyNum c1 c2 c3 (num32 u)

/-- SCALE(y, n) with its overflow and underflow (R93). -/
def scale32 (y : Nat) (n : Int) : Nat × BitVec 6 := rneF fp32 (scaleNum (num32 y) n)

/-- e and v of a finite nonzero value ±2^e × v: e, and v as a 24-bit significand v × 2^23 (R114). -/
def splitNum (m : Nat) (e : Int) : Int × Nat :=
  let t := m.log2
  ((t : Int) + e, if t ≤ 23 then m * 2 ^ (23 - t) else m / 2 ^ (t - 23))

/-- Flags of a procedure result (R120): c the code of the result, exact whether the exact result is representable, lost
the flags of the final scaling. -/
def procFlags (c : Nat) (exact : Bool) (fl : BitVec 6) : BitVec 6 :=
  if exact then 0#6
  else
    let ovf := fl &&& flagOF
    let small := c % 2 ^ 31 < 0x00800000
    flagNX ||| ovf ||| flagIf small flagUF

/-- VEXP2 (R116, R120). -/
def exp2F (a : Nat) : Nat × BitVec 6 :=
  match num32 a with
  | .nan _ => (0x7FC00000, flagNAN)
  | .inf neg => (if neg then 0 else 0x7F800000, 0#6)
  | .fin _ 0 _ => (0x3F800000, 0#6)
  | .fin neg m e =>
    let x6 := scaledInt neg m (e + 6) (min (e + 6) 0)
    let sh := (-(min (e + 6) 0)).toNat
    let k : Int := x6 / 2 ^ sh
    let f := intNumScaled (x6 % 2 ^ sh) (min (e + 6) 0 - 6)
    let i := (k % 64).toNat
    let t := tabE.getD i 0
    let y := fma32 t (polyNum 0x3F317218 0x3E75FDF0 0x3D635847 f) t
    let ex := k / 64
    let ex' := max (-400) (min 400 ex)
    let (c, fl) := scale32 y ex'
    let integer := x6 % 2 ^ sh == 0 && k % 64 == 0
    (c, procFlags c (integer && -149 ≤ ex && ex ≤ 127) fl)
where
  /-- An exact value v × 2^e of a nonnegative integer v. -/
  intNumScaled (v : Int) (e : Int) : Num := .fin false v.natAbs e

/-- VLOG2 (R117, R120). -/
def log2F (a : Nat) : Nat × BitVec 6 :=
  match num32 a with
  | .nan _ => (0x7FC00000, flagNAN)
  | .inf neg => if neg then (0x7FC00000, flagNV) else (0x7F800000, 0#6)
  | .fin _ 0 _ => (0xFF800000, 0#6)
  | .fin true _ _ => (0x7FC00000, flagNV)
  | .fin false m e =>
    let (ex, v) := splitNum m e
    let i := (v - 2 ^ 23) / 2 ^ 17
    let vc := rne32 (.fin false v (-23))
    let u := fma32 vc (tabC.getD i 0) 0xBF800000
    let s := (addF fp32 (tabL.getD i 0) (poly 0x3FB8AA3B 0xBF38AA3B 0x3EF6384F u)).1
    let (c, fl) := addF fp32 (rne32 (intNum ex)) s
    (c, procFlags c (v == 2 ^ 23) fl)

/-- VRCP (R118, R120). -/
def rcpF (a : Nat) : Nat × BitVec 6 :=
  match num32 a with
  | .nan _ => (0x7FC00000, flagNAN)
  | .inf neg => (if neg then 0x80000000 else 0, 0#6)
  | .fin neg 0 _ => (if neg then 0xFF800000 else 0x7F800000, 0#6)
  | .fin neg m e =>
    let (ex, v) := splitNum m e
    let i := (v - 2 ^ 23) / 2 ^ 17
    let t := tabC.getD i 0
    let nv := rne32 (.fin true v (-23))
    let u := fma32 nv t 0x3F800000
    let y := fma32 t (poly 0x3F800000 0x3F800000 0x3F800000 u) t
    let (c, fl) := scale32 y (-ex)
    (if neg then negF fp32 c else c, procFlags c (v == 2 ^ 23 && -ex ≤ 127) fl)

/-- VRSQ (R119, R120). -/
def rsqF (a : Nat) : Nat × BitVec 6 :=
  match num32 a with
  | .nan _ => (0x7FC00000, flagNAN)
  | .inf neg => if neg then (0x7FC00000, flagNV) else (0, 0#6)
  | .fin neg 0 _ => (if neg then 0xFF800000 else 0x7F800000, 0#6)
  | .fin true _ _ => (0x7FC00000, flagNV)
  | .fin false m e =>
    let (ex, v) := splitNum m e
    let even := ex % 2 == 0
    let h := if even then ex / 2 else (ex - 1) / 2
    let i := (v - 2 ^ 23) / 2 ^ 18 + (if even then 0 else 32)
    let w := rne32 (.fin false v (if even then -23 else -22))
    let tt := tabT.getD i 0
    let t := (mulF fp32 w tt).1
    let u := fma32 (negF fp32 t) tt 0x3F800000
    let y := fma32 tt (poly 0x3F000000 0x3EC00000 0x3EA00000 u) tt
    let (c, fl) := scale32 y (-h)
    (c, procFlags c (v == 2 ^ 23 && even) fl)

end Sys2Proof.Machine
end

