-- ==== Sys2Proof/Machine/Lanes.lean ====
section
/-! DEFINITION. Vector registers by lanes and elements, lane masks, and the shared lane-wise operations (R124 to R149). -/

namespace Sys2Proof.Machine

/-- Lane i (R124). -/
def lane (v : VReg) (i : Nat) : Nat := v.toNat / 2 ^ (32 * i) % 2 ^ 32

/-- Element n of width w (R124). -/
def elemOf (v : VReg) (w n : Nat) : Nat := v.toNat / 2 ^ (w * n) % 2 ^ w

/-- Sixty-four elements of w bits from bit off: the written bits, their data and the flags. -/
def build (w off : Nat) (g : Nat → Option (Nat × BitVec 6)) : Nat × Nat × BitVec 6 :=
  (upto 0 64).foldl (fun (bits, data, fl) i =>
    match g i with
    | none => (bits, data, fl)
    | some (v, f) =>
      let k := 2 ^ (off + w * i)
      (bits + (2 ^ w - 1) * k, data + v % 2 ^ w * k, fl ||| f)) (0, 0, 0#6)

/-- A result in flight to elements of VD. -/
def pushLanes (d : BitVec 5) (lat w off : Nat) (g : Nat → Option (Nat × BitVec 6)) (s : State) : SlotAnswer :=
  let (bits, data, fl) := build w off g
  .go (s.mapUnit fun u => push u lat (.v d (BitVec.ofNat 2048 bits) (BitVec.ofNat 2048 data)) fl)

/-- Enabled lanes receive f i; with z the others receive 0, and otherwise they are not written (R125). -/
def lanes (d : BitVec 5) (m : BitVec 3) (z : Bool) (lat : Nat) (f : Nat → Nat × BitVec 6) (s : State) : SlotAnswer :=
  let mask := mReg s.unit m
  pushLanes d lat 32 0 (fun i => if mask.getLsbD i then some (f i) else if z then some (0, 0#6) else none) s

/-- Lanes 0 and 1 receive values, the others 0 (R138). -/
def twoLanes (d : BitVec 5) (lat v0 v1 : Nat) (fl : BitVec 6) (s : State) : SlotAnswer :=
  pushLanes d lat 32 0 (fun i => some (if i == 0 then (v0, fl) else if i == 1 then (v1, 0#6) else (0, 0#6))) s

/-- Sub-elements of width w of three lanes combined. -/
def subLanes (w : Nat) (f : Nat → Nat → Nat → Nat × BitVec 6) (x y d : Nat) : Nat × BitVec 6 :=
  (upto 0 (32 / w)).foldl (fun (v, fl) j =>
    let k := 2 ^ (w * j)
    let (r, g) := f (x / k % 2 ^ w) (y / k % 2 ^ w) (d / k % 2 ^ w)
    (v + r % 2 ^ w * k, fl ||| g)) (0, 0#6)

/-- The float format and width of T (R124). -/
def floatT (t : BitVec 2) : FFmt × Nat :=
  match t.toNat with
  | 0 => (fp32, 32)
  | 1 => (bf16, 16)
  | _ => (fp16, 16)

/-- The integer width of T (R124). -/
def intT (t : BitVec 2) : Nat :=
  match t.toNat with
  | 0 => 32
  | 1 => 16
  | _ => 8

/-- A float instruction of two operands (R130). -/
def float2 (d a b : BitVec 5) (m : BitVec 3) (z : Bool) (t : BitVec 2) (lat : Nat) (op : FFmt → Nat → Nat → Nat × BitVec 6)
    (s : State) : SlotAnswer :=
  let (f, w) := floatT t
  let va := vReg s.unit a
  let vb := vReg s.unit b
  lanes d m z lat (fun i => subLanes w (fun x y _ => op f x y) (lane va i) (lane vb i) 0) s

/-- VFMA: VD is the addend, read at issue (R130). -/
def float3 (d a b : BitVec 5) (m : BitVec 3) (z : Bool) (t : BitVec 2) (s : State) : SlotAnswer :=
  let (f, w) := floatT t
  let va := vReg s.unit a
  let vb := vReg s.unit b
  let vd := vReg s.unit d
  lanes d m z 4 (fun i => subLanes w (fmaF f) (lane va i) (lane vb i) (lane vd i)) s

/-- VABS and VNEG: a NaN gives the canonical NaN and NANSEEN (R130). -/
def float1 (d a : BitVec 5) (m : BitVec 3) (z : Bool) (t : BitVec 2) (op : FFmt → Nat → Nat) (s : State) : SlotAnswer :=
  let (f, w) := floatT t
  let va := vReg s.unit a
  lanes d m z 3 (fun i =>
    subLanes w (fun x _ _ => if (decodeF f x).isNan then (qnan f, flagNAN) else (op f x, 0#6)) (lane va i) 0 0) s

/-- An integer or logic instruction (R134). -/
def int2 (d a b : BitVec 5) (m : BitVec 3) (z : Bool) (t : BitVec 2) (op : Nat → Nat → Nat → Nat) (s : State) : SlotAnswer :=
  let w := intT t
  let va := vReg s.unit a
  let vb := vReg s.unit b
  lanes d m z 2 (fun i => subLanes w (fun x y _ => (op w x y, 0#6)) (lane va i) (lane vb i) 0) s

/-- A compare into mask k (R131). -/
def compareLanes (c : BitVec 2) (k : BitVec 3) (a b : BitVec 5) (m : BitVec 3) (z : Bool) (lat : Nat)
    (op : Nat → Nat → Nat → Bool × BitVec 6) (s : State) : SlotAnswer :=
  let mask := mReg s.unit m
  let va := vReg s.unit a
  let vb := vReg s.unit b
  let (data, fl) := (upto 0 64).foldl (fun (v, fl) i =>
    if mask.getLsbD i then
      let (r, f) := op c.toNat (lane va i) (lane vb i)
      (v + bit01 r * 2 ^ i, fl ||| f)
    else (v, fl)) (0, 0#6)
  .go (s.mapUnit fun u => push u lat (.m k (if z then BitVec.allOnes 64 else mask) (w64 data)) fl)

/-- VCMP (R131): EQ, LT, LE, UN. -/
def vcmpHolds (c x y : Nat) : Bool × BitVec 6 :=
  let a := num32 x
  let b := num32 y
  let un := a.isNan || b.isNan
  let r := match c with
    | 0 => !un && cmpNum a b == 0
    | 1 => !un && cmpNum a b < 0
    | 2 => !un && cmpNum a b ≤ 0
    | _ => un
  (r, nanSeen [a, b])

/-- VICMP, OP 0x15 (R131). -/
def vicmpSignedHolds (c x y : Nat) : Bool × BitVec 6 :=
  (match c with
  | 0 => x == y
  | 1 => x != y
  | 2 => sint 32 x < sint 32 y
  | _ => sint 32 y ≤ sint 32 x, 0#6)

/-- VICMP, OP 0x16 (R131). -/
def vicmpUnsignedHolds (c x y : Nat) : Bool × BitVec 6 :=
  (match c with
  | 0 => x < y
  | 1 => y ≤ x
  | 2 => x &&& y != 0
  | _ => x &&& y == 0, 0#6)

/-- A conversion of one float code into another format, with NANSEEN (R94). -/
def recode (src dst : FFmt) (rtz : Bool) (c : Nat) : Nat × BitVec 6 :=
  let x := decodeF src c
  let (r, fl) := encodeF dst false rtz x
  (r, fl ||| nanSeen [x])

/-- VCVT of one lane (R135). -/
def convertLane (sel x : Nat) : Nat × BitVec 6 :=
  match sel with
  | 0 => toInt32 false (num32 x)
  | 1 => toInt32 true (num32 x)
  | 2 => let (c, fl) := rneF fp32 (intNum (sint 32 x)); (c, fl &&& flagNX)
  | 4 => subLanes 16 (fun h _ _ => recode fp16 bf16 false h) x 0 0
  | 5 => subLanes 16 (fun h _ _ => recode bf16 fp16 false h) x 0 0
  | 6 => let (c, fl) := recode fp32 bf16 false x; (c * 65536, fl)
  | _ => let (c, fl) := recode fp32 bf16 true x; (c * 65536, fl)

/-- Width of a VPACK element (R136). -/
def packWidth (f : BitVec 3) : Nat :=
  match f.toNat with
  | 0 => 16
  | 1 => 16
  | 5 => 16
  | _ => 8

/-- An integer clamped to w bits, two's complement. -/
def clampInt (w : Nat) (v : Int) : Nat :=
  loBits (max (-(2 ^ (w - 1) : Int)) (min (2 ^ (w - 1) - 1) v)) w

/-- NARROW of R136. -/
def narrow (f : BitVec 3) (x : Nat) : Nat × BitVec 6 :=
  match f.toNat with
  | 0 => recode fp32 fp16 false x
  | 1 => recode fp32 bf16 false x
  | 2 => let (c, fl) := encodeF e4m3 true false (num32 x); (c, fl ||| nanSeen [num32 x])
  | 3 => let (c, fl) := encodeF e5m2 true false (num32 x); (c, fl ||| nanSeen [num32 x])
  | 4 => (clampInt 8 (sint 32 x), 0#6)
  | _ => (clampInt 16 (sint 32 x), 0#6)

/-- WIDEN of R136. -/
def widen (f : BitVec 3) (x : Nat) : Nat × BitVec 6 :=
  match f.toNat with
  | 0 => recode fp16 fp32 false x
  | 1 => recode bf16 fp32 false x
  | 2 => recode e4m3 fp32 false x
  | 3 => recode e5m2 fp32 false x
  | 4 => (loBits (sint 8 x) 32, 0#6)
  | _ => (loBits (sint 16 x) 32, 0#6)

/-- The values of the enabled lanes. -/
def enabledNums (mask : W64) (v : VReg) : List Num :=
  (upto 0 64).filterMap fun i => if mask.getLsbD i then some (num32 (lane v i)) else none

/-- The lanes of a reduction, +0 where masked off, and NANSEEN of the enabled ones (R111, R112, R138). -/
def enabledOrZero (u : Unit) (a : BitVec 5) (m : BitVec 3) : List Nat × BitVec 6 :=
  let mask := mReg u m
  let v := vReg u a
  ((upto 0 64).map fun i => if mask.getLsbD i then lane v i else 0, nanSeen (enabledNums mask v))

/-- An addition of a reduction tree: the roundings' flags, an input NaN being reported by the instruction (R138). -/
def addTree (x y : Nat) : Nat × BitVec 6 :=
  let (c, fl) := addF fp32 x y
  (c, fl &&& ~~~flagNAN)

/-- One level of the pairwise tree. -/
def pairSums : List Nat → List Nat × BitVec 6
  | x :: y :: rest =>
    let (c, fl) := addTree x y
    let (cs, fls) := pairSums rest
    (c :: cs, fl ||| fls)
  | xs => (xs, 0#6)

/-- The pairwise tree of R111 over 2^n values. -/
def treeSum : Nat → List Nat → List Nat × BitVec 6
  | 0, xs => (xs, 0#6)
  | n + 1, xs =>
    let (ys, fl) := pairSums xs
    let (zs, fl') := treeSum n ys
    (zs, fl ||| fl')

/-- One level of the prefix tree: lane i adds lane i − k (R112); a lane below k keeps its bits, a NaN's too (log 73). -/
def scanLevel (k : Nat) (xs : List Nat) : List Nat × BitVec 6 :=
  let rs := (upto 0 xs.length).map fun i => if k ≤ i then addTree (xs.getD (i - k) 0) (xs.getD i 0) else (xs.getD i 0, 0#6)
  (rs.map (·.1), rs.foldl (fun f r => f ||| r.2) 0#6)

/-- The six levels of R112. -/
def prefixSums (xs : List Nat) : List Nat × BitVec 6 :=
  [1, 2, 4, 8, 16, 32].foldl (fun (ys, fl) k => let (zs, f) := scanLevel k ys; (zs, fl ||| f)) (xs, 0#6)

/-- VRMAX.I and VRMIN.I (R140). -/
def extremeLane (d a : BitVec 5) (m : BitVec 3) (wantMax : Bool) (s : State) : SlotAnswer :=
  let mask := mReg s.unit m
  let v := vReg s.unit a
  let best := (upto 0 64).foldl (fun (b : Option Nat) i =>
    if mask.getLsbD i && !(num32 (lane v i)).isNan then
      match b with
      | none => some i
      | some k =>
        let c := cmpNum (num32 (lane v i)) (num32 (lane v k))
        if (if wantMax then c > 0 else c < 0) then some i else b
    else b) none
  let fl := nanSeen (enabledNums mask v)
  match best with
  | none => twoLanes d 6 0x7FC00000 0xFFFFFFFF fl s
  | some i => twoLanes d 6 (lane v i) i fl s

/-- Whether code x is above code y; false where either is NaN. -/
def above (x y : Nat) : Bool :=
  let a := num32 x
  let b := num32 y
  !a.isNan && !b.isNan && cmpNum a b > 0

/-- The search of R141: residual, index and the flags of the subtraction. -/
def searchRow (mask : W64) (va : VReg) (t : Nat) : Nat × Nat × BitVec 6 :=
  let first := (upto 0 64).foldl (fun (st : Nat × Option (Nat × Nat)) i =>
    match st with
    | (_, some _) => st
    | (prev, none) =>
      if mask.getLsbD i then
        if above (lane va i) t then (prev, some (i, prev)) else (lane va i, none)
      else st) (0, none)
  match first.2 with
  | some (i, prev) =>
    let (c, fl) := subF fp32 t prev
    (c, i, fl &&& ~~~flagNAN)
  | none =>
    let last := (upto 0 64).foldl (fun (st : Nat × Nat) i =>
      if mask.getLsbD i then (lane va i, if above (lane va i) st.1 then i else st.2) else st) (0, 0xFFFFFFFF)
    (0, last.2, 0#6)

/-- ROTL32. -/
def rotl32 (x n : Nat) : Nat := x * 2 ^ n % 2 ^ 32 + x / 2 ^ (32 - n)

/-- One round of GEN10 (R402): counter words and key words. -/
def genRound (st : (Nat × Nat × Nat × Nat) × Nat × Nat) : (Nat × Nat × Nat × Nat) × Nat × Nat :=
  let ((c0, c1, c2, c3), k0, k1) := st
  let p0 := c0 * 0xB5297A4D
  let p1 := c2 * 0x68E31DA5
  (((p1 / 2 ^ 32) ^^^ c1 ^^^ k0, rotl32 (p1 % 2 ^ 32) 5, (p0 / 2 ^ 32) ^^^ c3 ^^^ k1, rotl32 (p0 % 2 ^ 32) 11),
    (k0 + 0x7F4A7C15) % 2 ^ 32, (k1 + 0x3C6EF373) % 2 ^ 32)

/-- GEN10 of a 128-bit counter and its key (R402). -/
def gen10 (c k0 k1 : Nat) : Nat :=
  (iter genRound 10 ((c % 2 ^ 32, c / 2 ^ 32 % 2 ^ 32, c / 2 ^ 64 % 2 ^ 32, c / 2 ^ 96 % 2 ^ 32), k0, k1)).1.1

/-- The draw of lane i: B, K0 and K1 from G[b] to G[b + 2], b = 4 × its field (R142). -/
def drawLane (u : Unit) (b : BitVec 3) (i : Nat) : Nat :=
  let r := 4 * b.toNat
  let c := ((gNat u (r + 1)).toNat * 2 ^ 64 + (gNat u r).toNat + i) % 2 ^ 128
  gen10 c (fld (gNat u (r + 2)) 0 32) (fld (gNat u (r + 2)) 32 32)

/-- VBCAST's value of T (R143). -/
def spread (t : BitVec 2) (x : Nat) : Nat :=
  match t.toNat with
  | 0 => x % 2 ^ 32
  | 1 => x % 2 ^ 16 * 0x10001
  | _ => x % 2 ^ 8 * 0x1010101

/-- Lane numbers with set mask bits first (R144). -/
def partitionOrder (mask : W64) : List Nat :=
  (upto 0 64).filter (fun i => mask.getLsbD i) ++ (upto 0 64).filter (fun i => !mask.getLsbD i)

/-- The position of lane i in that order (R144). -/
def partitionPlace (mask : W64) (i : Nat) : Nat :=
  let below := ((upto 0 i).filter fun k => mask.getLsbD k).length
  if mask.getLsbD i then below else onesOf mask + (i - below)

/-- Whether ACCEPT rejects a lane (R149): the product u × q is exact. -/
def rejects (p q u : Num) : Bool :=
  if p.isNan || q.isNan || u.isNan then true
  else if cmpNum q (.fin false 0 0) ≤ 0 then true
  else
    match mulNum u q with
    | (_, true) => true
    | (x, false) => cmpNum x p > 0

/-- ACCEPT (R149): accepted count, rejection, and NANSEEN of the lanes read. -/
def acceptRow (mask : W64) (va vb vd : VReg) : Nat × Nat × BitVec 6 :=
  go 64 0 0#6
where
  go : Nat → Nat → BitVec 6 → Nat × Nat × BitVec 6
    | 0, _, fl => (64, 0, fl)
    | fuel + 1, i, fl =>
      if !mask.getLsbD i then (i, 0, fl)
      else
        let p := num32 (lane va i)
        let q := num32 (lane vb i)
        let u := num32 (lane vd i)
        let fl := fl ||| nanSeen [p, q, u]
        if rejects p q u then (i, 1, fl) else go fuel (i + 1) fl

end Sys2Proof.Machine
end

