-- ==== Sys2Proof/Machine/LocalMem.lean ====
section
/-! DEFINITION. Local loads and stores of the scalar and vector slots (R82 to R84, R145 to R147). A local access performs
when its bundle issues; local writes of a bundle follow its local reads (R84, R259). -/

namespace Sys2Proof.Machine

/-- Bytes of a size code (R21). -/
def sizeBytes (z : BitVec 2) : Nat := 2 ^ z.toNat

/-- The trap of a local access of n bytes at a (R83): the address and its own bank first, then the alignment; an aligned
access lies in one bank. -/
def localTrap (banks : BitVec 16) (a : W64) (n : Nat) : Option Nat :=
  if !padOk banks a.toNat 1 then some 0x17
  else if a.toNat % n != 0 then some 0x18
  else none

/-- The trap of a local access all of whose n bytes must lie in allotted banks (R146, R193): their banks first, then the alignment. -/
def bytesTrap (banks : BitVec 16) (a : W64) (n : Nat) : Option Nat :=
  if !padOk banks a.toNat n then some 0x17
  else if a.toNat % n != 0 then some 0x18
  else none

/-- LDL Gd, [Ga + off] (R82). -/
def slotLdl (d a : BitVec 6) (_c : BitVec 4) (z : BitVec 2) (g : BitVec 4) (x : Option Limm) (s : State) : SlotAnswer :=
  guarded g s fun s =>
    let va := addrOf s.unit a x
    match localTrap s.unit.pad.banks va (sizeBytes z) with
    | some cause => .trap cause 0#12
    | none => .go (pushG s 6 d (w64 (padRead s.unit.pad va.toNat (sizeBytes z))))

def execLdl (d a : BitVec 6) (c : BitVec 4) (z : BitVec 2) (g : BitVec 4) (x : Option Limm) (s : State) :
    Host.Outcome State Fault Refusal :=
  issueOne false false (wordsOf x) false (slotLdl d a c z g x) s

/-- STL Gd, [Ga + off] (R82): the low size bytes of G[D]. -/
def slotStl (d a : BitVec 6) (_c : BitVec 4) (z : BitVec 2) (g : BitVec 4) (x : Option Limm) (s : State) : SlotAnswer :=
  guarded g s fun s =>
    let va := addrOf s.unit a x
    match localTrap s.unit.pad.banks va (sizeBytes z) with
    | some cause => .trap cause 0#12
    | none => .go (s.mapUnit fun u => { u with pad := padWrite u.pad va.toNat (sizeBytes z) (gReg u d).toNat })

def execStl (d a : BitVec 6) (c : BitVec 4) (z : BitVec 2) (g : BitVec 4) (x : Option Limm) (s : State) :
    Host.Outcome State Fault Refusal :=
  issueOne false true (wordsOf x) false (slotStl d a c z g x) s

/-- The enabled lanes with the address of each one's word. -/
def laneAddrs (mask : W64) (addr : Nat → W64) : List (Nat × W64) :=
  (upto 0 64).filterMap fun i => if mask.getLsbD i then some (i, addr i) else none

/-- The trap of a vector local access: the lower cause over the enabled lanes (R146). -/
def vectorTrap (banks : BitVec 16) (las : List (Nat × W64)) : Option Nat :=
  if las.any fun la => bytesTrap banks la.2 4 == some 0x17 then some 0x17
  else if las.any fun la => bytesTrap banks la.2 4 == some 0x18 then some 0x18
  else none

/-- Address of lane i from a base: G[b] + off + 4i (R145). -/
def rowAddr (u : Unit) (b : BitVec 5) (x : Option Limm) (i : Nat) : W64 := addrOf u (b.setWidth 6) x + w64 (4 * i)

/-- Address of lane i from an index register: G[b] + off + ZEXT64(Va[i]) (R145). -/
def indexAddr (u : Unit) (b a : BitVec 5) (x : Option Limm) (i : Nat) : W64 :=
  addrOf u (b.setWidth 6) x + w64 (lane (vReg u a) i)

/-- A vector local load (R145 to R147). -/
def vectorLoad (d : BitVec 5) (m : BitVec 3) (z : Bool) (lat : Nat) (addr : Nat → W64) (s : State) : SlotAnswer :=
  match vectorTrap s.unit.pad.banks (laneAddrs (mReg s.unit m) addr) with
  | some cause => .trap cause 0#12
  | none => lanes d m z lat (fun i => (padRead s.unit.pad (addr i).toNat 4, 0#6)) s

/-- A vector local store: lanes in ascending order, so the higher lane stands where two name one word (R147). -/
def vectorStore (v : BitVec 5) (m : BitVec 3) (addr : Nat → W64) (s : State) : SlotAnswer :=
  let las := laneAddrs (mReg s.unit m) addr
  match vectorTrap s.unit.pad.banks las with
  | some cause => .trap cause 0#12
  | none =>
    .go (s.mapUnit fun u =>
      { u with pad := las.foldl (fun p la => padWrite p la.2.toNat 4 (lane (vReg u v) la.1)) u.pad })

/-- VLDL (R145). -/
def slotVldl (d : BitVec 5) (_c : BitVec 4) (b : BitVec 5) (m : BitVec 3) (z : Bool) (x : Option Limm) (s : State) : SlotAnswer :=
  vectorLoad d m z 6 (rowAddr s.unit b x) s

def execVldl (d : BitVec 5) (c : BitVec 4) (b : BitVec 5) (m : BitVec 3) (z : Bool) (x : Option Limm) (s : State) :
    Host.Outcome State Fault Refusal :=
  issueOne false false (wordsOf x) false (slotVldl d c b m z x) s

/-- VSTL (R145). -/
def slotVstl (d : BitVec 5) (_c : BitVec 4) (b : BitVec 5) (m : BitVec 3) (x : Option Limm) (s : State) : SlotAnswer :=
  vectorStore d m (rowAddr s.unit b x) s

def execVstl (d : BitVec 5) (c : BitVec 4) (b : BitVec 5) (m : BitVec 3) (x : Option Limm) (s : State) :
    Host.Outcome State Fault Refusal :=
  issueOne false true (wordsOf x) false (slotVstl d c b m x) s

/-- VGATH (R145). -/
def slotVgath (d a b : BitVec 5) (m : BitVec 3) (z : Bool) (x : Option Limm) (s : State) : SlotAnswer :=
  vectorLoad d m z 8 (indexAddr s.unit b a x) s

def execVgath (d a b : BitVec 5) (m : BitVec 3) (z : Bool) (x : Option Limm) (s : State) : Host.Outcome State Fault Refusal :=
  issueOne false false (wordsOf x) false (slotVgath d a b m z x) s

/-- VSCAT (R145). -/
def slotVscat (d a b : BitVec 5) (m : BitVec 3) (x : Option Limm) (s : State) : SlotAnswer :=
  vectorStore d m (indexAddr s.unit b a x) s

def execVscat (d a b : BitVec 5) (m : BitVec 3) (x : Option Limm) (s : State) : Host.Outcome State Fault Refusal :=
  issueOne false true (wordsOf x) false (slotVscat d a b m x) s

end Sys2Proof.Machine
end

