-- ==== Sys2Proof/Machine/Mesh.lean ====
section
/-! DEFINITION. The slot tables of a cluster mesh and what they reach (R296 to R298). -/

namespace Sys2Proof.Machine

/-- The entry of logical core c in slot s (R296); a core whose table is not given has every entry 0 (R297). -/
def slotEntry (tables : SMap (List W16)) (c s : Nat) : W16 := nth ((mget tables c).getD []) (s % 32) 0#16

/-- The output fields of an entry as (output, input): 1 N, 2 E, 3 S, 4 W, 5 L. -/
def entryFields (e : W16) : List (Nat × Nat) :=
  [(1, e.toNat / 4096 % 8), (2, e.toNat / 512 % 8), (3, e.toNat / 64 % 8), (4, e.toNat / 8 % 8), (5, e.toNat % 8)]

/-- The router an output of core c leads to and the input it arrives on there (R296). -/
def neighbour (c out : Nat) : Option (Nat × Nat) :=
  match out with
  | 1 => if 4 ≤ c then some (c - 4, 3) else none
  | 2 => if c % 4 < 3 then some (c + 1, 4) else none
  | 3 => if c + 4 < 16 then some (c + 4, 1) else none
  | 4 => if 0 < c % 4 then some (c - 1, 2) else none
  | _ => none

/-- Whether a table is legal for its core: no reserved code, no bit 15, no output that leaves the mesh (R297). -/
def slotTableOk (c : Nat) (es : List W16) : Bool :=
  es.all fun e =>
    !e.msb && (entryFields e).all fun (out, inp) => inp < 6 && (inp == 0 || out == 5 || (neighbour c out).isSome)

/-- One slot of flits on their way: the cores at which they are ejected, and where they are in the next slot. -/
def meshHop (tables : SMap (List W16)) (s : Nat) (flits : List (Nat × Nat)) : Nat × List (Nat × Nat) :=
  flits.foldl (fun (cores, next) (c, inp) =>
    (entryFields (slotEntry tables c s)).foldl (fun (cores, next) (out, i) =>
      if i != inp then (cores, next)
      else if out == 5 then (cores ||| 2 ^ c, next)
      else
        match neighbour c out with
        | some n => (cores, next ++ [n])
        | none => (cores, next)) (cores, next)) (0, [])

/-- The cores reached by flits in flight, following the tables from slot to slot. fuel: the (core, input, slot) triples. -/
def reachFrom (tables : SMap (List W16)) : Nat → Nat → List (Nat × Nat) → Nat
  | 0, _, _ => 0
  | _, _, [] => 0
  | fuel + 1, s, flits =>
    let (cores, next) := meshHop tables s flits
    cores ||| reachFrom tables fuel (s + 1) next

/-- Reach(c, s) as a mask of logical cores (R298). -/
def reach (tables : SMap (List W16)) (c s : Nat) : Nat := reachFrom tables 2560 s [(c, 5)]

/-- Whether some slot of core c reaches exactly the cores of d (R298). -/
def slotReaching (tables : SMap (List W16)) (c : Nat) (d : Nat → Bool) : Bool := (upto 0 32).any fun s => d (reach tables c s)

/-- Cores in a mask. -/
def maskCount (m : Nat) : Nat := ((upto 0 16).filter fun i => m.testBit i).length

end Sys2Proof.Machine
end

