-- ==== Sys2Proof/Machine/Matrix.lean ====
section
/-! DEFINITION. The matrix array: beats, slices, feeders, row actions, and the edge latches (R166 to R196). -/

namespace Sys2Proof.Machine

/-! ### Formats (R85, R171 to R173) -/

/-- XVAL of a format register value (R156). -/
def xvalOf (w : W64) : Nat := fld w 48 8

/-- The float group of R172. -/
def floatGroup (f : Nat) : Bool := 1 ≤ f && f ≤ 9

/-- Bytes of a panel (R171). -/
def panelBytes (f : Nat) : Nat := 256 * fmtBits f

/-- Whether formats and mode form a pair of R172. -/
def pairOk (c : MatCfg) (w n : Nat) : Bool :=
  (fmtAsym w && fmtAsym n) || (if c.integer then w == 9 && n == 9 else floatGroup w && floatGroup n)

/-- The format register of the bank that holds local address a. -/
def bankFmt (p : Pad) (a : Nat) : W64 := nth p.fmt.toList (a / Config.bankBytes) 0#64

/-! ### One slice at one PE (R108 to R110, R168, R173, R187) -/

/-- Entry l of a latch row. -/
def latchScale (l : Latches) (i : Nat) : Nat := l.scale.toNat / 2 ^ (16 * i) % 65536
def latchZp (l : Latches) (i : Nat) : Nat := l.zp.toNat / 2 ^ (8 * i) % 256

/-- An operand of float mode: the decoded element times the factor of its latch (R173). -/
def operandNum (fmt : W64) (lat : Latches) (i : Nat) (c : W16) : Num :=
  if fmtMx (fmtOf fmt) then decodeMx (fmtOf fmt) (xvalOf fmt) c.toNat (latchScale lat i % 256)
  else decodeElem (fmtOf fmt) (xvalOf fmt) c.toNat

/-- The accumulator after a slice's products in float mode (R108). -/
def floatBeat (sl : Slice) (i j acc : Nat) (a b : List W16) : Nat :=
  rne32 (((a.zip b).foldl (fun t e =>
    (addNum t (mulNum (operandNum sl.fmtW sl.sw i e.1) (operandNum sl.fmtN sl.sn j e.2)).1).1) (num32 acc)))

/-- The accumulator after a slice's products with MXINT8 in integer mode (R109). -/
def intBeat (acc : Nat) (a b : List W16) : Nat :=
  loBits ((a.zip b).foldl (fun (t : Int) e => t + sint 8 e.1.toNat * sint 8 e.2.toNat) acc) 32

/-- Group state after a slice (R187). -/
def groupBeat (g : GroupAcc) (a b : List W16) : GroupAcc :=
  (a.zip b).foldl (fun g e =>
    { ab := g.ab + BitVec.ofNat 32 (e.1.toNat * e.2.toNat), a := g.a + BitVec.ofNat 32 e.1.toNat
      b := g.b + BitVec.ofNat 32 e.2.toNat }) g

/-- The accumulator after the last beat of a group of n elements (R110). -/
def groupEnd (sl : Slice) (i j acc : Nat) (g : GroupAcc) : Nat :=
  let za := (latchZp sl.sw i : Int)
  let zb := (latchZp sl.sn j : Int)
  let v : Int := g.ab.toInt - zb * g.a.toInt - za * g.b.toInt + sl.groupN * za * zb
  if sl.cfg.integer then loBits (acc + v) 32
  else
    let s := rne32 (mulNum (decodeF fp16 (latchScale sl.sw i)) (decodeF fp16 (latchScale sl.sn j))).1
    rne32 (addNum (num32 acc) (mulNum (num32 s) (intNum v)).1).1

/-- The key of a PE's group state. -/
def peKey (plane : Bool) (i j : Nat) : Nat := 4096 * bit01 plane + 64 * i + j

/-- Plane number as an index. -/
def planeIx (p : Bool) : Fin 2 := if p then 1 else 0

/-- Row i of a plane. -/
def planeRow (m : Matrix) (p : Bool) (i : Nat) : VReg := nth (m.planes[planeIx p]).toList i 0#2048

def setPlaneRow (m : Matrix) (p : Bool) (i : Nat) (v : VReg) : Matrix :=
  { m with planes := m.planes.set (planeIx p) ((m.planes[planeIx p]).setIfInBounds i v) }

/-- A row with lane j replaced. -/
def setLane (v : VReg) (j x : Nat) : VReg :=
  (v &&& ~~~BitVec.ofNat 2048 (0xFFFFFFFF * 2 ^ (32 * j))) ||| BitVec.ofNat 2048 (x % 2 ^ 32 * 2 ^ (32 * j))

/-- A slice reaches PE(i, j). -/
def peBeat (m : Matrix) (sl : Slice) (i j : Nat) : Matrix :=
  if !(sl.cfg.rows.getLsbD i && sl.cfg.cols.getLsbD j) then m
  else
    let row := planeRow m sl.plane i
    let acc := lane row j
    let a := nth sl.west i []
    let b := nth sl.north j []
    if fmtAsym (fmtOf sl.fmtW) then
      let key := peKey sl.plane i j
      let g := groupBeat ((mget m.group key).getD ⟨0#32, 0#32, 0#32⟩) a b
      if sl.groupN == 0 then { m with group := if g == ⟨0#32, 0#32, 0#32⟩ then mdel m.group key else mset m.group key g }
      else setPlaneRow { m with group := mdel m.group key } sl.plane i (setLane row j (groupEnd sl i j acc g))
    else
      setPlaneRow m sl.plane i
        (setLane row j (if sl.cfg.integer then intBeat acc a b else floatBeat sl i j acc a b))

/-- A slice on its diagonal: it reaches every PE(i, j) with i + j = its age (R167). -/
def sliceBeat (m : Matrix) (sl : Slice) : Matrix :=
  (upto 0 64).foldl (fun m i => if i ≤ sl.age && sl.age - i < 64 then peBeat m sl i (sl.age - i) else m) m

/-- One beat: slices in flight move on, one may enter, and every slice contributes where it is (R166 to R168). -/
def beat (m : Matrix) (new : Option Slice) : Matrix :=
  let old := (m.slices.map fun sl => { sl with age := sl.age + 1 }).filter (·.age ≤ 126)
  let all := old ++ new.toList
  all.foldl sliceBeat { m with slices := all }

def mapMx (s : State) (f : Matrix → Matrix) : State := s.mapUnit fun u => { u with mx := f u.mx }

/-! ### Feeders (R174 to R179) -/

def feederOf (u : Unit) (north : Bool) : Feeder := if north then u.mx.north else u.mx.west

def setFeeder (u : Unit) (north : Bool) (f : Feeder) : Unit :=
  if north then { u with mx.north := f } else { u with mx.west := f }

/-- Whether a feeder has a slice (R175 to R177). -/
def feederReady (u : Unit) (f : Feeder) : Bool :=
  match f.src with
  | none => false
  | some (.mesh _) => !f.landing.isEmpty
  | some _ =>
    match feederRing f with
    | none => false
    | some q =>
      match ringAt u.pad (BitVec.ofNat 6 q) with
      | none => false
      | some r => 0 < r.dist r.head (shownTail u (BitVec.ofNat 6 q) r)

/-- Element e of a packed row of b-bit elements (R86), as an element code. -/
def elemCode (row b e : Nat) : W16 := w16 (row / 2 ^ (b * e) % 2 ^ b)

/-- Element e of lane l, in lanes of n elements. Past the lane's end, which only a change of k within a panel reaches, it is a free value
that depends on no other lane (R411, log 74). -/
def laneElem (row b n l e : Nat) : W16 :=
  if e < n then elemCode row b (n * l + e) else w16 ((Config.pastLane (row / 2 ^ (b * n * l) % 2 ^ (b * n)) e).toNat % 2 ^ b)

/-- A feeder's ring after the last slice of its slot has been pushed (R175): freed like QREL; a hidden ring's slot is freed at once. -/
def freeTaken (u : Unit) (f : Feeder) (q : BitVec 6) (r : Ring) : Unit :=
  match f.src with
  | some (.ring _) => unitRelease u q r (r.free 1) true r.head
  | _ => { u with pad := setRing u.pad q (some (r.free 1)) }

/-- The next k elements of K of each lane, and the feeder and its ring after they are taken (R170, R171, R175): the
codes by lane, the unit, and the scope acquired where a slot of a ring has been taken. -/
def takeSlice (u : Unit) (north : Bool) (k : Nat) : List (List W16) × Unit × Nat :=
  let f := feederOf u north
  let b := fmtBits (fmtOf f.fmt)
  match f.src with
  | some (.mesh _) =>
    let d := beatDepth (fmtOf f.fmt)
    let row := (nth f.landing 0 0#1024).toNat
    let codes := (upto 0 64).map fun l => (upto 0 k).map fun t => laneElem row b d l (f.pos + t)
    let f' := if d ≤ f.pos + k then { f with landing := f.landing.tail, pos := 0 } else { f with pos := f.pos + k }
    (codes, setFeeder u north f', 0)
  | _ =>
    match feederRing f with
    | none => ([], u, 0)
    | some qn =>
      let q := BitVec.ofNat 6 qn
      match ringAt u.pad q with
      | none => ([], u, 0)
      | some r =>
        let row := padRead u.pad (r.addr r.head) (panelBytes (fmtOf f.fmt))
        let codes := (upto 0 64).map fun l => (upto 0 k).map fun t => laneElem row b 32 l (f.pos + t)
        let scope := if f.open_ then 0 else r.scope
        if 32 ≤ f.pos + k then
          (codes, setFeeder (freeTaken u f q r) north
            { f with open_ := false, pos := 0, used := f.used + 1 }, scope)
        else (codes, setFeeder u north { f with open_ := true, pos := f.pos + k }, scope)

/-- The position of a push in its group: the group length where it is the last beat of one, else 0, and the positions
after it (R187). Every push of the plane counts, and a position at or past n / k ends the group (log 75). -/
def groupPush (m : Matrix) (p : Bool) (k : Nat) : Nat × Vector Nat 2 :=
  let n := min (gsize m.cfg.ga.toNat) (gsize m.cfg.gb.toNat)
  let pos := m.gpos[planeIx p]
  if n / k ≤ pos + 1 then (n, m.gpos.set (planeIx p) 0) else (0, m.gpos.set (planeIx p) (pos + 1))

/-- The push itself: both slices are taken and injected (R167, R181). -/
def pushSlices (s : State) (p : Bool) : State :=
  let u := s.unit
  let fw := u.mx.west
  let fn := u.mx.north
  let k := min (beatDepth (fmtOf fw.fmt)) (beatDepth (fmtOf fn.fmt))
  let (west, u, sc1) := takeSlice u false k
  let (north, u, sc2) := takeSlice u true k
  let (groupN, gpos) := groupPush u.mx p k
  let sl : Slice :=
    { age := 0, plane := p, k := k, cfg := u.mx.cfg, fmtW := fw.fmt, fmtN := fn.fmt, west := west, north := north
      sw := u.mx.sw, sn := u.mx.sn, groupN := groupN }
  acquire { s with unit := { u with mx := beat { u.mx with gpos := gpos } (some sl) } } (max sc1 sc2)

/-- MPUSH PLn (R181). -/
def slotMpush (p : Bool) (g : BitVec 4) (s : State) : SlotAnswer :=
  guarded g s fun s =>
    let u := s.unit
    let fw := u.mx.west
    let fn := u.mx.north
    if fw.src.isNone || fn.src.isNone || !pairOk u.mx.cfg (fmtOf fw.fmt) (fmtOf fn.fmt) then .trap 0x1A 0#12
    else
      let missW := !feederReady u fw
      let missN := !feederReady u fn
      if missW || missN then
        match oldestDeferred u fun d => (missW && d.cls == 3 && d.bind == fw.bind) || (missN && d.cls == 4 && d.bind == fn.bind) with
        | some d => takeDeferred s d
        | none => .block
      else .go (pushSlices s p)

def execMpush (p : Bool) (g : BitVec 4) (s : State) : Host.Outcome State Fault Refusal :=
  issueOne false false 1 true (slotMpush p g) s

/-- MSHIFT (R182): the beat alone. -/
def slotMshift (g : BitVec 4) (s : State) : SlotAnswer := guarded g s fun s => .go (mapMx s fun m => beat m none)

def execMshift (g : BitVec 4) (s : State) : Host.Outcome State Fault Refusal := issueOne false false 1 false (slotMshift g) s

/-- The row at the row pointer after a row action: its new words, its group state cleared, the pointer advanced (R183). -/
def rowAction (m : Matrix) (p : Bool) (v : VReg) : Matrix :=
  let row := (m.rp[planeIx p]).toNat
  let m := setPlaneRow m p row v
  { m with
    group := mclear m.group (peKey p row 0) (peKey p row 0 + 64)
    rp := m.rp.set (planeIx p) (m.rp[planeIx p] + 1) }

/-- MPRELD PLn, Va (R183). -/
def slotMpreld (p : Bool) (v : BitVec 5) (g : BitVec 4) (s : State) : SlotAnswer :=
  guarded g s fun s => .go (mapMx s fun m => rowAction (beat m none) p (vReg s.unit v))

def execMpreld (p : Bool) (v : BitVec 5) (g : BitVec 4) (s : State) : Host.Outcome State Fault Refusal :=
  issueOne false false 1 false (slotMpreld p v g) s

/-- MDRAIN PLn, Vd (R183): the row lands in Vd after 4 and becomes +0. -/
def slotMdrain (p : Bool) (v : BitVec 5) (g : BitVec 4) (s : State) : SlotAnswer :=
  guarded g s fun s =>
    let m := beat s.unit.mx none
    let row := planeRow m p (m.rp[planeIx p]).toNat
    .go (s.mapUnit fun u => push { u with mx := rowAction m p 0#2048 } 4 (.v v (BitVec.allOnes 2048) row) 0#6)

def execMdrain (p : Bool) (v : BitVec 5) (g : BitVec 4) (s : State) : Host.Outcome State Fault Refusal :=
  issueOne false false 1 false (slotMdrain p v g) s

/-- A plane cleared (R183). -/
def zeroPlane (m : Matrix) (p : Bool) : Matrix :=
  { m with
    planes := m.planes.set (planeIx p) (Vector.replicate 64 0#2048)
    group := mclear m.group (peKey p 0 0) (peKey p 0 0 + 4096)
    gpos := m.gpos.set (planeIx p) 0
    rp := m.rp.set (planeIx p) 0#6 }

/-- MZERO PLn (R183, R187). -/
def slotMzero (p : Bool) (g : BitVec 4) (s : State) : SlotAnswer :=
  guarded g s fun s => .go (mapMx s fun m => zeroPlane (beat m none) p)

def execMzero (p : Bool) (g : BitVec 4) (s : State) : Host.Outcome State Fault Refusal :=
  issueOne false false 1 false (slotMzero p g) s

/-- The configuration of a word and its masks (R185); none where the word is invalid. -/
def matCfg (w rows cols : W64) : Option MatCfg :=
  if fld w 6 58 != 0 || fbit w 1 || fld w 2 2 == 3 || fld w 4 2 == 3 then none
  else some ⟨fbit w 0, BitVec.ofNat 2 (fld w 2 2), BitVec.ofNat 2 (fld w 4 2), rows, cols⟩

/-- MCFG Gn (R185): G0 selects the reset configuration. -/
def slotMcfg (n : BitVec 6) (g : BitVec 4) (s : State) : SlotAnswer :=
  guarded g s fun s =>
    let go := fun c => SlotAnswer.go (s.mapUnit fun u => push { u with mx := beat u.mx none } 1 (.mcfg c) 0#6)
    if n == 0#6 then go .reset
    else
      match matCfg (gReg s.unit n) (gNat s.unit (n.toNat + 1)) (gNat s.unit (n.toNat + 2)) with
      | none => .trap 0x1D 0#12
      | some c => go c

def execMcfg (n : BitVec 6) (g : BitVec 4) (s : State) : Host.Outcome State Fault Refusal :=
  issueOne false false 1 false (slotMcfg n g) s

/-- The format of a feeder ring where the ring may serve one (R178): the bank's register, or none. -/
def feedFormat (p : Pad) (q : BitVec 6) : Option W64 :=
  match ringAt p q with
  | none => none
  | some r =>
    let w := bankFmt p r.base
    if !(floatGroup (fmtOf w) || fmtAsym (fmtOf w)) || r.size < panelBytes (fmtOf w) || r.cons == 1 || r.perm.testBit 16 then none
    else some w

/-- A binding lands with the next issue cycle (R174); its beat moves the array. -/
def bindLater (s : State) (north : Bool) (src : FeedSrc) (fmt : W64) : SlotAnswer :=
  .go (s.mapUnit fun u =>
    push { u with mx := beat u.mx none } 1 (.feeder north { Feeder.unbound with src := some src, fmt := fmt }) 0#6)

/-- MFEED FW / FN, Qn (R174, R175). -/
def slotMfeedRing (f : Bool) (n : BitVec 6) (g : BitVec 4) (s : State) : SlotAnswer :=
  guarded g s fun s =>
    match feedFormat s.unit.pad n with
    | none => .trap 0x1B 0#12
    | some w =>
      if boundRing s.unit (feederOf s.unit !f) == some n.toNat then .trap 0x1B 0#12 else bindLater s f (.ring n) w

def execMfeedRing (f : Bool) (n : BitVec 6) (g : BitVec 4) (s : State) : Host.Outcome State Fault Refusal :=
  issueOne false false 1 false (slotMfeedRing f n g) s

/-- The scratchpad of logical core c of the gang, where the model holds it (log 1). -/
def padOf (s : State) (c : Nat) : Option Pad := if c == s.unit.cr.lcore.toNat then some s.unit.pad else mget s.peers c

/-- Whether the other feeder is already bound to the ring of a remote descriptor, not as a member of its group (R176, R178). -/
def meshTaken (u : Unit) (north : Bool) (w : W64) : Bool :=
  let other := feederOf u !north
  match other.src with
  | some (.mesh v) => v.setWidth 10 == w.setWidth 10 && !sameGroup { Feeder.unbound with src := some (.mesh w) } other
  | _ => fld w 0 4 == u.cr.lcore.toNat && feederRing other == some (fld w 4 6)

/-- MFEED FW / FN, MESH, Gn (R176). -/
def slotMfeedMesh (f : Bool) (n : BitVec 6) (g : BitVec 4) (s : State) : SlotAnswer :=
  guarded g s fun s =>
    let w := gReg s.unit n
    if fld w 20 44 != 0 || fld w 10 2 != 0 || !inGang s.unit (fld w 0 4) || meshTaken s.unit f w then .trap 0x1B 0#12
    else
      match (padOf s (fld w 0 4)).bind fun p => feedFormat p (BitVec.ofNat 6 (fld w 4 6)) with
      | none => .trap 0x1B 0#12
      | some fmt => bindLater s f (.mesh w) fmt

def execMfeedMesh (f : Bool) (n : BitVec 6) (g : BitVec 4) (s : State) : Host.Outcome State Fault Refusal :=
  issueOne false false 1 false (slotMfeedMesh f n g) s

/-- MFEED FW / FN, HANDLE, Gn (R177). -/
def slotMfeedHandle (f : Bool) (n : BitVec 6) (g : BitVec 4) (s : State) : SlotAnswer :=
  guarded g s fun s =>
    let w := gReg s.unit n
    let q := BitVec.ofNat 6 (fld w 16 6)
    if n.toNat % 2 == 1 || fld w 22 10 != 0 || fld w 32 32 == 0 then .trap 0x1B 0#12
    else
      match feedFormat s.unit.pad q with
      | none => .trap 0x1B 0#12
      | some fmt =>
        if boundRing s.unit (feederOf s.unit !f) == some q.toNat then .trap 0x1B 0#12
        else bindLater s f (.handle w (gNat s.unit (n.toNat + 1))) fmt

def execMfeedHandle (f : Bool) (n : BitVec 6) (g : BitVec 4) (s : State) : Host.Outcome State Fault Refusal :=
  issueOne false false 1 false (slotMfeedHandle f n g) s

/-! ### Remote slices (R176, R298) -/

/-- The mesh descriptor of a feeder bound through the mesh. -/
def meshDesc (f : Feeder) : Option W64 :=
  match f.src with
  | some (.mesh w) => some w
  | _ => none

/-- The feeders of this core that receive what a feeder receives: itself, and the other one when both are of one group. -/
def meshMembers (u : Unit) (north : Bool) : List Bool :=
  match meshDesc (feederOf u north), meshDesc (feederOf u !north) with
  | some w, some w' => if fld w 12 4 != 0 && w.setWidth 16 == w'.setWidth 16 then [north, !north] else [north]
  | some _, none => [north]
  | _, _ => []

/-- Whether the tables have a slot of the source core that reaches exactly the group's members, as far as this core knows
them: this core, whose members are here many, and other cores of the gang with MCNT + 1 − here feeders, one or two each (R176, R298). -/
def meshSlotFor (u : Unit) (w : W64) (here : Nat) : Bool :=
  let others := if fld w 12 4 == 0 then 0 else fld w 16 4 + 1 - here
  slotReaching u.launch.slots (fld w 0 4) fun m =>
    let n := maskCount m - 1
    m.testBit u.cr.lcore.toNat && n ≤ others && others ≤ 2 * n && ((upto 0 16).all fun c => !m.testBit c || inGang u c)

/-- The next slice of a ring of this core for a remote feeder: slice i of the panel in the head slot (R176). -/
def localFlit (u : Unit) (w : W64) (f : Feeder) : Option (BitVec 1024) :=
  let q := BitVec.ofNat 6 (fld w 4 6)
  match ringAt u.pad q with
  | none => none
  | some r =>
    if (shownRing u q r).filled == 0 then none
    else
      let b := fmtBits (fmtOf f.fmt)
      let d := beatDepth (fmtOf f.fmt)
      let row := padRead u.pad (r.addr r.head) (panelBytes (fmtOf f.fmt))
      let at_ := f.fetched % (32 / d) * d
      some ((upto 0 64).foldl (fun (v : BitVec 1024) l =>
        (upto 0 d).foldl (fun v t =>
          v ||| ((elemCode row b (32 * l + at_ + t)).setWidth 1024 <<< (b * (d * l + t)))) v) 0#1024)

/-- Slices land in the buffers of the feeders that receive them. -/
def landSlices (u : Unit) (members : List Bool) (xs : List (BitVec 1024)) : Unit :=
  members.foldl (fun u n =>
    let f := feederOf u n
    setFeeder u n { f with landing := f.landing ++ xs, fetched := f.fetched + xs.length }) u

/-- Whether a result is a binding of a feeder that is due (R174). -/
def bindDue (u : Unit) (l : Landing) : Bool :=
  l.due ≤ u.cyc && match l.dest with
    | .feeder _ _ => true
    | _ => false

/-- The slots of other cores' rings that this core counts as received are freed there (R179). -/
def freeLeft (s : State) : State :=
  { s with
    peers := s.unit.mx.left.foldl (fun ps w =>
      match mget ps (fld w 0 4) with
      | some p => mset ps (fld w 0 4) (modRing p (BitVec.ofNat 6 (fld w 4 6)) fun r => r.free (min 1 r.filled))
      | none => ps) s.peers
    unit := { s.unit with mx.left := [] } }

/-- Bindings that are due take effect, also while the bundle that follows stalls (R174, log 80). -/
def landBinds (s : State) : State :=
  freeLeft
    (landAll (s.mapUnit fun u => { u with landing := u.landing.filter fun l => !bindDue u l }) (s.unit.landing.filter (bindDue s.unit)))

/-- Slots of the source ring that the n slices after the first f complete. -/
def slotsPassed (fmt : W64) (f n : Nat) : Nat :=
  let d := 32 / beatDepth (fmtOf fmt)
  (f + n) / d - f / d

/-- A group that has members on other cores alone has received every slice of the head slot of ring q of this core: the slot is freed
(R176, log 1). -/
def freeAway (s : State) (q : BitVec 6) : State :=
  let u := s.unit
  match ringAt u.pad q with
  | none => s
  | some r =>
    if (shownRing u q r).filled == 0 || boundRing u u.mx.west == some q.toNat || boundRing u u.mx.north == some q.toNat then s
    else s.mapUnit fun u => { u with pad := modRing u.pad q fun r => r.free 1 }

/-- A flit of a remote feeder arrives in a slot that reaches its group (R176, R298): from a ring of this core, or with the
slices that another core sends. The source slot is freed after its last slice; away: that of a ring of this core which feeders of other
cores alone take. -/
def execMeshFlitInject (north : Bool) (flits : MeshFlits) (s : State) : Host.Outcome State Fault Refusal :=
  let s := landBinds s
  let u := s.unit
  let f := feederOf u north
  let members := meshMembers u north
  .next
    (match flits, meshDesc f with
    | .away q, _ => freeAway s q
    | .slices _, none => s
    | .slices slices, some w =>
      let free := members.foldl (fun n m => min n (4 - (feederOf u m).landing.length)) 4
      if free == 0 || !meshSlotFor u w members.length then s
      else if fld w 0 4 == u.cr.lcore.toNat then
        match localFlit u w f with
        | none => s
        | some x =>
          s.mapUnit fun u =>
            let u := landSlices u members [x]
            if slotsPassed f.fmt f.fetched 1 == 1 then
              { u with pad := modRing u.pad (BitVec.ofNat 6 (fld w 4 6)) fun r => r.free 1 }
            else u
      else
        let xs := slices.take free
        let s := s.mapUnit fun u => landSlices u members xs
        match mget s.peers (fld w 0 4) with
        | some p =>
          { s with
            peers := mset s.peers (fld w 0 4)
              (modRing p (BitVec.ofNat 6 (fld w 4 6)) fun r => r.free (min r.filled (slotsPassed f.fmt f.fetched xs.length))) }
        | none => s)

/-! ### Edge latches (R188 to R193) -/

/-- Sixty-four entries packed at w bits each. -/
def packEntries (w : Nat) (f : Nat → Nat) : Nat := (upto 0 64).foldl (fun v l => v + f l % 2 ^ w * 2 ^ (w * l)) 0

/-- A latch write of a scale slot governs pushes from the third issue cycle on (R190). -/
def pushLatch (s : State) (north : Bool) (sb : BitVec 1024) (zb : BitVec 512) (d : Latches) : SlotAnswer :=
  .go (s.mapUnit fun u => push u 3 (.latch north sb zb d) 0#6)

/-- SLW and SLN (R192): the layout of the bank that holds the address. -/
def loadLatches (north : Bool) (a : BitVec 6) (x : Option Limm) (s : State) : SlotAnswer :=
  let va := addrOf s.unit a x
  let asym := va.toNat < Config.padBytes && fmtAsym (fmtOf (bankFmt s.unit.pad va.toNat))
  match bytesTrap s.unit.pad.banks va (if asym then 256 else 64) with
  | some cause => .trap cause 0#12
  | none =>
    let p := s.unit.pad
    if asym then
      pushLatch s north (BitVec.allOnes 1024) (BitVec.allOnes 512)
        ⟨BitVec.ofNat 1024 (packEntries 16 fun l => padRead p (va.toNat + 4 * l) 2),
          BitVec.ofNat 512 (packEntries 8 fun l => padRead p (va.toNat + 4 * l + 2) 1)⟩
    else
      pushLatch s north (BitVec.allOnes 1024) 0#512
        ⟨BitVec.ofNat 1024 (packEntries 16 fun l => padRead p (va.toNat + l) 1), 0#512⟩

/-- SLW [Ga + off] (R192). -/
def slotSlw (a : BitVec 6) (g : BitVec 4) (x : Option Limm) (s : State) : SlotAnswer := guarded g s (loadLatches false a x)

def execSlw (a : BitVec 6) (g : BitVec 4) (x : Option Limm) (s : State) : Host.Outcome State Fault Refusal :=
  issueOne false false (wordsOf x) false (slotSlw a g x) s

/-- SLN [Ga + off] (R192). -/
def slotSln (a : BitVec 6) (g : BitVec 4) (x : Option Limm) (s : State) : SlotAnswer := guarded g s (loadLatches true a x)

def execSln (a : BitVec 6) (g : BitVec 4) (x : Option Limm) (s : State) : Host.Outcome State Fault Refusal :=
  issueOne false false (wordsOf x) false (slotSln a g x) s

/-- SLZP.W and SLZP.N (R192): zero points only. -/
def slotSlzp (a : BitVec 6) (e : Bool) (g : BitVec 4) (x : Option Limm) (s : State) : SlotAnswer :=
  guarded g s fun s =>
    let va := addrOf s.unit a x
    match bytesTrap s.unit.pad.banks va 64 with
    | some cause => .trap cause 0#12
    | none =>
      pushLatch s e 0#1024 (BitVec.allOnes 512)
        ⟨0#1024, BitVec.ofNat 512 (packEntries 8 fun l => padRead s.unit.pad (va.toNat + l) 1)⟩

def execSlzp (a : BitVec 6) (e : Bool) (g : BitVec 4) (x : Option Limm) (s : State) : Host.Outcome State Fault Refusal :=
  issueOne false false (wordsOf x) false (slotSlzp a e g x) s

/-- SLSET.W and SLSET.N (R192): one latch. -/
def slotSlset (a : BitVec 6) (e : Bool) (i : BitVec 6) (g : BitVec 4) (s : State) : SlotAnswer :=
  guarded g s fun s =>
    let v := gReg s.unit a
    pushLatch s e (BitVec.ofNat 1024 (0xFFFF * 2 ^ (16 * i.toNat))) (BitVec.ofNat 512 (0xFF * 2 ^ (8 * i.toNat)))
      ⟨BitVec.ofNat 1024 (fld v 0 16 * 2 ^ (16 * i.toNat)), BitVec.ofNat 512 (fld v 16 8 * 2 ^ (8 * i.toNat))⟩

def execSlset (a : BitVec 6) (e : Bool) (i : BitVec 6) (g : BitVec 4) (s : State) : Host.Outcome State Fault Refusal :=
  issueOne false false 1 false (slotSlset a e i g) s

end Sys2Proof.Machine
end

