-- ==== Sys2Proof/Machine/Memory.lean ====
section
/-! DEFINITION. Main memory, the LLC of the slices, the L1, and the address hash (R260, R276 to R281, R292, R326, R328). -/

namespace Sys2Proof.Machine

/-! ### Homes (R278, R280) -/

/-- The home slice of an address (R278). -/
def homeSlice (va : Nat) : BitVec 6 :=
  (upto 0 7).foldl (fun (h : BitVec 6) j => h ^^^ BitVec.ofNat 6 (va % 2 ^ 52 / 2 ^ (12 + 6 * j))) 0#6

/-- Whether a physical address lies in a pinned frame. -/
def isPinned (s : State) (pa : Nat) : Bool := (mget s.pinned (pa / 4096)).isSome

/-- The home of an access that translates to pa: the slice of its VA, or a pinned frame's pin slice (R280). -/
def homeOf (s : State) (va pa : Nat) : BitVec 6 := if isPinned s pa then homeSlice pa else homeSlice va

/-! ### DRAM (R319, R328) -/

/-- The key of a partition. -/
def keyOf (s : State) (part : BitVec 4) : Nat := (mget s.pkg.keys part.toNat).getD 0

/-- A byte at the controllers read under a key: meaningless where its sector was written under another (R328), and where
there is no memory. A byte read twice under one count of free values is the same byte. -/
def dramByte (s : State) (key pa : Nat) : Byte :=
  if Config.mainBytes ≤ pa then Config.cipherByte (s.freeCtr * 2 ^ 60 + pa)
  else
    match mget s.dramKey (pa / 32) with
    | none => readByte s.dram pa
    | some k => if k == key then readByte s.dram pa else Config.cipherByte (s.freeCtr * 2 ^ 60 + pa)

/-- The sectors of n bytes from pa. -/
def sectorsOf (pa n : Nat) : List Nat := if n == 0 then [] else upto (pa / 32) ((pa + n - 1) / 32 - pa / 32 + 1)

/-- The first of some bytes' sectors whose bytes have an uncorrectable error (R489). -/
def badSector (s : State) (pa n : Nat) : Option Nat := (sectorsOf pa n).find? s.bad.contains

/-- A read on behalf of the modelled unit that met failing bytes: its job is to be cancelled (R489). -/
def meetBad (s : State) (sector : Nat) : State :=
  { s with owed := s.owed ++ [(s.unit.cr.part, s.unit.cr.job, sector)], freeCtr := s.freeCtr + 1 }

/-- The sectors of n bytes from pa that were written under another key than this one. -/
def foreignSectors (s : State) (key pa n : Nat) : List Nat :=
  (sectorsOf pa n).filter fun i => match mget s.dramKey i with
    | some k => k != key
    | none => false

/-- A sector whose bytes are to stand under a key from now on: under that key they read what they read before, meaningless (R328). -/
def rekeySector (s : State) (key sector : Nat) : State :=
  { s with dram := writeBytes s.dram (32 * sector) ((upto (32 * sector) 32).map (dramByte s key)) }

/-- Bytes written at the controllers under a key. The rest of a sector that stood under another key stays meaningless (R328). -/
def dramWrite (s : State) (key pa : Nat) (bs : List Byte) : State :=
  { s with
    dram := writeBytes ((foreignSectors s key pa bs.length).foldl (fun t i => rekeySector t key i) s).dram pa bs
    dramKey := (sectorsOf pa bs.length).foldl (fun m i => mset m i key) s.dramKey }

/-- An 8-byte entry read at the controllers (R319). -/
def dramRead8 (s : State) (key pa : Nat) : W64 := w64 (leNat ((upto 0 8).map fun i => dramByte s key (pa + i)))

/-! ### The LLC (R279, R280) -/

/-- A byte that the LLC holds valid; every byte of a pinned line is, 0x00 until it is written (R280). A frame has one copy of it, whatever
the mapping of a read (R322, log 92). -/
def llcByte (s : State) (pa : Nat) : Option Byte :=
  match mget s.llc (pa / 32) with
  | some sec => if sec.valid.getLsbD (pa % 32) then some (BitVec.ofNat 8 (sec.data.toNat / 2 ^ (8 * (pa % 32)))) else
      if isPinned s pa then some 0#8 else none
  | none => if isPinned s pa then some 0#8 else none

/-- A byte of memory as its home holds it: written bytes before fill bytes (R269, R279). -/
def memByte (s : State) (key pa : Nat) : Byte := (llcByte s pa).getD (dramByte s key pa)

def memBytes (s : State) (key pa n : Nat) : List Byte := (upto pa n).map fun a => memByte s key a

/-- A sector with a byte placed. -/
def Sector.put (sec : Sector) (i : Nat) (b : Byte) (dirty : Bool) : Sector :=
  let k := 2 ^ (8 * i)
  { home := sec.home
    valid := sec.valid ||| BitVec.ofNat 32 (2 ^ i)
    dirty := if dirty then sec.dirty ||| BitVec.ofNat 32 (2 ^ i) else sec.dirty
    data := (sec.data &&& ~~~BitVec.ofNat 256 (255 * k)) ||| BitVec.ofNat 256 (b.toNat * k) }

/-- A sector that slice h allocates. -/
def Sector.start (h : BitVec 6) : Sector := ⟨h, 0#32, 0#32, 0#256⟩

/-- A byte written into the LLC at slice h: it allocates and needs no fill (R279). -/
def llcPut (h : BitVec 6) (llc : SMap Sector) (pa : Nat) (b : Byte) (dirty : Bool) : SMap Sector :=
  mset llc (pa / 32) (((mget llc (pa / 32)).getD (.start h)).put (pa % 32) b dirty)

/-- Dirty bytes of a sector written back under a key, and the sector gone (R279). -/
def writeBack (s : State) (key sector : Nat) : State :=
  match mget s.llc sector with
  | none => s
  | some sec =>
    let s := { s with llc := mdel s.llc sector }
    if sec.dirty == 0#32 then s
    else
      (upto 0 32).foldl (fun s i =>
        if sec.dirty.getLsbD i then dramWrite s key (32 * sector + i) [BitVec.ofNat 8 (sec.data.toNat / 2 ^ (8 * i))] else s) s

/-- The lines of the LLC, by PA div 128, that have a sector for which f holds. -/
def llcLines (s : State) (f : Nat → Sector → Bool) : List Nat :=
  s.llc.foldl (fun acc e => if f e.1 e.2 && acc.head? != some (e.1 / 4) then e.1 / 4 :: acc else acc) []

/-- Whether the controller still zeroes the page of a frame (R326). -/
def isZeroing (s : State) (f : Nat) : Bool := s.zeroing.any fun z => z.1 ≤ f && f < z.1 + z.2.1

/-- Bytes that a partition has pinned: frames and vocabularies (R442, R485). -/
def pinnedBytes (s : State) (part : BitVec 4) : Nat :=
  4096 * (s.pinned.filter (·.2 == part)).length
    + (s.text.vocabs.filter (·.2.part == part)).foldl (fun n v => n + v.2.bytes) 0

/-- Frames whose pin slice is h. -/
def pinnedAtSlice (s : State) (h : BitVec 6) : Nat := (s.pinned.filter fun e => homeSlice (4096 * e.1) == h).length

/-- The lines that slice h holds: those that stand in it, and the pinned ones, written or not (R280). -/
def sliceLinesHeld (s : State) (h : BitVec 6) : Nat :=
  (llcLines s fun i c => c.home == h && !isPinned s (32 * i)).length + 32 * pinnedAtSlice s h

/-- The lines that partition p holds, pinned ones among them (R485). -/
def partLinesHeld (s : State) (p : BitVec 4) : Nat :=
  (llcLines s fun i _ => mget s.owners (i / 128) == some p && !isPinned s (32 * i)).length + (pinnedBytes s p + 127) / 128

/-- The lines that may be evicted for partition p: its own, neither pinned, nor with a fill pending, nor of a page whose zeroing holds its
write-backs (R269, R280, R326, R485). -/
def evictable (s : State) (p : BitVec 4) : Nat → Sector → Bool := fun i _ =>
  mget s.owners (i / 128) == some p && !isPinned s (32 * i) && !isZeroing s (i / 128)
    && !s.groups.any fun g => !g.queued && g.line == i / 4

/-- One line of partition p for which f holds is evicted; which one is free (R279). -/
def evictLine (s : State) (p : BitVec 4) (f : Sector → Bool) : State :=
  let ls := llcLines s fun i c => evictable s p i c && f c
  let v := nth ls (Config.victim s.freeCtr % ls.length) 0
  (if ls.isEmpty then [] else upto (4 * v) 4).foldl (fun s i => writeBack s (keyOf s p) i) { s with freeCtr := s.freeCtr + 1 }

/-- Whether a partition is beyond its LLCQ (R485). -/
def beyondQuota (s : State) (p : BitVec 4) : Bool :=
  match mget s.pkg.parts p.toNat with
  | some d => d.llcQ * Config.linesPerMiB < partLinesHeld s p
  | none => false

/-- Up to n lines of partition p evicted, until slice h is within its 128 MiB and the partition within its LLCQ (R3, R279, R485). -/
def evictLines (h : BitVec 6) (p : BitVec 4) : Nat → State → State
  | 0, s => s
  | n + 1, s =>
    let full := decide (Config.sliceLines < sliceLinesHeld s h)
    if full || beyondQuota s p then evictLines h p n (evictLine s p fun c => !full || c.home == h) else s

/-- Room made after a line of slice h and frame f has been allocated (R3, R279, R485). -/
def makeRoom (s : State) (h : BitVec 6) (f : Nat) : State :=
  match mget s.owners f with
  | none => s
  | some p => evictLines h p 1 s

/-- A sector filled at slice h: bytes that are not valid take the bytes of memory (R279). -/
def fillSector (s : State) (h : BitVec 6) (key sector : Nat) : State :=
  makeRoom { s with
    llc := (upto (32 * sector) 32).foldl (fun llc pa =>
      if (llcByte s pa).isSome then llc else llcPut h llc pa (dramByte s key pa) false) s.llc } h (sector / 128)

/-- Sectors of a PA line, as a mask, that hold a needed byte that is not valid. -/
def missing (s : State) (pas : List Nat) : BitVec 4 :=
  pas.foldl (fun m pa => if (llcByte s pa).isSome then m else m ||| BitVec.ofNat 4 (2 ^ (pa / 32 % 4))) 0#4

def countBits4 (m : BitVec 4) : Nat := ((upto 0 4).filter fun i => m.getLsbD i).length

/-- A page of n frames made zero (R326): its lines in the LLC are dropped and its memory reads zero under any key; what was in error there is
gone (log 89). -/
def zeroFrames (s : State) (f n : Nat) : State :=
  { s with
    bad := s.bad.filter fun i => i / 128 < f || f + n ≤ i / 128
    llc := mclear s.llc (128 * f) (128 * (f + n))
    dram := mclear s.dram (4096 * f) (4096 * (f + n))
    dramKey := mclear s.dramKey (128 * f) (128 * (f + n)) }

/-- The first walk that ends at a Z leaf, at address leaf: from then on its page reads zeros (R326). -/
def touchZero (s : State) (f n leaf : Nat) : State :=
  if s.zeroing.contains (f, n, leaf) then s else { zeroFrames s f n with zeroing := (f, n, leaf) :: s.zeroing }

/-- A table entry written anew with v: what was made zero through it does not count for the new leaf, unless that names the page again
with Z standing (R326). -/
def dropZeroed (s : State) (leaf : Nat) (v : W64) : State :=
  let same := fun (f n : Nat) =>
    fbit v 0 && fbit v 1 && fbit v 8 && !fbit v 9 && (if n == 1 then fld v 12 40 else fld v 21 31 * 512) == f
  { s with zeroing := s.zeroing.filter fun z => z.2.2 != leaf || same z.1 z.2.1 }

/-- The lines of a page that is being zeroed are allocated with every byte 0x00, all marked dirty, with no fill (R326). -/
def allocZero (s : State) (h : BitVec 6) (pas : List Nat) : State :=
  match pas with
  | [] => s
  | pa :: _ =>
    makeRoom { s with
      llc := ((pas.map (· / 128)).eraseDups.flatMap fun l => upto (128 * l) 128).foldl (fun llc pa =>
        if (llcByte s pa).isSome then llc else llcPut h llc pa 0#8 true) s.llc } h (pa / 4096)

/-! ### Statistics (R281) -/

def addStats (s : State) (h : BitVec 6) (f : SliceStats → SliceStats) : State :=
  { s with stats := s.stats.set h.toNat (f s.stats[h.toNat]) h.isLt }

/-! ### The L1 (R260, R276) -/

/-- Whether an L1 line is the line of a VA for this unit (R276, R308). -/
def L1Line.is (l : L1Line) (slot : BitVec 12) (gen : BitVec 4) (va : Nat) : Bool :=
  l.slot == slot && l.gen == gen && l.va == va % 2 ^ 57 / 128

/-- The L1 line of a VA that a read of class c may be served from (R260). -/
def l1Lookup (u : Unit) (cls : BitVec 4) (va : Nat) : Option L1Line :=
  if 2 ^ 57 ≤ va then none
  else u.l1.find? fun l => l.is u.cr.asidSlot u.cr.asidGen va && u.l1bound[cls.toNat]'cls.isLt ≤ l.stamp

/-- A line allocated in the L1 by a read (R276). The newest lines stay, as many as the L1 holds; in a fused L1, as many in the part of
each core, which VA[10:7] names (R3, R277). -/
def l1Alloc (s : State) (va : Nat) (data : List Byte) : State :=
  s.mapUnit fun u =>
    let line : L1Line := ⟨u.cr.asidSlot, u.cr.asidGen, va % 2 ^ 57 / 128, BitVec.ofNat 1024 (leNat data), s.stamp⟩
    let old := u.l1.filter fun l => !l.is u.cr.asidSlot u.cr.asidGen va
    let beside := fun (l : L1Line) => !u.launch.fuse || l.va % 16 == line.va % 16
    { u with l1 := line :: ((old.filter beside).take (Config.l1Lines - 1) ++ old.filter fun l => !beside l) }

/-- A byte of an L1 line replaced. -/
def l1Byte (data : BitVec 1024) (i : Nat) (b : Byte) : BitVec 1024 :=
  (data &&& ~~~BitVec.ofNat 1024 (255 * 2 ^ (8 * i))) ||| BitVec.ofNat 1024 (b.toNat * 2 ^ (8 * i))

/-- A write by an agent of the core updates the L1 copy of its bytes (R260, R276). -/
def l1Write (u : Unit) (slot : BitVec 12) (gen : BitVec 4) (va : Nat) (bs : List Byte) : Unit :=
  { u with
    l1 := (upto 0 bs.length).zip bs |>.foldl (fun ls (i, b) =>
      ls.map fun l => if l.is slot gen (va + i) then { l with data := l1Byte l.data ((va + i) % 128) b } else l) u.l1 }

/-- The L1 copy of a line dropped (R276). -/
def l1Drop (u : Unit) (va : Nat) : Unit := { u with l1 := u.l1.filter fun l => !l.is u.cr.asidSlot u.cr.asidGen va }

/-! ### Ordered writes (R268, R269, R279) -/

/-- A write ordered at its home ends every open merge group of its line (R268). -/
def splitGroups (s : State) (h : BitVec 6) (line : Nat) : State :=
  if s.groups.any fun g => !g.queued && g.open_ && g.line == line then
    addStats { s with groups := s.groups.map fun g => if !g.queued && g.line == line then { g with open_ := false } else g } h
      fun t => { t with splits := t.splits + 1 }
  else s

/-- Bytes of one line written at their home. -/
def homeWrite (s : State) (h : BitVec 6) (pas : List (Nat × Byte)) : State :=
  match pas with
  | [] => s
  | (pa, _) :: _ =>
    let s := splitGroups s h (pa / 128)
    makeRoom { s with llc := pas.foldl (fun llc (a, b) => llcPut h llc a b true) s.llc, stamp := s.stamp + 1 } h (pa / 4096)

/-! ### Line reads, merge groups (R268, R292) -/

/-- The response packets of a line, appended to those on the network, with a number each (R281: RESP). -/
def sendPacket (s : State) (h : BitVec 6) (p : Packet) : State :=
  addStats { s with packets := s.packets ++ [(s.nextPkt, p)], nextPkt := s.nextPkt + 1 } h fun t => { t with resp := t.resp + 1 }

/-- The merge groups in use at a slice. -/
def groupsAt (s : State) (h : BitVec 6) : Nat := (s.groups.filter fun g => !g.queued && g.slice == h).length

/-- A read of a PA line ordered at slice h (R292): served from valid bytes, joined to the groups of a pending fill, or
the start of a fill; with every merge group in use it waits. pas: the bytes it needs. Answers whether it is on the
network at once. -/
def lineRead (s : State) (h : BitVec 6) (key line : Nat) (pas : List Nat) (members : List (Nat × Nat)) (puts : List LadlePut) :
    State × Bool :=
  let need := missing s pas
  let pending := s.groups.filter fun g => !g.queued && g.line == line
  let overlay := (upto (128 * line) 128).map fun a => llcByte s a
  if pending.isEmpty then
    if need == 0#4 then
      let s := addStats s h fun t => { t with hits := t.hits + 1 }
      (sendPacket s h ⟨h, line, memBytes s key (128 * line) 128, members, puts⟩, true)
    else if Config.mergeGroups ≤ groupsAt s h then
      ({ s with groups := s.groups ++ [⟨h, line, key, [], need, members, puts, true, true⟩] }, false)
    else
      (addStats { s with groups := s.groups ++ [⟨h, line, key, overlay, need, members, puts, true, false⟩] } h
        fun t => { t with fills := t.fills + w64 (countBits4 need) }, false)
  else
    let started := pending.foldl (fun m g => m ||| g.sectors) 0#4
    let stat := fun (s : State) =>
      addStats s h fun t => { t with merged := t.merged + 1, fills := t.fills + w64 (countBits4 (need &&& ~~~started)) }
    if pending.any (·.open_) then
      (stat { s with
        groups := s.groups.map fun g =>
          if !g.queued && g.open_ && g.line == line then
            { g with sectors := g.sectors ||| need, members := g.members ++ members, puts := g.puts ++ puts }
          else g }, false)
    else if Config.mergeGroups ≤ groupsAt s h then
      ({ s with groups := s.groups ++ [⟨h, line, key, [], need, members, puts, true, true⟩] }, false)
    else (stat { s with groups := s.groups ++ [⟨h, line, key, overlay, need, members, puts, true, false⟩] }, false)

/-- A fill completes (R292): each group of the line sends its packet in the order in which they formed, and the filled
sectors become valid, written bytes taking precedence. -/
def completeFill (s : State) (h : BitVec 6) (line : Nat) : State :=
  let gs := s.groups.filter fun g => !g.queued && g.slice == h && g.line == line
  match gs with
  | [] => s
  | g0 :: _ =>
    let sectors := gs.foldl (fun m g => m ||| g.sectors) 0#4
    let fillByte := fun (i : Nat) => dramByte s g0.key (128 * line + i)
    let s1 := gs.foldl (fun s g =>
      sendPacket s h ⟨h, line, (upto 0 128).map fun i => (nth g.overlay i none).getD (fillByte i), g.members, g.puts⟩) s
    let s2 := (upto 0 4).foldl (fun s i => if sectors.getLsbD i then fillSector s h g0.key (4 * line + i) else s) s1
    { s2 with groups := s2.groups.filter fun g => g.queued || !(g.slice == h && g.line == line), freeCtr := s2.freeCtr + 1 }

/-- Sectors of a line filled at once. -/
def fillSectors (s : State) (h : BitVec 6) (key line : Nat) (need : BitVec 4) : State :=
  (upto 0 4).foldl (fun s i => if need.getLsbD i then fillSector s h key (4 * line + i) else s) s

/-- An engine's read of bytes of one line, made whole (log 6): its value is fixed at once. While a fill of the line is pending it joins
the line's merge group or forms one, named there by its entry's number (R268, R292, R302); otherwise it is one request of its own, whose
fill starts and completes. -/
def wholeRead (s : State) (h : BitVec 6) (key line : Nat) (pas : List Nat) (by_ : List (Nat × Nat)) : State × List Byte :=
  let need := missing s pas
  let bs := pas.map fun a => memByte s key a
  let joins := s.groups.any (fun g => !g.queued && g.line == line) || (need != 0#4 && Config.mergeGroups ≤ groupsAt s h)
  if joins then ((lineRead s h key line pas by_ []).1, bs)
  else
    let s := addStats s h fun t =>
      if need == 0#4 then { t with hits := t.hits + 1, resp := t.resp + 1 }
      else { t with fills := t.fills + w64 (countBits4 need), resp := t.resp + 1 }
    (fillSectors s h key line need, bs)

/-- Whether a read of bytes of one line has to wait for a merge group (R292). -/
def groupWait (s : State) (h : BitVec 6) (line : Nat) (pas : List Nat) : Bool :=
  let pending := s.groups.filter fun g => !g.queued && g.line == line
  decide (Config.mergeGroups ≤ groupsAt s h)
    && (if pending.isEmpty then missing s pas != 0#4 else !pending.any (·.open_))

end Sys2Proof.Machine
end

