-- ==== Sys2Proof/Machine/Translate.lean ====
section
/-! DEFINITION. Translation at the slices, faults and parked accesses, and the global reads and writes of engines (R306 to
R328, R333). -/

namespace Sys2Proof.Machine

/-- On whose behalf an access is made: identifier, class, unit index and agent code of R323. -/
structure Who where
  slot  : BitVec 12
  gen   : BitVec 4
  cls   : BitVec 4
  unit  : W32
  agent : BitVec 2
  core  : Option (BitVec 5 × BitVec 4)   -- cluster and physical core; none for an edge agent
  peer  : Option W16                     -- a peer's request: its package, or its number with bit 15 set
  op    : List (Nat × Nat)               -- the queue entry whose reads these are, as a merged read names it (R302)
deriving DecidableEq, Repr

/-- The unit of the core itself (agent 0), its copy engines (1), feeders (2) and other engines (3). -/
def unitWho (u : Unit) (cls : BitVec 4) (agent : BitVec 2) : Who :=
  ⟨u.cr.asidSlot, u.cr.asidGen, cls, u.cr.unit, agent, some (u.cr.cluster, u.cr.pcore), none, []⟩

/-- An edge agent of this package, whose accesses have class 15. -/
def edgeWho (slot : BitVec 12) (gen : BitVec 4) : Who := ⟨slot, gen, 15#4, 0#32, 3#2, none, none, []⟩

/-- An access that cannot go on: aborted at once, or a fault found by translation (R306, R315, R323). -/
inductive XStop where
  | abort (code : BitVec 4)
  | fault (code : BitVec 4) (level : Nat) (entry : W64)
deriving DecidableEq, Repr

/-- Where an address leads: main memory under a key (z: its page is still being zeroed), the host, or a peer package. -/
inductive Place where
  | mem (pa key : Nat) (z : Bool)
  | host (pa : Nat)
  | peer (package : Nat)
deriving DecidableEq, Repr

/-! ### Page tables (R312 to R316) -/

/-- Index field of a level (R312). -/
def levelIndex (va lvl : Nat) : Nat := va % 2 ^ 52 / 2 ^ (12 + 9 * (lvl - 1)) % (if lvl == 5 then 16 else 512)

/-- The missing right of an access kind (R316). -/
def rightsFault (x : W64) (kind : Nat) : Option (BitVec 4) :=
  let rd := fbit x 2
  let wr := fbit x 3
  match kind with
  | 0 => if rd then none else some 4#4
  | 1 => if wr then none else some 5#4
  | 2 => if !rd then some 4#4 else if wr then none else some 5#4
  | _ => if !rd then some 4#4 else if fbit x 4 then none else some 6#4

/-- What an entry read at a level gives (R315). -/
inductive EntryRead where
  | table (t : Nat) (sc : BitVec 2)
  | leaf (frame : Nat) (sc : BitVec 2)
  | bad (code : BitVec 4)
deriving DecidableEq, Repr

/-- The checks of R315 on the entry x of a level; sc as the walk holds it. -/
def readEntry (x : W64) (lvl kind : Nat) (sc : BitVec 2) : EntryRead :=
  if !fbit x 0 then .bad 1#4
  else if fld x 52 12 != 0 then .bad 2#4
  else if !fbit x 1 then
    if lvl == 1 then .bad 3#4
    else if lvl == 2 then
      if fld x 2 9 != 0 then .bad 2#4 else .table (fld x 13 39 * 8192) (BitVec.ofNat 2 (fld x 11 2))
    else if fld x 2 10 != 0 then .bad 2#4
    else .table (fld x 12 40 * 4096) sc
  else if 3 ≤ lvl then .bad 3#4
  else
    let wrong := if lvl == 2 then fld x 13 8 != 0 || fbit x 5 else fbit x 11
    let sc := if lvl == 2 then BitVec.ofNat 2 (fld x 11 2) else sc
    let f := if lvl == 2 then fld x 21 31 * 512 else fld x 12 40
    if wrong then .bad 2#4
    else if fbit x 10 && (fbit x 3 || fbit x 7) then .bad 2#4
    else if fbit x 9 && fbit x 8 then .bad 2#4
    else
      match rightsFault x kind with
      | some c => .bad c
      | none => if !fbit x 9 && Config.mainFrames ≤ f then .bad 8#4 else .leaf f sc

/-- The tag of a walk-cache entry (R333). -/
def walkTag (va lvl : Nat) : Nat := va % 2 ^ 52 / 2 ^ (12 + 9 * (lvl - 1))

/-- A walk-cache entry found. -/
def walkHit (s : State) (h : BitVec 6) (slot : BitVec 12) (gen : BitVec 4) (va lvl : Nat) : Option W64 :=
  (s.walks.find? fun w => w.slice == h && w.level == lvl && w.slot == slot && w.gen == gen && w.tag == walkTag va lvl).map (·.entry)

/-- The newest n entries of a structure of one slice kept: capacity replacement drops the oldest. -/
def keepNewest {α : Type} (here : α → Bool) (n : Nat) (l : List α) : List α :=
  if (l.filter here).length ≤ n then l else l.eraseIdx (l.findIdx here)

/-- A table entry fills the walk cache of its level (R333). -/
def fillWalk (s : State) (h : BitVec 6) (slot : BitVec 12) (gen : BitVec 4) (va lvl : Nat) (x : W64) : State :=
  let mine := fun (w : WalkEntry) => w.slice == h && w.level == lvl
  let rest := s.walks.filter fun w => !(mine w && w.slot == slot && w.gen == gen && w.tag == walkTag va lvl)
  { s with walks := keepNewest mine Config.walkEntries (rest ++ [⟨h, lvl, slot, gen, walkTag va lvl, x⟩]) }

/-- A walk that has reached its leaf: the leaf's address in its table, the entry, frame, level and class. -/
structure Leaf where
  ea    : Nat
  entry : W64
  frame : Nat
  level : Nat
  sc    : BitVec 2
deriving DecidableEq, Repr

/-- The descent from level lvl at table t (R315); lvl counts down to 0. -/
def descend (h : BitVec 6) (slot : BitVec 12) (gen : BitVec 4) (key va kind : Nat) :
    Nat → Nat → BitVec 2 → State → State × Except XStop Leaf
  | 0, _, _, s => (s, .error (.fault 3#4 1 0#64))
  | lvl + 1, t, sc, s =>
    let ea := t + 8 * levelIndex va (lvl + 1)
    let x := dramRead8 s key ea
    let s := { s with reads := s.reads + 1 }
    match readEntry x (lvl + 1) kind sc with
    | .bad c => (s, .error (.fault c (lvl + 1) x))
    | .leaf f sc => (s, .ok ⟨ea, x, f, lvl + 1, sc⟩)
    | .table t sc => descend h slot gen key va kind lvl t sc (fillWalk s h slot gen va (lvl + 1) x)

/-- The ASID entry of a slot. -/
def asidOf (s : State) (slot : BitVec 12) : Option AsidEntry := mget s.asids slot.toNat

/-- Whether a slot is valid under a generation (R308). -/
def asidLive (s : State) (slot : BitVec 12) (gen : BitVec 4) : Bool :=
  match asidOf s slot with
  | some a => a.v && a.gen == gen
  | none => false

/-- The partition that owns a slot: its ASID entry's, or the one in whose range it lies (R308, R484). -/
def slotPart (s : State) (slot : BitVec 12) : BitVec 4 :=
  match s.pkg.parts.find? fun p => p.2.asidBase ≤ slot.toNat && slot.toNat < p.2.asidBase + p.2.asidCount with
  | some p => p.2.part
  | none => match asidOf s slot with
    | some a => a.part
    | none => 0#4

/-- Where a walk starts: at the deepest walk-cache hit, else at the root (R333). -/
def walkStart (s : State) (h : BitVec 6) (slot : BitVec 12) (gen : BitVec 4) (va kind : Nat) (cached : Bool) (root : Nat) :
    Nat × Nat × BitVec 2 :=
  let try_ := fun (lvl : Nat) => (if cached then walkHit s h slot gen va lvl else none).bind fun x =>
    match readEntry x lvl kind 0#2 with
    | .table t sc => some (lvl - 1, t, sc)
    | _ => none
  ([2, 3, 4, 5].findSome? try_).getD (5, root * 4096, 0#2)

/-- A walk (R315, R318): A and D are set in the leaf before the access, and the translation fills the TLB, with a 4 KiB entry for every
level-1 leaf (R317, log 63). -/
def walk (s : State) (h : BitVec 6) (slot : BitVec 12) (gen : BitVec 4) (va kind : Nat) (cached : Bool) :
    State × Except XStop Leaf :=
  if !asidLive s slot gen then (s, .error (.fault 7#4 0 0#64))
  else
    match asidOf s slot with
    | none => (s, .error (.fault 7#4 0 0#64))
    | some a =>
      let key := keyOf s (slotPart s slot)
      let (lvl, t, sc) := walkStart s h slot gen va kind cached a.root.toNat
      match descend h slot gen key va kind lvl t sc s with
      | (s, .error e) => (s, .error e)
      | (s, .ok lf) =>
        let x := lf.entry ||| 0x40#64 ||| (if kind == 1 || kind == 2 then 0x80#64 else 0#64)
        let s := if x == lf.entry then s else dramWrite s key lf.ea (leBytes x.toNat 8)
        let size := if lf.level == 2 then 2 ^ 21 else 4096
        let mine := fun (e : TlbEntry) => e.slice == h
        let e : TlbEntry := ⟨h, slot, gen, va % 2 ^ 57 / size * size, size, lf.frame * 4096, x, lf.sc, lf.ea⟩
        let rest := s.tlb.filter fun o => !(mine o && o.slot == slot && o.gen == gen && o.va == e.va && o.size == e.size)
        ({ s with tlb := keepNewest mine Config.tlbEntries (rest ++ [e]) }, .ok { lf with entry := x })

/-- A TLB entry that serves an access: of the slot's current generation, with its rights, and recording D for a write
(R308, R318, R321). -/
def tlbHit (s : State) (h : BitVec 6) (slot : BitVec 12) (gen : BitVec 4) (va kind : Nat) : Option TlbEntry :=
  s.tlb.find? fun e =>
    e.slice == h && e.slot == slot && e.gen == gen && asidLive s slot gen && e.va == va % 2 ^ 57 / e.size * e.size
      && (rightsFault e.leaf kind).isNone && (fbit e.leaf 7 || !(kind == 1 || kind == 2))

/-- The translation of an address at its home slice (R278, R306, R307, R315). -/
def locate (s : State) (w : Who) (va : W64) (kind : Nat) (cached : Bool) : State × Except XStop Place :=
  let own := ownerOf va
  if fld va 57 7 != 0 then (s, .error (.abort 0xA#4))
  else if own != s.pkg.number.toNat then
    (s, if s.pkg.members.getLsbD own then .ok (.peer own) else .error (.abort 0xA#4))
  else
    let h := homeSlice va.toNat
    let page := fun (s : State) (leaf : W64) (pa : Nat) =>
      if fbit leaf 9 then (s, Except.ok (Place.host pa))
      else
        let part := slotPart s w.slot
        ({ s with owners := mset s.owners (pa / 4096) part }, .ok (.mem pa (keyOf s part) (isZeroing s (pa / 4096))))
    match if cached then tlbHit s h w.slot w.gen va.toNat kind else none with
    | some e => page s e.leaf (e.pa + va.toNat % e.size)
    | none =>
      match walk s h w.slot w.gen va.toNat kind cached with
      | (s, .error e) => (s, .error e)
      | (s, .ok lf) =>
        let n := if lf.level == 2 then 512 else 1
        let s := if fbit lf.entry 8 && !fbit lf.entry 9 then touchZero s lf.frame n lf.ea else s
        page s lf.entry (lf.frame * 4096 + va.toNat % (4096 * n))

/-! ### Fault records and parking (R323) -/

/-- Records of a partition's fault ring, at most (R484); a partition without a descriptor has the largest ring. -/
def faultCap (s : State) (part : BitVec 4) : Nat :=
  match mget s.pkg.parts part.toNat with
  | some d => d.faultLen
  | none => 65536

/-- A fault record is written, or held by its slice while the partition's ring is full (R323). -/
def writeFault (s : State) (part : BitVec 4) (r : FaultRecord) : State :=
  if (s.faults.filter (·.1 == part)).length < faultCap s part && !s.heldFlt.any (·.1 == part) then
    { s with faults := s.faults ++ [(part, r)] }
  else { s with heldFlt := s.heldFlt ++ [(part, r)] }

/-- A fault record (R323). -/
def faultRecord (s : State) (w : Who) (va : W64) (kind : Nat) (code : BitVec 4) (level : Nat) (entry : W64) (park : Option Nat)
    (full : Bool) : FaultRecord :=
  { va := w64 (va.toNat % 2 ^ 57), entry := entry, slot := w.slot, gen := w.gen, code := code, level := level, peer := w.peer.isSome
    full := full, kind := kind, cls := w.cls, slice := homeSlice va.toNat, park := BitVec.ofNat 8 (park.getD 0xFF)
    package := w.peer.elim s.pkg.number fun p => if p.msb then s.pkg.number else p.setWidth 5
    cluster := (w.core.getD (0x1F#5, 0#4)).1, pcore := (w.core.getD (0x1F#5, 0#4)).2
    agent := w.agent, unit := w.unit }

/-- A free park entry of a slice. -/
def freePark (s : State) (h : BitVec 6) : Option Nat :=
  (upto 0 Config.parkEntries).find? fun i => !s.parks.any fun p => p.slice == h && p.index.toNat == i

/-- What becomes of an access that cannot go on: parked at its slice, or aborted with a code (R306, R323). -/
inductive Held where
  | parked (slice park : BitVec 6)
  | aborted (code : BitVec 4)
deriving DecidableEq, Repr

/-- A fault parks the access, or aborts it when every park entry is in use; either way a record is written (R323). -/
def hold (s : State) (w : Who) (va : W64) (kind : Nat) (by_ : Parked) (e : XStop) : State × Held :=
  match e with
  | .abort code => (s, .aborted code)
  | .fault code level entry =>
    let h := homeSlice va.toNat
    let part := slotPart s w.slot
    let rec_ := faultRecord s w va kind code level entry
    match freePark s h with
    | none => (writeFault s part (rec_ none true), .aborted code)
    | some i =>
      let p : ParkEntry := ⟨h, BitVec.ofNat 6 i, by_, va, part, code, w.slot, w.gen, kind⟩
      (writeFault { s with parks := s.parks ++ [p] } part (rec_ (some i) false), .parked h p.index)

/-- The leaf by which a VA has been translated, with its level, as the TLB holds it. -/
def leafOf (s : State) (w : Who) (va : Nat) : Nat × W64 :=
  (s.tlb.find? fun e => e.slice == homeSlice va && e.slot == w.slot && e.gen == w.gen && e.va == va % 2 ^ 57 / e.size * e.size).elim
    (0, 0#64) fun e => (if e.size == 2 ^ 21 then 2 else 1, e.leaf)

/-- A host-port error: a record at once, and fault code 0x9 (R323). The level and the entry are those of the leaf that leads to the host
(log 85). -/
def hostError (s : State) (w : Who) (va : W64) (kind : Nat) : State :=
  let l := leafOf s w va.toNat
  writeFault s (slotPart s w.slot) (faultRecord s w va kind 9#4 l.1 l.2 none false)

/-! ### Global reads and writes of engines -/

/-- The result of an engine's access to memory: done, or stopped at a VA. -/
inductive Xfer (α : Type) where
  | ok (a : α)
  | stop (va : W64) (e : XStop)

/-- n bytes of one line read by an engine, from va. A read of failing bytes is aborted, and the modelled unit's job is to be cancelled where it
is the unit's (R489). -/
def readPiece (s : State) (w : Who) (kind : Nat) (va : W64) (n : Nat) : State × Xfer (List Byte) :=
  match locate s w va kind true with
  | (s, .error e) => (s, .stop va e)
  | (s, .ok (.mem pa key z)) =>
    match badSector s pa n with
    | some i =>
      (if w.core == some (s.unit.cr.cluster, s.unit.cr.pcore) then meetBad s i else { s with freeCtr := s.freeCtr + 1 },
        .stop va (.abort (Config.abortCode s.freeCtr)))
    | none =>
      let h := homeOf s va.toNat pa
      let (s, bs) := wholeRead (if z then allocZero s h (upto pa n) else s) h key (pa / 128) (upto pa n) w.op
      (s, .ok bs)
  | (s, .ok (.host _)) =>
    if s.pkg.link && Config.hostAnswers s.freeCtr then
      ({ s with freeCtr := s.freeCtr + 1 }, .ok ((upto 0 n).map fun i => Config.hostByte (s.freeCtr * 2 ^ 10 + i)))
    else (hostError { s with freeCtr := s.freeCtr + 1 } w va kind, .stop va (.abort 9#4))
  | (s, .ok (.peer _)) =>
    ({ s with freeCtr := s.freeCtr + 1 },
      if Config.peerAnswers s.freeCtr then .ok ((upto 0 n).map fun i => Config.peerByte (s.freeCtr * 2 ^ 10 + i))
      else .stop va (.abort (Config.abortCode s.freeCtr)))

/-- Bytes [va, va + n) cut at lines: (va, count) pairs. fuel: lines. -/
def linePieces : Nat → W64 → Nat → List (W64 × Nat)
  | 0, _, _ => []
  | fuel + 1, va, n =>
    if n == 0 then []
    else
      let k := min n (128 - va.toNat % 128)
      (va, k) :: linePieces fuel (va + w64 k) (n - k)

/-- n bytes read by an engine (R253). -/
def vread (s : State) (w : Who) (kind : Nat) (va : W64) (n : Nat) : State × Xfer (List Byte) :=
  (linePieces (n / 128 + 2) va n).foldl (fun (s, r) (a, k) =>
    match r with
    | .stop _ _ => (s, r)
    | .ok bs =>
      match readPiece s w kind a k with
      | (s, .ok cs) => (s, .ok (bs ++ cs))
      | (s, .stop a e) => (s, .stop a e)) (s, .ok [])

/-- Bytes of one line written by an engine; own: by an agent of the core, whose L1 takes them (R260). -/
def writePiece (s : State) (w : Who) (own : Bool) (va : W64) (bs : List Byte) : State × Xfer PUnit :=
  match locate s w va 1 true with
  | (s, .error e) => (s, .stop va e)
  | (s, .ok (.mem pa _ z)) =>
    let h := homeOf s va.toNat pa
    let s := homeWrite (if z then allocZero s h [pa] else s) h ((upto pa bs.length).zip bs)
    (if own then s.mapUnit fun u => l1Write u w.slot w.gen va.toNat bs else s, .ok ⟨⟩)
  | (s, .ok (.host _)) =>
    if s.pkg.link && Config.hostAnswers s.freeCtr then ({ s with freeCtr := s.freeCtr + 1 }, .ok ⟨⟩)
    else (hostError { s with freeCtr := s.freeCtr + 1 } w va 1, .stop va (.abort 9#4))
  | (s, .ok (.peer _)) =>
    ({ s with freeCtr := s.freeCtr + 1 },
      if Config.peerAnswers s.freeCtr then .ok ⟨⟩ else .stop va (.abort (Config.abortCode s.freeCtr)))

/-- The bytes of each piece with its address. -/
def splitPieces : List (W64 × Nat) → List Byte → List (W64 × List Byte)
  | [], _ => []
  | (a, k) :: rest, bs => (a, bs.take k) :: splitPieces rest (bs.drop k)

/-- Bytes that the submitter writes through its own mapping of the pages of an address space, whose leaves need no WR (R243, R247). -/
def vpoke (s : State) (w : Who) (va : W64) (bs : List Byte) : State :=
  (splitPieces (linePieces (bs.length / 128 + 2) va bs.length) bs).foldl (fun s (a, cs) =>
    match locate s w a 0 true with
    | (s, .ok (.mem pa _ z)) =>
      let h := homeOf s a.toNat pa
      homeWrite (if z then allocZero s h [pa] else s) h ((upto pa cs.length).zip cs)
    | (s, _) => s) s

/-- Bytes written by an engine, line by line. -/
def vwrite (s : State) (w : Who) (own : Bool) (va : W64) (bs : List Byte) : State × Xfer PUnit :=
  (splitPieces (linePieces (bs.length / 128 + 2) va bs.length) bs).foldl (fun (s, r) (a, cs) =>
    match r with
    | .stop _ _ => (s, r)
    | .ok _ => writePiece s w own a cs) (s, .ok ⟨⟩)

/-- A write of an edge agent, class 15, line by line; one that faults is parked with its bytes (R323). l1: by an agent of the cluster,
whose fused L1 takes the bytes too (R260, R277). -/
def edgeWriteL1 (s : State) (w : Who) (l1 : Bool) (submit : Option Nat) (va : W64) (bs : List Byte) : State :=
  (splitPieces (linePieces (bs.length / 128 + 2) va bs.length) bs).foldl (fun s (a, cs) =>
    match writePiece s w l1 a cs with
    | (s, .ok _) => s
    | (s, .stop a x) => (hold s w a 1 (.edge cs submit) x).1) s

/-- A write of the request front end. -/
def edgeWrite (s : State) (w : Who) (submit : Option Nat) (va : W64) (bs : List Byte) : State := edgeWriteL1 s w false submit va bs

/-- Every line of the ranges translated for a kind of access, without touching them: the first stop, if any. -/
def vcheck (s : State) (w : Who) (kind : Nat) (ranges : List (W64 × Nat)) : State × Xfer PUnit :=
  (ranges.flatMap fun (va, n) => linePieces (n / 128 + 2) va n).foldl (fun (s, r) (a, _) =>
    match r with
    | .stop _ _ => (s, r)
    | .ok _ =>
      match locate s w a kind true with
      | (s, .error e) => (s, .stop a e)
      | (s, .ok _) => (s, r)) (s, .ok ⟨⟩)

/-! ### Invalidation (R311, R319, R320) -/

/-- Whether [a, a + n) and [b, b + m) share an address. -/
def overlap (a n b m : Nat) : Bool := a < b + m && b < a + n

/-- Every translation and L1 line of a slot in [va, va + bytes) removed, those that overlap the range whole (R320). -/
def purge (s : State) (slot : BitVec 12) (va bytes : Nat) : State :=
  { s with
    tlb := s.tlb.filter fun e => !(e.slot == slot && overlap e.va e.size va bytes)
    walks := s.walks.filter fun e =>
      let size := 2 ^ (12 + 9 * (e.level - 1))
      !(e.slot == slot && overlap (e.tag * size) size (va % 2 ^ 52) bytes)
    unit := { s.unit with l1 := s.unit.l1.filter fun l => !(l.slot == slot && overlap (l.va * 128) 128 va bytes) } }

/-- The accesses of the unit that have been translated under a slot and have not performed, also writes posted to the host, or whose response
is still on the network and could enter the L1 (R320). -/
def translatedAccs (s : State) (slot : BitVec 12) (va bytes : Nat) : List Nat :=
  if s.unit.cr.asidSlot != slot then []
  else
    (s.unit.accs.filter fun a => a.parts.any fun p =>
      overlap p.va.toNat 16 va bytes
        && (match p.stage with
          | .merging _ => true
          | .atPin _ => true
          | .packet => true
          | .redOpen _ => true
          | _ => false)).map (·.id)
      ++ (s.unit.posted.filter fun p => p.package == 32 && overlap (p.va.toNat / 16 * 16) 16 va bytes).map (·.id)

/-- The ladle copies, by order number, of whose translated lines some are not yet written (R320). -/
def ladleOut (s : State) : List Nat :=
  ((s.groups.flatMap fun g => g.puts.map (·.ord)) ++ s.packets.flatMap fun p => p.2.puts.map (·.ord)).eraseDups

/-- The ladle copies of the unit that an invalidation under a slot waits for (R320). -/
def translatedLadles (s : State) (slot : BitVec 12) : List Nat := if s.unit.cr.asidSlot == slot then ladleOut s else []

end Sys2Proof.Machine
end

