-- ==== Sys2Proof/Machine/Engine.lean ====
section
/-! DEFINITION. What the engines of a core share: rings as engines produce into them and consume from them, and the end of
a queue entry (R203 to R206, R218 to R220, R249, R323). -/

namespace Sys2Proof.Machine

/-! ### Rings (R203, R206, R214, R236) -/

/-- The ring q of logical core c of the gang as an engine sees it. -/
def engRing (s : State) (c : Nat) (q : BitVec 6) : Option Ring :=
  if c == s.unit.cr.lcore.toNat then (ringAt s.unit.pad q).map (shownRing s.unit q)
  else (mget s.peers c).bind fun p => ringAt p q

/-- The scratchpad of core c changed. -/
def modPad (s : State) (c : Nat) (f : Pad → Pad) : State :=
  if c == s.unit.cr.lcore.toNat then s.mapUnit fun u => { u with pad := f u.pad }
  else
    match mget s.peers c with
    | some p => { s with peers := mset s.peers c (f p) }
    | none => s

/-- One slot reserved, or one ticket taken, by an engine producer: the state and the index; none while there is no room. -/
def engReserve (s : State) (c : Nat) (q : BitVec 6) : Option (State × Nat) :=
  match engRing s c q with
  | none => none
  | some r => if 1 ≤ r.room then some (modPad s c fun p => modRing p q fun r => r.reserve 1, r.rsv.toNat) else none

/-- The slot of an index committed (plain: the oldest reserved slot, unless failed work holds the ring there) or, while it is an
outstanding ticket, filled (reorder) by an engine producer (R201 to R203). -/
def engCommit (s : State) (c : Nat) (q : BitVec 6) (x : Nat) : State :=
  modPad s c fun p => modRing p q fun r => if !r.reorder then r.commitOne else if r.canFill x then r.fill (w16 x) else r

/-- An engine operation fails with the slot of index x reserved: the ring is held there (R203). Answers the index of the held slot. -/
def engHold (s : State) (c : Nat) (q : BitVec 6) (x : Nat) : State × W16 :=
  let r := if c == s.unit.cr.lcore.toNat then ringAt s.unit.pad q else (mget s.peers c).bind fun p => ringAt p q
  match r with
  | none => (s, w16 x)
  | some r => if r.reorder then (s, w16 x) else (modPad s c fun p => setRing p q (some (r.hold (w16 x)).2), (r.hold (w16 x)).1)

/-- n slots of a ring of core c from index x on are freed by an engine (R206). -/
def engFree (s : State) (c : Nat) (q : BitVec 6) (x : W16) (n : Nat) : State :=
  modPad s c fun p => modRing p q fun r => (upto 0 n).foldl (fun r i => r.freeAt (r.adv x i)) r

/-- The local address of index x of a ring of core c. -/
def engAddr (s : State) (c : Nat) (q : BitVec 6) (x : Nat) : Nat := ((engRing s c q).map fun r => r.addr (w16 x)).getD 0

/-- Whether the unit on core c permits the producer of PERM bit b. -/
def ringPermits (r : Ring) (b : Nat) : Bool := r.perm.testBit b

/-! ### Engines of other cores (R302, R424) -/

/-- The writes of a FarPut from a local address on. -/
def putPieces (s : State) (core at_ : Nat) (bs : List (Nat × List Byte)) : State :=
  bs.foldl (fun s b => modPad s core fun p => padPut p (at_ + b.1) b.2) s

/-- A write that waits for room, or for the unit to be resident, and one that waits no more (R203, R204). -/
def holdPut (s : State) (x : FarPut) : State := if s.inbound.contains x then s else { s with inbound := s.inbound ++ [x] }
def unholdPut (s : State) (x : FarPut) : State := { s with inbound := s.inbound.erase x }

/-- Whether a ring takes a FarPut: it permits the producer, and its slot holds the bytes (R178, R424); a row packet asks for a reorder
ring; the slot that earlier lines of a tile took is still reserved. -/
def takesPut (r : Ring) (x : FarPut) : Bool :=
  (x.slot.all fun i => r.dist r.tail i < r.dist r.tail r.rsv && !r.marked i) && ringPermits r x.by_.toNat && (x.by_ != 16#5 || r.reorder) && x.bytes.all fun b => b.1 + b.2.length ≤ r.size

/-- Another core's engine writes into the scratchpad of a core of the gang: it takes a slot or ticket, writes, and with the last of its
lines commits or fills (R203, R302, R424). -/
def farPut (s : State) (x : FarPut) : State :=
  let core := x.core.toNat
  if !inGang s.unit core then unholdPut s x
  else if !coreResident s then holdPut s x
  else
    match x.ring with
    | none => putPieces (unholdPut s x) core x.addr.toNat x.bytes
    | some q =>
      match engRing s core q with
      | none => unholdPut s x
      | some r =>
        if !takesPut r x then unholdPut s x
        else
          match (match x.slot with
            | some i => some (unholdPut s x, i.toNat)
            | none => engReserve (unholdPut s x) core q) with
          | none => holdPut s x
          | some (s1, i) =>
            let s2 := putPieces s1 core (r.addr (w16 i)) x.bytes
            if x.more then s2 else engCommit s2 core q i

/-! ### The end of an entry (R218, R219, R249) -/

/-- The entry at the head of queue i has performed without error: NC, or NT for a panel, goes down and it leaves. -/
def finishEntry (s : State) (i : Nat) : State :=
  dequeue (s.mapUnit fun u => if i == 2 || i == 3 then { u with nt := u.nt - 1 } else { u with nc := u.nc - 1 }) i

/-- The entry completes with an error of a kind: its error record, its queue's bit, and, where cls is given, a deferred
trap of that class with the kind as its cause (R219, R220, R249). -/
def failEntry (s : State) (i : Nat) (e : QEntry) (cls : Option Nat) (handle kind : Nat) (code : BitVec 4) (va : W64)
    (ring : Option (BitVec 6 × W16)) : State :=
  let bind := match e.cmd with
    | .panel _ b _ _ _ => b
    | _ => 0
  let s := s.mapUnit fun u =>
    { u with
      cr := queueError u.cr i handle kind e.seq
      deferred := match cls with
        | some c => u.deferred ++ [⟨e.ord, c, BitVec.ofNat 8 kind, code, va, ring, bind⟩]
        | none => u.deferred }
  finishEntry s i

/-- What a stopped access of the entry at the head of queue i does: the entry is parked, or its access is aborted and the
entry will complete with error (R323). -/
def stopEntry (s : State) (i : Nat) (e : QEntry) (w : Who) (kind : Nat) (by_ : Parked) (va : W64) (x : XStop) : State :=
  match hold s w va kind by_ x with
  | (s, .parked h k) => s.mapUnit fun u => setHead u i { e with halt := .parked h k }
  | (s, .aborted c) => s.mapUnit fun u => setHead u i { e with halt := .aborted c va }

/-- The object table's entry for a handle, as words (R243, R244); none beyond the table. -/
def readHandle (s : State) (w : Who) (h : Nat) : State × Option (Xfer (List W64)) :=
  let c := s.unit.cr
  if c.otlen.toNat ≤ h then (s, none)
  else
    match vread s w 0 (w64 (c.otbase.toNat + 64 * h)) 64 with
    | (s, .stop va x) => (s, some (.stop va x))
    | (s, .ok bs) => (s, some (.ok ((chunks 8 8 bs).map fun l => w64 (leNat l))))

/-! ### The object table (R244 to R246) -/

/-- An entry's fields. -/
structure Handle where
  base    : Nat
  dims    : List Nat       -- four; extent 1 at and above the rank (R246)
  strides : List Int       -- of dimensions 1 to 3
  land    : Nat
  epid    : Nat
  xval    : Nat
  gsize   : Nat
  tgt     : Nat
  rights  : Nat
  fmt     : Nat
  fault   : Bool           -- BMODE
  scaleva : Nat
  ok      : Bool           -- valid by R246, the suitability of TGT apart
deriving DecidableEq, Repr

def Handle.of (ws : List W64) : Handle :=
  let w := fun i => nth ws i 0#64
  let rank := fld (w 6) 1 2 + 1
  let raw := [fld (w 1) 0 32, fld (w 1) 32 32, fld (w 2) 0 32, fld (w 2) 32 32]
  let fmt := fld (w 6) 4 4
  { base := fld (w 0) 0 57
    dims := raw.take rank ++ List.replicate (4 - rank) 1
    strides := [3, 4, 5].map fun i => sxInt (w i).toNat 48
    land := fld (w 6) 32 16
    epid := fld (w 6) 48 16
    xval := fld (w 6) 24 8
    gsize := fld (w 6) 16 2
    tgt := fld (w 6) 12 2
    rights := fld (w 6) 8 4
    fmt := fmt
    fault := fbit (w 6) 3
    scaleva := fld (w 7) 0 57
    ok := fbit (w 6) 0 && fld (w 0) 57 7 == 0 && fld (w 7) 57 7 == 0 && ([3, 4, 5].all fun i => fld (w i) 48 16 == 0)
      && fld (w 6) 18 6 == 0 && fld (w 6) 14 2 == 0 && fmt < 13 && fld (w 6) 12 2 != 3
      && !(fmtAsym fmt && fld (w 6) 16 2 == 3) && (raw.take rank).all fun d => 1 ≤ d && d ≤ 2 ^ 31 }

/-- The entry's format as a format register value: FMT, GSIZE and XVAL. -/
def Handle.word (h : Handle) : W64 := w64 (h.xval * 2 ^ 48 + h.gsize * 256 + h.fmt)

/-- The VA of the row of elements (·, i1, i2, i3), at its byte off (R245). -/
def Handle.rowVa (h : Handle) (i1 : Int) (i2 i3 off : Nat) : W64 :=
  w64 (loBits ((h.base : Int) + off + i1 * nth h.strides 0 0 + i2 * nth h.strides 1 0 + i3 * nth h.strides 2 0) 57)

/-- n bytes of a row from va on, as runs: every element's VA is taken modulo 2^57 (R245). -/
def rowRuns (va : W64) (n : Nat) : List (W64 × Nat) :=
  let k := 2 ^ 57 - va.toNat
  if n ≤ k then [(va, n)] else [(va, k), (0#64, n - k)]

/-- A row's bytes read. -/
def rowRead (s : State) (w : Who) (kind : Nat) (va : W64) (n : Nat) : State × Xfer (List Byte) :=
  (rowRuns va n).foldl (fun (s, r) (a, k) =>
    match r with
    | .stop _ _ => (s, r)
    | .ok bs =>
      match vread s w kind a k with
      | (s, .ok cs) => (s, .ok (bs ++ cs))
      | (s, .stop a e) => (s, .stop a e)) (s, .ok [])

/-- A row's bytes written. -/
def rowWrite (s : State) (w : Who) (own : Bool) (va : W64) (bs : List Byte) : State × Xfer PUnit :=
  (splitPieces (rowRuns va bs.length) bs).foldl (fun (s, r) (a, cs) =>
    match r with
    | .stop _ _ => (s, r)
    | .ok _ => vwrite s w own a cs) (s, .ok ⟨⟩)

end Sys2Proof.Machine
end

