-- ==== Sys2Proof/Machine/Rings.lean ====
section
/-! DEFINITION. Ring and queue instructions (R205 to R215, R223). -/

namespace Sys2Proof.Machine

/-- CODE of the traps of R225: the ring number. Cause 0x1C, of R196, has CODE 0 (R58). -/
def ringCode (q : BitVec 6) : BitVec 12 := q.setWidth 12

/-- Whether q is the hidden ring of a handle binding (R177). -/
def hiddenRing (u : Unit) (q : BitVec 6) : Bool :=
  let hid := fun (f : Feeder) => match f.src with
    | some (.handle d0 _) => fld d0 16 6 == q.toNat
    | _ => false
  hid u.mx.west || hid u.mx.north

/-- A ring instruction on a configured descriptor that passes the test of its kind (R177, R208). -/
def onRing (q : BitVec 6) (s : State) (kind : Ring → Bool) (f : Ring → SlotAnswer) : SlotAnswer :=
  if hiddenRing s.unit q then .trap 0x1C 0#12
  else
    match ringAt s.unit.pad q with
    | none => .trap 0x1F (ringCode q)
    | some r => if kind r then f r else .trap 0x1F (ringCode q)

/-- The ring replaced. -/
def putRing (s : State) (q : BitVec 6) (r : Ring) : State := s.mapUnit fun u => { u with pad := setRing u.pad q (some r) }

/-- Whether the unit's own producer bit stands in PERM (R208). -/
def mayProduce (u : Unit) (r : Ring) : Bool := r.perm.testBit u.cr.lcore.toNat

/-- The descriptor takes its new words, or none, with every index 0 (R209). -/
def configure (s : State) (q : BitVec 6) (r : Option Ring) : SlotAnswer :=
  .go (s.mapUnit fun u => let u := discardHolds u q; { u with pad := setRing u.pad q r })

/-- QCFG Qn, Ga (R209). -/
def slotQcfg (q a : BitVec 6) (g : BitVec 4) (s : State) : SlotAnswer :=
  guarded g s fun s =>
    let u := s.unit
    let w0 := gReg u a
    let w1 := gNat u (a.toNat + 1)
    if hiddenRing u q then .trap 0x1C 0#12
    else if ringBusy u q || !ringValid w0 w1 u.pad.banks (gangMask u) then .trap 0x21 (ringCode q)
    else configure s q (some (Ring.fresh w0 w1))

def execQcfg (q a : BitVec 6) (g : BitVec 4) (s : State) : Host.Outcome State Fault Refusal :=
  issueOne true false 1 false (slotQcfg q a g) s

/-- QCFG.OFF Qn (R209). -/
def slotQcfgOff (q : BitVec 6) (g : BitVec 4) (s : State) : SlotAnswer :=
  guarded g s fun s =>
    if hiddenRing s.unit q then .trap 0x1C 0#12
    else if ringBusy s.unit q then .trap 0x21 (ringCode q)
    else configure s q none

def execQcfgOff (q : BitVec 6) (g : BitVec 4) (s : State) : Host.Outcome State Fault Refusal :=
  issueOne true false 1 false (slotQcfgOff q g) s

/-- The slot's index and address land in Gd, and the acquire at the ring's scope is made (R210, R214). -/
def giveSlot (s : State) (d : BitVec 6) (r : Ring) (x : W16) : SlotAnswer := .go (acquire (pushG s 1 d (r.value x)) r.scope)

/-- QRESV Qn, Gd, c (R210). -/
def slotQresv (q d c : BitVec 6) (g : BitVec 4) (s : State) : SlotAnswer :=
  guarded g s fun s =>
    onRing q s (fun r => !r.reorder) fun r =>
      if r.n < c.toNat then .trap 0x20 (ringCode q)
      else if !mayProduce s.unit r then .trap 0x22 (ringCode q)
      else if r.room < c.toNat then .block
      else giveSlot (putRing s q (r.reserve c.toNat)) d r r.rsv

def execQresv (q d c : BitVec 6) (g : BitVec 4) (s : State) : Host.Outcome State Fault Refusal :=
  issueOne true false 1 true (slotQresv q d c g) s

/-- A release by the unit: it covers the accesses of the ring's class and of class 15 (R214). -/
def releaseRing (s : State) (q : BitVec 6) (r r' : Ring) (head : Bool) (index : W16) : State :=
  s.mapUnit fun u => unitRelease u q r r' head index

/-- The address word of a QCOMMIT or QFILL event (R355). -/
def ringSigWord (q : BitVec 6) (addr : Nat) : W64 := w64 (2 ^ 63 + q.toNat * 2 ^ 32 + addr)

/-- QCOMMIT Qn, c (R210). -/
def slotQcommit (q c : BitVec 6) (g : BitVec 4) (s : State) : SlotAnswer :=
  guarded g s fun s =>
    onRing q s (fun r => !r.reorder) fun r =>
      if r.dist r.tail r.rsv < c.toNat then .trap 0x20 (ringCode q)
      else
        let s := s.mapUnit fun u => sigEvent u (ringSigWord q (r.addr r.tail)) (w64 c.toNat)
        .go (releaseRing s q r (r.commit c.toNat) false r.tail)

def execQcommit (q c : BitVec 6) (g : BitVec 4) (s : State) : Host.Outcome State Fault Refusal :=
  issueOne true false 1 false (slotQcommit q c g) s

/-- QAWAIT Qn, Gd, c (R210): where it would block on a slot that a failed copy of the unit holds at TAIL, it takes that
copy's deferred trap (R249). -/
def slotQawait (q d c : BitVec 6) (g : BitVec 4) (s : State) : SlotAnswer :=
  guarded g s fun s =>
    onRing q s (fun r => r.cons == 0) fun r =>
      if feederBound s.unit q then .trap 0x1C 0#12
      else if r.n < c.toNat then .trap 0x20 (ringCode q)
      else if r.filled < c.toNat then
        match oldestDeferred s.unit fun e => e.ring == some (q, r.tail) with
        | some e => takeDeferred s e
        | none => .block
      else giveSlot s d r r.head

def execQawait (q d c : BitVec 6) (g : BitVec 4) (s : State) : Host.Outcome State Fault Refusal :=
  issueOne true false 1 true (slotQawait q d c g) s

/-- QREL Qn, c (R210). -/
def slotQrel (q c : BitVec 6) (g : BitVec 4) (s : State) : SlotAnswer :=
  guarded g s fun s =>
    onRing q s (fun r => r.cons == 0) fun r =>
      if feederBound s.unit q then .trap 0x1C 0#12
      else if r.filled < c.toNat then .trap 0x20 (ringCode q)
      else .go (releaseRing s q r (r.free c.toNat) true r.head)

def execQrel (q c : BitVec 6) (g : BitVec 4) (s : State) : Host.Outcome State Fault Refusal :=
  issueOne true false 1 false (slotQrel q c g) s

/-- QTICK Qn, Gd (R211). -/
def slotQtick (q d : BitVec 6) (g : BitVec 4) (s : State) : SlotAnswer :=
  guarded g s fun s =>
    onRing q s (fun r => r.reorder) fun r =>
      if !mayProduce s.unit r then .trap 0x22 (ringCode q)
      else if r.room == 0 then .block
      else giveSlot (putRing s q (r.reserve 1)) d r r.rsv

def execQtick (q d : BitVec 6) (g : BitVec 4) (s : State) : Host.Outcome State Fault Refusal :=
  issueOne true false 1 true (slotQtick q d g) s

/-- QFILL Qn, Ga (R211). -/
def slotQfill (q a : BitVec 6) (g : BitVec 4) (s : State) : SlotAnswer :=
  guarded g s fun s =>
    onRing q s (fun r => r.reorder) fun r =>
      let tk := fld (gReg s.unit a) 32 16
      if !r.canFill tk then .trap 0x20 (ringCode q)
      else
        let s := s.mapUnit fun u => sigEvent u (ringSigWord q (r.addr (w16 tk))) (w64 tk)
        .go (releaseRing s q r (r.fill (w16 tk)) false (w16 tk))

def execQfill (q a : BitVec 6) (g : BitVec 4) (s : State) : Host.Outcome State Fault Refusal :=
  issueOne true false 1 false (slotQfill q a g) s

/-- The tests of R215 on a descriptor; false where it is unconfigured. -/
def ringTest (r : Option Ring) (t : Nat) : Bool :=
  match r with
  | none => false
  | some r =>
    match t with
    | 0 => 1 ≤ r.filled
    | 1 => r.dist r.head r.rsv < r.n
    | 2 => r.head == r.tail && r.tail == r.rsv
    | _ => r.thr ≤ r.filled

/-- QTEST.t Pp, Qn (R215): a relaxed read. -/
def slotQtest (q : BitVec 6) (p : BitVec 3) (t : BitVec 6) (g : BitVec 4) (s : State) : SlotAnswer :=
  guarded g s fun s =>
    let u := s.unit
    let n := t.toNat
    if n < 8 then
      if hiddenRing u q then .trap 0x1C 0#12 else .go (pushP s p (ringTest (ringAt u.pad q) n))
    else if n < 16 then .go (pushP s p (queueOf u (n - 8)).isEmpty)
    else .go (pushP s p (u.cr.qerr.getLsbD (n - 16)))

def execQtest (q : BitVec 6) (p : BitVec 3) (t : BitVec 6) (g : BitVec 4) (s : State) : Host.Outcome State Fault Refusal :=
  issueOne true false 1 false (slotQtest q p t g) s

/-- QFENCE mask (R223). -/
def slotQfence (m : BitVec 6) (g : BitVec 4) (s : State) : SlotAnswer :=
  guarded g s fun s => .go (pruneFences (s.mapUnit fun u => { u with qfences := u.qfences ++ [(m, u.nextAcc)] }))

def execQfence (m : BitVec 6) (g : BitVec 4) (s : State) : Host.Outcome State Fault Refusal :=
  issueOne true false 1 false (slotQfence m g) s

end Sys2Proof.Machine
end

