-- ==== Sys2Proof/Machine/Global.lean ====
section
/-! DEFINITION. The unit's global accesses as their slots issue them, WAIT and FENCE (R218, R220, R261, R262, R282 to R286). -/

namespace Sys2Proof

/-- Bytes of an atomic's element (R38). -/
def AtomTy.bytes : AtomTy → Nat
  | .i32 => 4
  | .i64 => 8
  | .f32 => 4
  | .bf16 => 2
  | .i128 => 16

end Sys2Proof

namespace Sys2Proof.Machine

/-- The bytes of an access put with the parts of their 16-byte units (R270). -/
def addByte (va : W64) (ps : List Part) (e : Nat × Byte) : List Part :=
  let at_ := w64 ((va + w64 e.1).toNat / 16 * 16)
  if ps.any fun p => p.va == at_ then ps.map fun p => if p.va == at_ then { p with bytes := p.bytes ++ [e] } else p
  else ps ++ [⟨at_, [e], .waiting⟩]

/-- The parts of an access. -/
def partsOf (va : W64) (bytes : List (Nat × Byte)) : List Part := bytes.foldl (addByte va) []

/-- A global access enters the access path (R218, R254). -/
def addAccess (u : Unit) (cls : BitVec 4) (kind : AccKind) (va : W64) (bytes : List (Nat × Byte)) : Unit :=
  { u with nextAcc := u.nextAcc + 1, accs := u.accs ++ [⟨u.nextAcc, cls, kind, va, partsOf va bytes, u.pc⟩] }

/-- n bytes at the access's address, not yet read. -/
def blankBytes (n : Nat) : List (Nat × Byte) := (upto 0 n).map fun i => (i, 0#8)

/-- The n low bytes of a value, with their offsets. -/
def valueBytes (v n : Nat) : List (Nat × Byte) := (upto 0 n).zip (leBytes v n)

/-- A load or an atomic enters with its NL entry, or waits for one (R218). -/
def drawNl (s : State) (f : Unit → Unit) : SlotAnswer :=
  if canDraw s.unit s.unit.nl 1 then .go (s.mapUnit fun u => f { u with nl := u.nl + 1 }) else .block

/-- A store enters with its NS entry, or waits for one (R218). -/
def drawNs (s : State) (f : Unit → Unit) : SlotAnswer :=
  if canDraw s.unit s.unit.ns 1 then .go (s.mapUnit fun u => f { u with ns := u.ns + 1 }) else .block

/-- LDG Gd, [Ga + off] (R282). -/
def slotLdg (d a : BitVec 6) (c : BitVec 4) (z : BitVec 2) (g : BitVec 4) (x : Option Limm) (s : State) : SlotAnswer :=
  guarded g s fun s =>
    drawNl s fun u => addAccess u c (.load d (sizeBytes z)) (addrOf u a x) (blankBytes (sizeBytes z))

def execLdg (d a : BitVec 6) (c : BitVec 4) (z : BitVec 2) (g : BitVec 4) (x : Option Limm) (s : State) :
    Host.Outcome State Fault Refusal :=
  issueOne false false (wordsOf x) false (slotLdg d a c z g x) s

/-- STG Gd, [Ga + off] (R282). -/
def slotStg (d a : BitVec 6) (c : BitVec 4) (z : BitVec 2) (g : BitVec 4) (x : Option Limm) (s : State) : SlotAnswer :=
  guarded g s fun s =>
    drawNs s fun u =>
      let n := sizeBytes z
      let v := (gReg u d).toNat % 2 ^ (8 * n)
      sigEvent (addAccess u c .store (addrOf u a x) (valueBytes v n)) (addrOf u a x) (w64 v)

def execStg (d a : BitVec 6) (c : BitVec 4) (z : BitVec 2) (g : BitVec 4) (x : Option Limm) (s : State) :
    Host.Outcome State Fault Refusal :=
  issueOne false false (wordsOf x) false (slotStg d a c z g x) s

/-- The enabled lanes. -/
def enabledLanes (u : Unit) (m : BitVec 3) : List Nat := (upto 0 64).filter fun i => (mReg u m).getLsbD i

/-- VLDG Vd, [Gb + off] (R283). -/
def slotVldg (d : BitVec 5) (c : BitVec 4) (b : BitVec 5) (m : BitVec 3) (z : Bool) (x : Option Limm) (s : State) : SlotAnswer :=
  drawNl s fun u =>
    addAccess u c (.vload d (mReg u m) z) (rowAddr u b x 0)
      ((enabledLanes u m).flatMap fun i => (upto (4 * i) 4).map fun o => (o, 0#8))

def execVldg (d : BitVec 5) (c : BitVec 4) (b : BitVec 5) (m : BitVec 3) (z : Bool) (x : Option Limm) (s : State) :
    Host.Outcome State Fault Refusal :=
  issueOne false false (wordsOf x) false (slotVldg d c b m z x) s

/-- VSTG Vs, [Gb + off] (R283): one byte-masked write. -/
def slotVstg (d : BitVec 5) (c : BitVec 4) (b : BitVec 5) (m : BitVec 3) (x : Option Limm) (s : State) : SlotAnswer :=
  drawNs s fun u =>
    let v := vReg u d
    let ls := enabledLanes u m
    let u' := addAccess u c .store (rowAddr u b x 0)
      (ls.flatMap fun i => (upto (4 * i) 4).zip (leBytes (lane v i) 4))
    ls.foldl (fun w i => sigEvent w (rowAddr u b x i) (w64 (lane v i))) u'

def execVstg (d : BitVec 5) (c : BitVec 4) (b : BitVec 5) (m : BitVec 3) (x : Option Limm) (s : State) :
    Host.Outcome State Fault Refusal :=
  issueOne false false (wordsOf x) false (slotVstg d c b m x) s

/-! ### Atomics (R38, R284) -/

/-- The element type of a width code; BF16 and FP32 occur with ADD only (R38). -/
def atomTy (w : BitVec 2) : AtomTy :=
  match w.toNat with
  | 0 => .i32
  | 1 => .i64
  | 2 => .f32
  | _ => .bf16

/-- An atomic: aligned to its width, its NL entry drawn, the L1 copy of its line dropped (R276, R284). -/
def atomSlot (op : AtomOp) (ty : AtomTy) (d : BitVec 6) (c : BitVec 4) (va : W64) (v expected : BitVec 128) (sig : Unit → Unit)
    (s : State) : SlotAnswer :=
  if va.toNat % ty.bytes != 0 then .trap 0x2C 0#12
  else drawNl s fun u => sig (l1Drop (addAccess u c (.atom op ty d v expected) va (blankBytes ty.bytes)) va.toNat)

/-- ATOM.op Gd, [Ga + off] of two operands at most: the register and the value it replaces. -/
def atom1 (op : AtomOp) (d a : BitVec 6) (c : BitVec 4) (w : BitVec 2) (g : BitVec 4) (x : Option Limm) (s : State) : SlotAnswer :=
  guarded g s fun s =>
    let u := s.unit
    let v := (gReg u d).toNat % 2 ^ (8 * (atomTy w).bytes)
    let e := (gNat u (d.toNat + 1)).toNat % 2 ^ (8 * (atomTy w).bytes)
    atomSlot op (atomTy w) d c (addrOf u a x) (BitVec.ofNat 128 v) (if op == .cas then BitVec.ofNat 128 e else 0#128)
      (fun u => sigEvent u (addrOf u a x) (w64 v)) s

/-- ATOM.ADD (R284). -/
def slotAtomAdd (d a : BitVec 6) (c : BitVec 4) (w : BitVec 2) (g : BitVec 4) (x : Option Limm) (s : State) : SlotAnswer :=
  atom1 .add d a c w g x s

def execAtomAdd (d a : BitVec 6) (c : BitVec 4) (w : BitVec 2) (g : BitVec 4) (x : Option Limm) (s : State) :
    Host.Outcome State Fault Refusal :=
  issueOne false false (wordsOf x) false (slotAtomAdd d a c w g x) s

/-- ATOM.MIN (R284). -/
def slotAtomMin (d a : BitVec 6) (c : BitVec 4) (w : BitVec 2) (g : BitVec 4) (x : Option Limm) (s : State) : SlotAnswer :=
  atom1 .min d a c w g x s

def execAtomMin (d a : BitVec 6) (c : BitVec 4) (w : BitVec 2) (g : BitVec 4) (x : Option Limm) (s : State) :
    Host.Outcome State Fault Refusal :=
  issueOne false false (wordsOf x) false (slotAtomMin d a c w g x) s

/-- ATOM.MAX (R284). -/
def slotAtomMax (d a : BitVec 6) (c : BitVec 4) (w : BitVec 2) (g : BitVec 4) (x : Option Limm) (s : State) : SlotAnswer :=
  atom1 .max d a c w g x s

def execAtomMax (d a : BitVec 6) (c : BitVec 4) (w : BitVec 2) (g : BitVec 4) (x : Option Limm) (s : State) :
    Host.Outcome State Fault Refusal :=
  issueOne false false (wordsOf x) false (slotAtomMax d a c w g x) s

/-- ATOM.AND (R284). -/
def slotAtomAnd (d a : BitVec 6) (c : BitVec 4) (w : BitVec 2) (g : BitVec 4) (x : Option Limm) (s : State) : SlotAnswer :=
  atom1 .and d a c w g x s

def execAtomAnd (d a : BitVec 6) (c : BitVec 4) (w : BitVec 2) (g : BitVec 4) (x : Option Limm) (s : State) :
    Host.Outcome State Fault Refusal :=
  issueOne false false (wordsOf x) false (slotAtomAnd d a c w g x) s

/-- ATOM.OR (R284). -/
def slotAtomOr (d a : BitVec 6) (c : BitVec 4) (w : BitVec 2) (g : BitVec 4) (x : Option Limm) (s : State) : SlotAnswer :=
  atom1 .or d a c w g x s

def execAtomOr (d a : BitVec 6) (c : BitVec 4) (w : BitVec 2) (g : BitVec 4) (x : Option Limm) (s : State) :
    Host.Outcome State Fault Refusal :=
  issueOne false false (wordsOf x) false (slotAtomOr d a c w g x) s

/-- ATOM.XOR (R284). -/
def slotAtomXor (d a : BitVec 6) (c : BitVec 4) (w : BitVec 2) (g : BitVec 4) (x : Option Limm) (s : State) : SlotAnswer :=
  atom1 .xor d a c w g x s

def execAtomXor (d a : BitVec 6) (c : BitVec 4) (w : BitVec 2) (g : BitVec 4) (x : Option Limm) (s : State) :
    Host.Outcome State Fault Refusal :=
  issueOne false false (wordsOf x) false (slotAtomXor d a c w g x) s

/-- ATOM.SWAP (R284). -/
def slotAtomSwap (d a : BitVec 6) (c : BitVec 4) (w : BitVec 2) (g : BitVec 4) (x : Option Limm) (s : State) : SlotAnswer :=
  atom1 .swap d a c w g x s

def execAtomSwap (d a : BitVec 6) (c : BitVec 4) (w : BitVec 2) (g : BitVec 4) (x : Option Limm) (s : State) :
    Host.Outcome State Fault Refusal :=
  issueOne false false (wordsOf x) false (slotAtomSwap d a c w g x) s

/-- ATOM.CAS (R284): D the new value, D + 1 the expected one (R38). -/
def slotAtomCas (d a : BitVec 6) (c : BitVec 4) (w : BitVec 2) (g : BitVec 4) (x : Option Limm) (s : State) : SlotAnswer :=
  atom1 .cas d a c w g x s

def execAtomCas (d a : BitVec 6) (c : BitVec 4) (w : BitVec 2) (g : BitVec 4) (x : Option Limm) (s : State) :
    Host.Outcome State Fault Refusal :=
  issueOne false false (wordsOf x) false (slotAtomCas d a c w g x) s

/-- ATOMW (R284): D and D + 1 the new value, D + 2 and D + 3 the expected one (R38). -/
def slotAtomw (d a : BitVec 6) (c : BitVec 4) (g : BitVec 4) (x : Option Limm) (s : State) : SlotAnswer :=
  guarded g s fun s =>
    let u := s.unit
    let word := fun k => (gNat u (d.toNat + k)).setWidth 128
    let va := addrOf u a x
    atomSlot .cas .i128 d c va (word 0 ||| (word 1 <<< 64)) (word 2 ||| (word 3 <<< 64))
      (fun u => sigEvent (sigEvent u va (gReg u d)) (va + 8) (gNat u (d.toNat + 1))) s

def execAtomw (d a : BitVec 6) (c : BitVec 4) (g : BitVec 4) (x : Option Limm) (s : State) : Host.Outcome State Fault Refusal :=
  issueOne false false (wordsOf x) false (slotAtomw d a c g x) s

/-- Bytes of a reduction type (R286). -/
def redBytes (ty : BitVec 2) : Nat :=
  match ty.toNat with
  | 0 => 4
  | 1 => 8
  | 2 => 4
  | _ => 2

/-- RED.ty Gd, [Ga + off] (R286): the lower cause decides (R30). -/
def slotRed (d a : BitVec 6) (c : BitVec 4) (z : BitVec 2) (g : BitVec 4) (x : Option Limm) (s : State) : SlotAnswer :=
  guarded g s fun s =>
    let u := s.unit
    let desc := gNat u (d.toNat + 1)
    let ty := BitVec.ofNat 2 (fld desc 32 2)
    let n := redBytes ty
    let va := addrOf u a x
    if fld desc 34 30 != 0 || fld desc 28 4 != 0 || fld desc 12 4 != 0 || fld desc 16 12 < fld desc 0 12 || sizeBytes z != n then
      .trap 0x2B 0#12
    else if va.toNat % n != 0 then .trap 0x2C 0#12
    else
      drawNs s fun u =>
        let v := w64 ((gReg u d).toNat % 2 ^ (8 * n))
        let kind := AccKind.red ty (BitVec.ofNat 12 (fld desc 16 12)) (BitVec.ofNat 12 (fld desc 0 12)) v
        sigEvent (l1Drop (addAccess u c kind va (blankBytes n)) va.toNat) va v

def execRed (d a : BitVec 6) (c : BitVec 4) (z : BitVec 2) (g : BitVec 4) (x : Option Limm) (s : State) :
    Host.Outcome State Fault Refusal :=
  issueOne false false (wordsOf x) false (slotRed d a c z g x) s

/-! ### WAIT and FENCE -/

/-- Whether a counter is at or below its bound (R220). -/
def boundOk (b : BitVec 4) (n : Nat) : Bool := b == 15#4 || n ≤ b.toNat

/-- WAIT nl, ns, nc, nt (R220). -/
def slotWait (nl ns nc nt : BitVec 4) (g : BitVec 4) (s : State) : SlotAnswer :=
  guarded g s fun s =>
    let u := s.unit
    if boundOk nl u.nl && boundOk ns u.ns && boundOk nc u.nc && boundOk nt u.nt then
      match oldestDeferred u fun d =>
        match d.cls with
        | 0 => nl != 15#4
        | 1 => ns != 15#4
        | 2 => nc != 15#4
        | _ => nt != 15#4 with
      | some d => takeDeferred s d
      | none => .go s
    else .block

def execWait (nl ns nc nt : BitVec 4) (g : BitVec 4) (s : State) : Host.Outcome State Fault Refusal :=
  issueOne false false 1 true (slotWait nl ns nc nt g) s

/-- FENCE.scope mask (R262). -/
def slotFence (scope : BitVec 3) (mask : BitVec 15) (g : BitVec 4) (s : State) : SlotAnswer :=
  guarded g s fun s =>
    .go (pruneFences (s.mapUnit fun u =>
      { u with fences := u.fences ++ [⟨fenceClasses mask, scope, u.nextAcc⟩] }))

def execFence (scope : BitVec 3) (mask : BitVec 15) (g : BitVec 4) (s : State) : Host.Outcome State Fault Refusal :=
  issueOne false false 1 false (slotFence scope mask g) s

end Sys2Proof.Machine
end

