-- ==== Sys2Proof/Machine/Slices.lean ====
section
/-! DEFINITION. What happens to the unit's global accesses at the slices and on the way back (R254, R267 to R273, R279 to
R292, R302, R323, R326). -/

namespace Sys2Proof.Machine

/-! ### Finding and changing accesses -/

def accAt (u : Unit) (id : Nat) : Option Access := u.accs.find? (·.id == id)

/-- An access replaced; fences that have performed are dropped. -/
def setAcc (s : State) (a : Access) : State :=
  pruneFences (s.mapUnit fun u => { u with accs := u.accs.map fun b => if b.id == a.id then a else b })

/-- An access that has returned leaves the access path. -/
def dropAcc (s : State) (id : Nat) : State := pruneFences (s.mapUnit fun u => { u with accs := u.accs.filter (·.id != id) })

def setPart (s : State) (id i : Nat) (f : Part → Part) : State :=
  match accAt s.unit id with
  | some a => setAcc s { a with parts := modAt a.parts i f }
  | none => s

def setStage (s : State) (id i : Nat) (st : PartStage) : State := setPart s id i fun p => { p with stage := st }

/-- Access kind of R316. -/
def AccKind.right : AccKind → Nat
  | .load _ _ => 0
  | .vload _ _ _ => 0
  | .store => 1
  | .drawbase => 1
  | .atom _ _ _ _ _ => 2
  | .red _ _ _ _ => 2

/-- The owner of an access's address for the order of R272: the package that its VA names, or the host (32) where its translation, looked
up without effect, ends at a host page. -/
def homeOwner (s : State) (a : Access) : Nat :=
  if ownerOf a.va != s.pkg.number.toNat then ownerOf a.va
  else
    match (locate s (unitWho s.unit a.cls 0#2) a.va a.kind.right true).2 with
    | .ok (.host _) => 32
    | _ => ownerOf a.va

/-- Whether an earlier access b of the class of a goes before a: always where this package owns both addresses, and for those of a peer or
of the host where one owner has both and b writes (R256, R272). -/
def classOrdered (s : State) (b a : Access) : Bool :=
  let x := homeOwner s a
  let y := homeOwner s b
  if x == s.pkg.number.toNat && y == x then true else x == y && !b.kind.isRead

/-- Whether b and a are contributions to one address and b has come to its home: a may come there too, where both perform with the result of
their group (R271, R287, log 86). -/
def besideRed (b a : Access) : Bool :=
  match b.kind, a.kind with
  | .red _ _ _ _, .red _ _ _ _ => b.va == a.va && b.parts.all fun p => match p.stage with
    | .redOpen _ => true
    | _ => false
  | _, _ => false

/-- Whether an access may begin to perform: no earlier access of the unit that must perform first is outstanding
(R256 to R258), and no FENCE holds it (R262). -/
def mayPerform (s : State) (a : Access) : Bool :=
  let u := s.unit
  (u.accs.all fun b =>
      a.id ≤ b.id || b.performed || besideRed b a
        || !(b.cls == 15#4 || a.cls == 15#4 || shareByte a b || (b.cls == a.cls && classOrdered s b a)))
    && u.fences.all fun f => !fenceHolds u f a.id a.cls

/-- A part that may be taken up by its home now (R256 to R258, R262, R272). -/
def readyPart (s : State) (id i : Nat) : Option (Access × Part) :=
  match accAt s.unit id with
  | none => none
  | some a =>
    match a.parts[i]? with
    | some p => if p.stage == .waiting && mayPerform s a then some (a, p) else none
    | none => none

/-- First byte of a part: its address and its offset in the access. -/
def partVa (a : Access) (p : Part) : W64 := a.va + w64 (nth (p.bytes.map (·.1)) 0 0)

/-- The physical addresses of a part's bytes, its first byte being at pa. -/
def partPas (p : Part) (pa : Nat) : List (Nat × Byte) :=
  let off := nth (p.bytes.map (·.1)) 0 0
  p.bytes.map fun e => (pa + e.1 - off, e.2)

/-- Where another part of the access on the same page already stands that cannot go on: one fault holds them both (R323). -/
def heldBeside (s : State) (a : Access) (va : W64) : Option PartStage :=
  (accAt s.unit a.id).bind fun b => b.parts.findSome? fun p =>
    if p.va.toNat / 4096 != va.toNat / 4096 then none
    else match p.stage with
      | .parked h k => some (.parked h k)
      | .aborted c => some (.aborted c)
      | _ => none

/-- A part that cannot go on: parked, or aborted (R306, R323). -/
def stopPart (s : State) (a : Access) (i : Nat) (va : W64) (e : XStop) : State :=
  match heldBeside s a va with
  | some st => setStage s a.id i st
  | none =>
    match hold s (unitWho s.unit a.cls 0#2) va a.kind.right (.access a.id i) e with
    | (s, .parked h k) => setStage s a.id i (.parked h k)
    | (s, .aborted c) => setStage s a.id i (.aborted c)

/-- A part aborted because the host port cannot complete it (R323). -/
def hostFail (s : State) (a : Access) (i : Nat) (va : W64) : State :=
  setStage (hostError s (unitWho s.unit a.cls 0#2) va a.kind.right) a.id i (.aborted 9#4)

/-- A part aborted because the owner package has ended its fault by ABORT (R324). -/
def peerFail (s : State) (a : Access) (i : Nat) : State := setStage s a.id i (.aborted (Config.abortCode s.freeCtr))

/-- A part whose bytes have been read. -/
def partRead (s : State) (id i : Nat) (f : Nat → Byte) : State :=
  setPart s id i fun p => { p with bytes := p.bytes.map fun e => (e.1, f e.1), stage := .done }

/-! ### Reads (R268, R292, R302) -/

/-- A read that has been translated to main memory, ordered at slice h (R292), each 16-byte part a request of its own (R281, log 38). Its line
leaves the L1, so that no later read is served from a copy older than what this one returns (R260). -/
def orderRead (s : State) (h : BitVec 6) (a : Access) (i : Nat) (p : Part) (pa key : Nat) : State :=
  let pas := (partPas p pa).map (·.1)
  match badSector s pa p.bytes.length with
  | some x => setStage (meetBad s x) a.id i (.aborted (Config.abortCode s.freeCtr))
  | none =>
    let s := s.mapUnit fun u => l1Drop u p.va.toNat
    let (s, onNet) := lineRead s h key (pa / 128) pas [(a.id, i)] []
    setStage s a.id i (if onNet then .packet else .merging h)

/-- A read at its home slice: translated, then served, merged, passed to a pin slice, to the host or to a peer. -/
def readAtSlice (s : State) (a : Access) (i : Nat) (p : Part) : State :=
  let va := partVa a p
  match locate s (unitWho s.unit a.cls 0#2) va 0 true with
  | (s, .error e) => stopPart s a i va e
  | (s, .ok (.mem pa key z)) =>
    if isPinned s pa then setStage s a.id i (.atPin pa)
    else orderRead (if z then allocZero s (homeSlice va.toNat) [pa] else s) (homeSlice va.toNat) a i p pa key
  | (s, .ok (.host _)) =>
    if s.pkg.link && Config.hostAnswers s.freeCtr then
      partRead { s with freeCtr := s.freeCtr + 1 } a.id i fun o => Config.hostByte (s.freeCtr * 2 ^ 10 + o)
    else hostFail { s with freeCtr := s.freeCtr + 1 } a i va
  | (s, .ok (.peer _)) =>
    let s' := { s with freeCtr := s.freeCtr + 1 }
    if Config.peerAnswers s.freeCtr then partRead s' a.id i fun o => Config.peerByte (s.freeCtr * 2 ^ 10 + o) else peerFail s a i

/-- A read that found every merge group in use proceeds once one is free (R292): the oldest such read of the slice. -/
def execMergeGroupWait (slice : BitVec 6) (s : State) : Host.Outcome State Fault Refusal :=
  .next
    (match s.groups.find? fun g => g.queued && g.slice == slice with
    | none => s
    | some g =>
      if Config.mergeGroups ≤ groupsAt s slice && !(s.groups.any fun o => !o.queued && o.line == g.line && o.open_) then s
      else
        let s := { s with groups := s.groups.erase g }
        let pas := (upto 0 4).flatMap fun i => if g.sectors.getLsbD i then upto (128 * g.line + 32 * i) 32 else []
        let (s, onNet) := lineRead s slice g.key g.line (pas.filter fun a => (llcByte s a).isNone) g.members g.puts
        if onNet then g.members.foldl (fun s m => setStage s m.1 m.2 .packet) s else s)

/-- R292. -/
def execSectorFillComplete (slice : BitVec 6) (line : Nat) (s : State) : Host.Outcome State Fault Refusal :=
  let gs := s.groups.filter fun g => !g.queued && g.slice == slice && g.line == line
  .next (gs.foldl (fun s g => g.members.foldl (fun s m => setStage s m.1 m.2 .packet) s) (completeFill s slice line))

/-- Bytes of a line written to the scratchpad of a logical core (R302). -/
def ladleWrite (s : State) (line : List Byte) (p : LadlePut) : State :=
  let bs := (line.drop p.off).take p.len
  if p.core == s.unit.cr.lcore.toNat then s.mapUnit fun u => { u with pad := padPut u.pad p.addr bs }
  else
    match mget s.peers p.core with
    | some d => { s with peers := mset s.peers p.core (padPut d p.addr bs) }
    | none => s

/-- A merged read takes its bytes from the packet's line (R302). The L1 then holds the line (R276), unless the home has ordered a write to
it since, or an invalidation that waits for this read has begun (R320). -/
def packetRead (s : State) (k : Packet) (m : Nat × Nat) : State :=
  match accAt s.unit m.1 with
  | none => s
  | some a =>
    let s' := partRead s m.1 m.2 fun o => nth k.data ((a.va + w64 o).toNat % 128) 0#8
    let stale := memBytes s' (keyOf s' (slotPart s' s'.unit.cr.asidSlot)) (128 * k.line) 128 != k.data
    if stale || s.tpend.any fun t => t.accs.contains a.id then s'
    else
      match a.parts[m.2]? with
      | some p => l1Alloc s' p.va.toNat k.data
      | none => s'

/-! ### Writes (R269, R273, R279) -/

/-- A write posted to a peer or to the host (R273). -/
def postWrite (s : State) (a : Access) (i : Nat) (p : Part) (package : Nat) : State :=
  setStage (s.mapUnit fun u => { u with posted := u.posted ++ [⟨package, a.cls, a.id, partVa a p⟩] }) a.id i .done

/-- The write of DRAWBASE in the job record (R404). -/
def writeDrawbase (s : State) (p : Part) : State :=
  let key := jobKey s.unit.cr.part s.unit.cr.job
  match mget s.jobs key with
  | some j => { s with jobs := mset s.jobs key { j with drawBase := BitVec.ofNat 128 (leNat (p.bytes.map (·.2))) } }
  | none => s

/-- A write ordered at slice h. -/
def orderWrite (s : State) (h : BitVec 6) (a : Access) (i : Nat) (p : Part) (pa : Nat) : State :=
  let s := homeWrite s h (partPas p pa)
  let s := s.mapUnit fun u =>
    p.bytes.foldl (fun u e => l1Write u u.cr.asidSlot u.cr.asidGen (a.va + w64 e.1).toNat [e.2]) u
  setStage s a.id i .done

/-- A write at its home slice. -/
def writeAtSlice (s : State) (a : Access) (i : Nat) (p : Part) : State :=
  let va := partVa a p
  match locate s (unitWho s.unit a.cls 0#2) va 1 true with
  | (s, .error e) => stopPart s a i va e
  | (s, .ok (.mem pa _ z)) =>
    if isPinned s pa then setStage s a.id i (.atPin pa)
    else orderWrite (if z then allocZero s (homeSlice va.toNat) [pa] else s) (homeSlice va.toNat) a i p pa
  | (s, .ok (.host _)) =>
    if s.pkg.link && Config.hostAnswers s.freeCtr then postWrite { s with freeCtr := s.freeCtr + 1 } a i p 32
    else hostFail { s with freeCtr := s.freeCtr + 1 } a i va
  | (s, .ok (.peer n)) => postWrite s a i p n

/-! ### Atomics (R284, R285) -/

/-- Bytes as one number, and the low n bytes of a number. -/
def atomOld (bs : List Byte) : Nat := leNat bs

/-- The value an atomic writes, or none for a CAS that fails (R284). -/
def atomNew (op : AtomOp) (ty : AtomTy) (old v expected : Nat) : Option Nat :=
  let w := 8 * ty.bytes
  match op with
  | .add =>
    match ty with
    | .f32 => some (addF fp32 old v).1
    | .bf16 => some (addF bf16 old v).1
    | _ => some ((old + v) % 2 ^ w)
  | .min => some (if sint w old ≤ sint w v then old else v)
  | .max => some (if sint w v ≤ sint w old then old else v)
  | .and => some (old &&& v)
  | .or => some (old ||| v)
  | .xor => some (old ^^^ v)
  | .swap => some v
  | .cas => if old == expected then some v else none

/-- What a host page supports (R285). -/
def hostAtomOk (op : AtomOp) (ty : AtomTy) : Bool :=
  match op, ty with
  | .add, .i32 => true
  | .add, .i64 => true
  | .swap, .i32 => true
  | .swap, .i64 => true
  | .cas, .i32 => true
  | .cas, .i64 => true
  | .cas, .i128 => true
  | _, _ => false

/-- The read and the write of an atomic, as one step at slice h (R267, R284): the bytes read. -/
def atomAt (s : State) (h : BitVec 6) (key pa : Nat) (op : AtomOp) (ty : AtomTy) (v e : BitVec 128) : State × List Byte :=
  let n := ty.bytes
  let (s, bs) := wholeRead s h key (pa / 128) (upto pa n) []
  (match atomNew op ty (leNat bs) v.toNat e.toNat with
    | some x => homeWrite s h ((upto pa n).zip (leBytes x n))
    | none => s, bs)

/-- The unit's atomic at slice h; no line that the L1 has taken since it issued keeps older bytes than it read or wrote (R260). -/
def orderAtom (s : State) (h : BitVec 6) (a : Access) (p : Part) (pa key : Nat) (op : AtomOp) (ty : AtomTy) (v e : BitVec 128) : State :=
  match badSector s pa ty.bytes with
  | some x => setStage (meetBad s x) a.id 0 (.aborted (Config.abortCode s.freeCtr))
  | none =>
    let (s, bs) := atomAt s h key pa op ty v e
    partRead (s.mapUnit fun u => l1Drop u a.va.toNat) a.id 0 fun o => nth bs (o - nth (p.bytes.map (·.1)) 0 0) 0#8

/-- An atomic at its home. -/
def atomAtSlice (s : State) (a : Access) (p : Part) (op : AtomOp) (ty : AtomTy) (v e : BitVec 128) : State :=
  match locate s (unitWho s.unit a.cls 0#2) a.va 2 true with
  | (s, .error er) => stopPart s a 0 a.va er
  | (s, .ok (.mem pa key z)) =>
    if isPinned s pa then setStage s a.id 0 (.atPin pa)
    else orderAtom (if z then allocZero s (homeSlice a.va.toNat) [pa] else s) (homeSlice a.va.toNat) a p pa key op ty v e
  | (s, .ok (.host _)) =>
    let s' := { s with freeCtr := s.freeCtr + 1 }
    if !hostAtomOk op ty then setStage s' a.id 0 (.aborted (Config.abortCode s.freeCtr))
    else if s.pkg.link && Config.hostAnswers s.freeCtr then partRead s' a.id 0 fun o => Config.hostByte (s.freeCtr * 2 ^ 10 + o)
    else hostFail s' a 0 a.va
  | (s, .ok (.peer _)) =>
    let s' := { s with freeCtr := s.freeCtr + 1 }
    if Config.peerAnswers s.freeCtr then partRead s' a.id 0 fun o => Config.peerByte (s.freeCtr * 2 ^ 10 + o) else peerFail s a 0

/-! ### Ordered reductions (R113, R286 to R288) -/

/-- One addition of a fold (R113). -/
def redAdd (ty : BitVec 2) (x y : Nat) : Nat :=
  match ty.toNat with
  | 0 => (x + y) % 2 ^ 32
  | 1 => (x + y) % 2 ^ 64
  | 2 => (addF fp32 x y).1
  | _ => (addF bf16 x y).1

/-- The fold of contributions in ascending rank (R113). -/
def redFold (ty : BitVec 2) (held : SMap W64) : Nat :=
  match held with
  | [] => 0
  | (_, v) :: rest => rest.foldl (fun acc e => redAdd ty acc e.2.toNat) v.toNat

/-- Contribution entries in use at a slice. -/
def redUsed (s : State) (h : BitVec 6) : Nat :=
  (s.reds.filter (·.slice == h)).foldl (fun n g => n + g.nm1.toNat + 1) 0

/-- Whether a slice can open a group of nm1 + 1 contributions (R287). -/
def redRoom (s : State) (h : BitVec 6) (nm1 : BitVec 12) : Bool :=
  (s.reds.filter (·.slice == h)).length < Config.redGroups && redUsed s h + nm1.toNat + 1 ≤ Config.redEntries

/-- A group that holds every rank writes its result and acknowledges its contributions (R287); the L1 keeps no older copy (R260). -/
def redComplete (s : State) (g : RedGroup) : State :=
  if g.held.length < g.nm1.toNat + 1 then s
  else
    let n := redBytes g.ty
    let s := { s with reds := s.reds.erase g }
    let s := (homeWrite s g.slice ((upto g.pa n).zip (leBytes (redFold g.ty g.held) n))).mapUnit fun u => l1Drop u g.va.toNat
    g.accs.foldl (fun s id => setStage s id 0 .done) s

/-- What a contribution brings (R286). -/
structure RedPart where
  ty   : BitVec 2
  nm1  : BitVec 12
  rank : BitVec 12
  v    : W64
deriving DecidableEq, Repr

/-- The stage of a contribution: the unit's own access takes it; what another agent's has come to goes back to that agent. -/
def redStage (s : State) (q : Requester) (st : PartStage) : State :=
  match q with
  | .unit acc => setStage s acc 0 st
  | _ => s

/-- The own access of a contribution, as its group acknowledges it. -/
def ownAcc (q : Requester) : List Nat :=
  match q with
  | .unit acc => [acc]
  | _ => []

/-- A contribution at its home slice h, of an address space and address, translated to pa (R287). -/
def redPlace (s : State) (h : BitVec 6) (q : Requester) (slot : BitVec 12) (gen : BitVec 4) (va : W64) (pa : Nat) (c : RedPart) : State :=
  match s.reds.find? fun g => g.slot == slot && g.gen == gen && g.va == va with
  | some g =>
    if g.ty != c.ty || g.nm1 != c.nm1 || (mget g.held c.rank.toNat).isSome then redStage s q .refused
    else
      let g' := { g with held := mset g.held c.rank.toNat c.v, accs := g.accs ++ ownAcc q }
      redComplete (redStage { s with reds := s.reds.map fun o => if o == g then g' else o } q (.redOpen h)) g'
  | none =>
    if redRoom s h c.nm1 then
      let g : RedGroup := ⟨h, slot, gen, va, pa, c.ty, c.nm1, [(c.rank.toNat, c.v)], ownAcc q⟩
      redComplete (redStage { s with reds := s.reds ++ [g] } q (.redOpen h)) g
    else redStage { s with redWait := s.redWait ++ [(h, q)] } q (.redOpen h)

/-- A contribution of the unit translated at the home slice of its address. -/
def redAtSlice (s : State) (a : Access) (c : RedPart) : State :=
  match locate s (unitWho s.unit a.cls 0#2) a.va 2 true with
  | (s, .error e) => stopPart s a 0 a.va e
  | (s, .ok (.mem pa _ z)) =>
    if isPinned s pa then setStage s a.id 0 (.atPin pa)
    else
      redPlace (if z then allocZero s (homeSlice a.va.toNat) [pa] else s) (homeSlice a.va.toNat) (.unit a.id) s.unit.cr.asidSlot
        s.unit.cr.asidGen a.va pa c
  | (s, .ok _) => setStage { s with freeCtr := s.freeCtr + 1 } a.id 0 (.aborted (Config.abortCode s.freeCtr))

/-! ### Requests of agents outside the modelled core (R253, R272, R285, R287, R310) -/

/-- What such a request asks for. -/
def requestOf (q : Requester) : Option AgentReq :=
  match q with
  | .unit _ => none
  | .read r _ => some r
  | .write r _ => some r
  | .atom r _ _ _ _ => some r
  | .red r _ _ _ _ => some r

/-- The identity under which it is translated here: its own slot and generation (R310). -/
def agentWho (s : State) (r : AgentReq) : Who :=
  ⟨r.slot, r.gen, r.cls, r.unit, r.agent, some (r.cluster, r.pcore), if r.package == s.pkg.number then none else some (r.package.setWidth 16), []⟩

def requestWho (s : State) (q : Requester) : Who := ((requestOf q).map (agentWho s)).getD (unitWho s.unit 0#4 0#2)

/-- Its access kind (R316), and its size in bytes. -/
def requestKind (q : Requester) : Nat :=
  match q with
  | .read _ _ => 0
  | .write _ _ => 1
  | _ => 2

def requestSize (q : Requester) : Nat :=
  match q with
  | .unit _ => 0
  | .read _ n => n
  | .write _ bs => bs.length
  | .atom _ _ ty _ _ => ty.bytes
  | .red _ ty _ _ _ => redBytes ty

/-- A read of an agent outside the core, line by line: served, merged or a fill started like any other (R292). What it returns goes to
its requester. -/
def agentRead (s : State) (w : Who) (va : W64) (n : Nat) : State :=
  (linePieces (n / 128 + 2) va n).foldl (fun s (a, k) =>
    match locate s w a 0 true with
    | (t, .ok (.mem pa key z)) =>
      let h := homeOf t a.toNat pa
      (lineRead (if z then allocZero t h [pa] else t) h key (pa / 128) (upto pa k) [] []).1
    | _ => (readPiece s w 0 a k).1) s

/-- Its atomic at the home here (R285); to a host page as R285 and R323 give. -/
def agentAtom (s : State) (w : Who) (va : W64) (op : AtomOp) (ty : AtomTy) (v e : BitVec 128) : State :=
  match locate s w va 2 true with
  | (s, .ok (.mem pa key z)) =>
    let h := homeOf s va.toNat pa
    (atomAt (if z then allocZero s h [pa] else s) h key pa op ty v e).1
  | (s, .ok (.host _)) =>
    let s' := { s with freeCtr := s.freeCtr + 1 }
    if hostAtomOk op ty && !(s.pkg.link && Config.hostAnswers s.freeCtr) then hostError s' w va 2 else s'
  | _ => s

/-- Its contribution at the home here (R287); one to a host page has no effect here (R288). -/
def agentRed (s : State) (q : Requester) (w : Who) (va : W64) (c : RedPart) : State :=
  match locate s w va 2 true with
  | (s, .ok (.mem pa _ z)) =>
    let h := homeOf s va.toNat pa
    redPlace (if z then allocZero s h [pa] else s) h q w.slot w.gen va pa c
  | _ => s

/-- Whether a request reaches a home here: its address is this package's, and its package is this one or of the domain (R272); a peer's
request under a slot of a partition in reset is aborted (R487). -/
def requestComes (s : State) (r : AgentReq) : Bool :=
  fld r.va 52 5 == s.pkg.number.toNat
    && (r.package == s.pkg.number
      || (s.pkg.members.getLsbD r.package.toNat && (mget s.pkg.resets (slotPart s r.slot).toNat).isNone))

/-- A request of an agent outside the modelled core at its home, translated under this package's entry for its slot; a fault parks it here
(R310, R323). -/
def agentServe (s : State) (q : Requester) : State :=
  match requestOf q with
  | none => s
  | some r =>
    if !requestComes s r then s
    else
      let w := agentWho s r
      match vcheck s w (requestKind q) [(r.va, requestSize q)] with
      | (s, .stop va x) => (hold s w va (requestKind q) (.agent q) x).1
      | (s, .ok _) =>
        match q with
        | .unit _ => s
        | .read _ n => agentRead s w r.va n
        | .write _ bs => (vwrite s w false r.va bs).1
        | .atom _ op ty v e => agentAtom s w r.va op ty v e
        | .red _ ty nm1 rank v => agentRed s q w r.va ⟨ty, nm1, rank, v⟩

/-! ### Requests at the slices -/

/-- R292: of the unit's own access, or of a read of an agent outside the modelled core. -/
def execSliceReadRequest (who : Requester) (part : Nat) (s : State) : Host.Outcome State Fault Refusal :=
  .next
    (match who with
    | .read .. => agentServe s who
    | .unit acc =>
      match readyPart s acc part with
      | some (a, p) => if a.kind.isRead then readAtSlice s a part p else s
      | none => s
    | _ => s)

/-- R279: of the unit's own access, or of a write of an agent outside the modelled core. -/
def execSliceWriteRequest (who : Requester) (part : Nat) (s : State) : Host.Outcome State Fault Refusal :=
  .next
    (match who with
    | .write .. => agentServe s who
    | .unit acc =>
      match readyPart s acc part with
      | some (a, p) =>
        match a.kind with
        | .store => writeAtSlice s a part p
        | .drawbase => setStage (writeDrawbase s p) a.id part .done
        | _ => s
      | none => s
    | _ => s)

/-- R284: of the unit's own atomic, or of one of an agent outside the modelled core. -/
def execSliceAtomic (who : Requester) (s : State) : Host.Outcome State Fault Refusal :=
  .next
    (match who with
    | .atom .. => agentServe s who
    | .unit acc =>
      match readyPart s acc 0 with
      | some (a, p) =>
        match a.kind with
        | .atom op ty _ v e => atomAtSlice s a p op ty v e
        | _ => s
      | none => s
    | _ => s)

/-- R287: of the unit's own contribution, or of one of an agent outside the modelled core. -/
def execRedContribution (who : Requester) (s : State) : Host.Outcome State Fault Refusal :=
  .next
    (match who with
    | .red .. => agentServe s who
    | .unit acc =>
      match readyPart s acc 0 with
      | some (a, _) =>
        match a.kind with
        | .red ty nm1 rank v => redAtSlice s a ⟨ty, nm1, rank, v⟩
        | _ => s
      | none => s
    | _ => s)

/-- A contribution that waited goes to its group, or opens one (R287). -/
def redRetry (s : State) (slice : BitVec 6) (q : Requester) : State :=
  match q with
  | .red r ty nm1 rank v => agentRed s q (agentWho s r) r.va ⟨ty, nm1, rank, v⟩
  | .unit acc =>
    match accAt s.unit acc with
    | none => s
    | some a =>
      match a.kind with
      | .red ty nm1 rank v =>
        match locate s (unitWho s.unit a.cls 0#2) a.va 2 true with
        | (s, .ok (.mem pa _ _)) => redPlace s slice (.unit a.id) s.unit.cr.asidSlot s.unit.cr.asidGen a.va pa ⟨ty, nm1, rank, v⟩
        | (s, .ok _) => setStage { s with freeCtr := s.freeCtr + 1 } a.id 0 (.aborted (Config.abortCode s.freeCtr))
        | (s, .error e) => stopPart s a 0 a.va e
      | _ => s
  | _ => s

/-- The address space and address of a waiting contribution, and its NM1. -/
def redWaiting (s : State) (q : Requester) : Option (BitVec 12 × BitVec 4 × W64 × BitVec 12) :=
  match q with
  | .red r _ nm1 _ _ => some (r.slot, r.gen, r.va, nm1)
  | .unit acc => (accAt s.unit acc).bind fun a => match a.kind with
    | .red _ nm1 _ _ => some (s.unit.cr.asidSlot, s.unit.cr.asidGen, a.va, nm1)
    | _ => none
  | _ => none

/-- The first contribution that waits at a slice opens its group, or joins one that stands open now (R287). -/
def execRedWaitOpen (slice : BitVec 6) (s : State) : Host.Outcome State Fault Refusal :=
  .next
    (match s.redWait.find? (·.1 == slice) with
    | none => s
    | some w =>
      let s' := { s with redWait := s.redWait.erase w }
      match redWaiting s w.2 with
      | none => s'
      | some (slot, gen, va, nm1) =>
        if redRoom s slice nm1 || (s.reds.any fun g => g.slot == slot && g.gen == gen && g.va == va) then redRetry s' slice w.2 else s)

/-! ### Pinned frames (R280) -/

/-- An access passed on to a frame's pin slice is ordered and performed there. -/
def execPinSliceAccess (acc part : Nat) (s : State) : Host.Outcome State Fault Refusal :=
  .next
    (match accAt s.unit acc with
    | none => s
    | some a =>
      match a.parts[part]? with
      | none => s
      | some p =>
        match p.stage with
        | .atPin pa =>
          let h := homeSlice pa
          let key := keyOf s (slotPart s s.unit.cr.asidSlot)
          match a.kind with
          | .load _ _ => orderRead s h a part p pa key
          | .vload _ _ _ => orderRead s h a part p pa key
          | .store => orderWrite s h a part p pa
          | .atom op ty _ v e => orderAtom s h a p pa key op ty v e
          | .red ty nm1 rank v => redPlace s h (.unit a.id) s.unit.cr.asidSlot s.unit.cr.asidGen a.va pa ⟨ty, nm1, rank, v⟩
          | .drawbase => s
        | _ => s)

/-! ### Answers to the unit (R33, R218, R324, R325) -/

/-- The bytes of an access by offset. -/
def accBytes (a : Access) : List (Nat × Byte) := a.parts.flatMap (·.bytes)

/-- Value of n bytes of an access from an offset. -/
def accValue (a : Access) (off n : Nat) : Nat :=
  leNat ((upto off n).map fun o => ((accBytes a).find? (·.1 == o)).elim 0#8 (·.2))

/-- The code of the first part that has been aborted. -/
def abortedCode (a : Access) : Option (BitVec 4) :=
  a.parts.findSome? fun p => match p.stage with
    | .aborted c => some c
    | _ => none

/-- An aborted access stays with the unit until a deferred trap takes it (R220, R325). -/
def deferAbort (u : Unit) (a : Access) (cls : Nat) (code : BitVec 4) : Unit :=
  { u with deferred := u.deferred ++ [⟨a.id, cls, 0x2D#8, code, a.va, none, 0⟩] }

/-- The bits that a VLDG writes, and their data (R284). -/
def vloadWrite (a : Access) (mask : W64) (z : Bool) : VReg × VReg :=
  let (bits, data, _) := build 32 0 fun i =>
    if mask.getLsbD i then some (accValue a (4 * i) 4, 0#6) else if z then some (0, 0#6) else none
  (BitVec.ofNat 2048 bits, BitVec.ofNat 2048 data)

/-- What a load or an atomic writes (R33, R283, R284). -/
def accDests (a : Access) : List Dest :=
  match a.kind with
  | .load d n => [.g d (w64 (accValue a 0 n))]
  | .atom _ ty d _ _ =>
    .g d (w64 (accValue a 0 (min ty.bytes 8))) :: (if ty.bytes == 16 then [.g (d + 1) (w64 (accValue a 8 8))] else [])
  | .vload d mask z => let (bits, data) := vloadWrite a mask z; [.v d bits data]
  | _ => []

/-- What is left of a write where another of the same issue cycle stands over it (R34). -/
def Dest.less (d over_ : Dest) : Dest :=
  match d, over_ with
  | .g r x, .g q _ => .g (if r == q then 0#6 else r) x
  | .v r bits data, .v q b _ => .v r (if r == q then bits &&& ~~~b else bits) data
  | d, _ => d

/-- The results that an answered access leaves of those issued before it that land with it or not later than m (R34). -/
def supersede (a : Access) (m : Nat) (ls : List Landing) : List Landing :=
  ls.map fun l => if l.due ≤ m && l.ord ≤ a.id then { l with dest := (accDests a).foldl Dest.less l.dest } else l

/-- What of an access's value still stands beside the results of later bundles and slots that have landed in the same issue cycle (R34). -/
def standing (a : Access) (landed : List Landing) : List Dest :=
  (accDests a).map fun d => (landed.filter fun l => a.id < l.ord).foldl (fun d l => d.less l.dest) d

/-- Writes of G and V registers in order. -/
def putDests (u : Unit) (ds : List Dest) : Unit :=
  ds.foldl (fun u d => match d with
    | .g r v => setG u r v
    | .v r bits data => setV u r bits data
    | _ => u) u

/-- A load's or an atomic's value in its destination (R33, R283, R284). -/
def landValue (u : Unit) (a : Access) : Unit := putDests u (accDests a)

/-- The same as results that have landed in the issue cycle. -/
def asLanded (u : Unit) (a : Access) : List Landing := (accDests a).map fun d => ⟨u.cyc, a.id, d, 0#6⟩

/-- The value of an access in the area's images too: of a frozen unit, and in the scalar copy of a diverted program for an access
that it issued before the divert, whose snapshot entries of REM 0 land in the same issue cycle (R34, R49, R379). -/
def landArea (s : State) (a : Access) : State :=
  let u := s.unit
  let frozen := match u.run with
    | .frozen _ => !u.cr.pending
    | _ => false
  { s with area := s.area.map fun r =>
      if frozen || (u.cr.pending && a.id < r.before) then
        { r with
          scalar := { r.scalar with g := (putDests { u with g := r.scalar.g } (standing a r.landed)).g }
          v := if frozen then (putDests { u with v := r.v } (standing a r.landed)).v else r.v
          snapshot := supersede a 0 r.snapshot, landed := r.landed ++ asLanded u a }
      else r }

/-- The counter that an access draws on: 0 NL, 1 NS. -/
def AccKind.counter : AccKind → Nat
  | .load _ _ => 0
  | .vload _ _ _ => 0
  | .atom _ _ _ _ _ => 0
  | _ => 1

/-- The pool entry of an answered access comes back (R218). -/
def poolBack (u : Unit) (a : Access) : Unit :=
  if a.kind.counter == 0 then { u with nl := u.nl - 1 } else { u with ns := u.ns - 1 }

/-- The answer of an access whose parts have all been resolved: its value, its pool entry, its error (R218, R324). Of what lands in one
issue cycle the result of the later bundle or slot stands (R34). -/
def answerAcc (s : State) (a : Access) : State :=
  let s := (dropAcc s a.id).mapUnit fun u => poolBack u a
  match abortedCode a with
  | some c => s.mapUnit fun u => deferAbort u a a.kind.counter c
  | none =>
    if a.parts.any (·.stage == .refused) then s.mapCr fun c => { c with redref := true }
    else (landArea s a).mapUnit fun u =>
      { putDests u (standing a u.ctx.landed) with
        landing := supersede a u.cyc u.landing, ctx.landed := u.ctx.landed ++ asLanded u a }

/-- Whether every part has an answer. -/
def Access.resolved (a : Access) : Bool :=
  a.parts.all fun p => match p.stage with
    | .done => true
    | .refused => true
    | .aborted _ => true
    | _ => false

/-- The parts of a read served from the L1, where each of its lines stands there within the bound (R260, R276). -/
def l1Serve (u : Unit) (a : Access) : Option Access :=
  let served := a.parts.map fun p =>
    match p.stage, l1Lookup u a.cls p.va.toNat with
    | .waiting, some l =>
      some { p with
        bytes := p.bytes.map fun e => (e.1, BitVec.ofNat 8 (l.data.toNat / 2 ^ (8 * ((a.va + w64 e.1).toNat % 128))))
        stage := .done }
    | _, _ => none
  if served.all Option.isSome then some { a with parts := served.filterMap id } else none

/-- R218: the response of a load or atomic; a read may be served from the L1 instead of its slice (R260). -/
def execLoadResponse (acc : Nat) (s : State) : Host.Outcome State Fault Refusal :=
  .next
    (match accAt s.unit acc with
    | none => s
    | some a =>
      if a.kind.counter != 0 then s
      else if a.resolved then answerAcc s a
      else if a.kind.isRead && mayPerform s a then
        match l1Serve s.unit a with
        | some a' => answerAcc s a'
        | none => s
      else s)

/-- R218: the acknowledgement of a write or of a RED contribution. -/
def execStoreAck (acc : Nat) (s : State) : Host.Outcome State Fault Refusal :=
  .next
    (match accAt s.unit acc with
    | none => s
    | some a => if a.kind.counter == 1 && a.resolved then answerAcc s a else s)

/-! ### Peers, the host, faults (R273, R323, R326) -/

/-- The FENCE whose earlier accesses have performed and that waits for the flush of a package. -/
def flushFence (u : Unit) (package : Nat) : Option MemFence :=
  u.fences.find? fun f =>
    3 ≤ f.scope.toNat && (package < 32 || f.scope == 4#3)
      && !(u.accs.any fun a => a.id < f.before && f.classes.getLsbD a.cls.toNat && !a.performed)
      && u.posted.any fun p => p.package == package && p.id < f.before && f.classes.getLsbD p.cls.toNat

/-- The release whose accesses have been ordered and that waits for the flush of writes posted to a package (R264). Like a FENCE it sends a
flush read (log 79). -/
def flushRelease (u : Unit) (package : Nat) : Option Release :=
  u.rels.find? fun l =>
    Machine.performed u 0 l.accs && u.posted.any fun p => p.package == package && p.holds l.scope && l.accs.contains p.id

/-- The posted writes that the flush read returning from a package has flushed: those of a FENCE, of a release (R264, R273), or, at the host,
of an invalidation that waits for the writes translated before it (R320, log 79). -/
def flushedBy (s : State) (package : Nat) : Posted → Bool :=
  match flushFence s.unit package with
  | some f => fun p => p.package == package && p.id < f.before && f.classes.getLsbD p.cls.toNat
  | none =>
    match flushRelease s.unit package with
    | some l => fun p => p.package == package && l.accs.contains p.id
    | none => fun p => package == 32 && p.package == 32 && s.tpend.any fun t => t.accs.contains p.id

/-- A flushed write to a peer whose fault there its partition has ended by ABORT comes back as an aborted access (R324). -/
def flushOne (s : State) (p : Posted) : State :=
  let aborted := p.package != 32 && !Config.peerAnswers s.freeCtr
  let d : Deferred := ⟨p.id, 1, 0x2D#8, Config.abortCode s.freeCtr, p.va, none, 0⟩
  { s with freeCtr := s.freeCtr + 1, unit := { s.unit with deferred := if aborted then s.unit.deferred ++ [d] else s.unit.deferred } }

/-- R273: the flush read to a peer package, or to the host (32), returns; the writes of its FENCE or release before it are flushed. -/
def execFlushReadReturn (package : BitVec 6) (s : State) : Host.Outcome State Fault Refusal :=
  .next
    (let gone := flushedBy s package.toNat
    pruneFences ((s.unit.posted.filter gone).foldl flushOne (s.mapUnit fun u => { u with posted := u.posted.filter fun p => !gone p })))

/-- R323: an access to a host page that the host port cannot complete. -/
def execHostPortError (acc part : Nat) (s : State) : Host.Outcome State Fault Refusal :=
  .next
    (match readyPart s acc part with
    | none => s
    | some (a, p) =>
      match locate s (unitWho s.unit a.cls 0#2) (partVa a p) a.kind.right true with
      | (s', .ok (.host _)) => hostFail s' a part (partVa a p)
      | _ => s)

/-- R323: system software has taken the oldest record of a full fault ring, and the first record held at the slice for
that ring is written. -/
def execFaultRecordRelease (slice : BitVec 6) (s : State) : Host.Outcome State Fault Refusal :=
  .next
    (match s.heldFlt.find? (·.2.slice == slice) with
    | none => s
    | some r =>
      let ring := s.faults.filter (·.1 == r.1)
      let taken := match ring with
        | o :: _ => if faultCap s r.1 ≤ ring.length then s.faults.erase o else s.faults
        | [] => s.faults
      { s with
        faults := taken ++ [r], heldFlt := s.heldFlt.erase r
        ringOut := mset s.ringOut r.1.toNat ((mget s.ringOut r.1.toNat).getD 0 + (s.faults.length - taken.length)) })

/-- R326: the zeroing of a leaf's frames has finished, and the controller clears Z; big: the leaf is a 2 MiB leaf. -/
def execZeroFillDone (leafPa : Nat) (big : Bool) (s : State) : Host.Outcome State Fault Refusal :=
  if Config.mainBytes < leafPa + 8 then .fault (.noSuchAddress leafPa)
  else
    let key := (mget s.dramKey (leafPa / 32)).getD 0
    let x := dramRead8 s key leafPa
    if !(fbit x 0 && fbit x 1 && fbit x 8 && !fbit x 9) then .next s
    else
      let f0 := if big then fld x 21 31 * 512 else fld x 12 40
      let n := if big then 512 else 1
      let s := touchZero s f0 n leafPa
      let s := dramWrite s key leafPa (leBytes (x &&& ~~~0x100#64).toNat 8)
      .next { s with
        zeroing := s.zeroing.filter (·.2.2 != leafPa)
        tlb := s.tlb.map fun e => if overlap e.pa e.size (4096 * f0) (4096 * n) then { e with leaf := e.leaf &&& ~~~0x100#64 } else e }

end Sys2Proof.Machine
end

