-- ==== Sys2Proof/Machine/Copies.lean ====
section
/-! DEFINITION. The copy engines (R227 to R252, R290, R291). -/

namespace Sys2Proof.Machine

/-! ### Commands -/

/-- Local descriptors (R228). -/
def ldRing (d : W64) : Bool := fbit d 63
def ldQ (d : W64) : BitVec 6 := BitVec.ofNat 6 (fld d 56 6)
def ldPitch (d : W64) : Nat := fld d 40 16
def ldCore (d : W64) : Nat := fld d 21 4
def ldAddr (d : W64) : Nat := fld d 0 21

/-- Whether the zero fields of a local descriptor are zero; cl: the far side of .CL, where RCORE is used. -/
def ldZero (d : W64) (cl : Bool) : Bool :=
  fld d 62 1 == 0 && fld d 25 15 == 0 && (cl || ldCore d == 0) && !(ldRing d && ldAddr d != 0)

/-- What a copy moves from and to (R235). -/
inductive CopyForm where
  | g2l | l2g | l2l | push | pull | pePush | pePull
deriving DecidableEq, Repr

/-- A copy: near and far local descriptors, origin, handle, control word; the right it needs at the handle; the rows' own
indices of a gather; DMASK of a ladle read. -/
structure CopyOp where
  form   : CopyForm
  near   : W64
  far    : W64
  o0     : Int
  o1     : Int
  o2     : Nat
  o3     : Nat
  handle : Nat
  ctl    : W64
  right  : Nat
  idx    : Option (List W32)
  ladle  : Option Nat
deriving DecidableEq, Repr

def CopyOp.e0 (o : CopyOp) : Nat := fld o.ctl 0 16 + 1
def CopyOp.e1 (o : CopyOp) : Nat := fld o.ctl 16 16 + 1
def CopyOp.t (o : CopyOp) : Bool := fbit o.ctl 58
/-- Elements per row and rows of the destination (R233). -/
def CopyOp.dn (o : CopyOp) : Nat := if o.t then o.e1 else o.e0
def CopyOp.dr (o : CopyOp) : Nat := if o.t then o.e0 else o.e1

/-- Whether a handle is the far side. -/
def CopyOp.usesHandle (o : CopyOp) : Bool :=
  match o.form with
  | .l2l => false
  | .push => false
  | .pull => false
  | _ => true

/-- A copy that names a handle (R229). -/
def handleOp (form : CopyForm) (near far0 far1 ctl : W64) (right : Nat) : CopyOp :=
  { form := form, near := near, far := 0#64, o0 := sxInt (fld far0 0 32) 32, o1 := sxInt (fld far0 32 32) 32
    o2 := fld far1 32 16, o3 := fld far1 48 16, handle := fld far1 0 16, ctl := ctl, right := right, idx := none, ladle := none }

def localOp (form : CopyForm) (near far ctl : W64) : CopyOp :=
  { form := form, near := near, far := far, o0 := 0, o1 := 0, o2 := 0, o3 := 0, handle := 0, ctl := ctl, right := 0
    idx := none, ladle := none }

/-- The copy of a command of CQ0, CQ1, FQW or FQN. -/
def copyOp (c : Cmd) : Option CopyOp :=
  match c with
  | .cpyG2l near far0 far1 ctl gx idx =>
    some { handleOp .g2l near far0 far1 ctl 0 with
      idx := if fld gx 56 2 == 2 then some idx else none
      ladle := if fld gx 56 2 == 1 then some (fld gx 0 16) else none }
  | .cpyL2g near far0 far1 ctl => some (handleOp .l2g near far0 far1 ctl 1)
  | .cpyL2l near far ctl => some (localOp .l2l near far ctl)
  | .cpyCl near far ctl => some (localOp (if fbit ctl 57 then .pull else .push) near far ctl)
  | .cpyPe near far0 far1 ctl =>
    some (if fbit ctl 57 then handleOp .pePull near far0 far1 ctl 0 else handleOp .pePush near far0 far1 ctl 1)
  | .panel _ _ p d0 d1 =>
    some { handleOp .g2l (w64 (2 ^ 63 + fld d0 16 6 * 2 ^ 56)) 0#64 (w64 (fld d0 0 16)) (w64 (63 * 2 ^ 16 + 31)) 2 with
      o0 := fld d1 32 32 + 32 * p, o1 := fld d1 0 32 }
  | _ => none

/-- The own ring a copy consumes from (R235, R236). -/
def CopyOp.srcRing (o : CopyOp) : Option (BitVec 6) :=
  let d := match o.form with
    | .l2g => o.near
    | .push => o.near
    | .pePush => o.near
    | .l2l => o.far
    | _ => 0#64
  if ldRing d then some (ldQ d) else none

/-- The core and ring a copy produces into, ladle reads apart (R235, R236). -/
def CopyOp.dstRing (o : CopyOp) (own : Nat) : Option (Nat × BitVec 6) :=
  match o.form with
  | .g2l => if ldRing o.near && o.ladle.isNone then some (own, ldQ o.near) else none
  | .l2l => if ldRing o.near then some (own, ldQ o.near) else none
  | .pull => if ldRing o.near then some (own, ldQ o.near) else none
  | .pePull => if ldRing o.near then some (own, ldQ o.near) else none
  | .push => if ldRing o.far then some (ldCore o.far, ldQ o.far) else none
  | _ => none

/-! ### Geometry (R156, R159, R231, R233, R238) -/

/-- Elements of a block or group of a format; 1 where the format has no scale. -/
def blockSize (w : W64) : Nat := if fmtMx (fmtOf w) then 32 else if fmtAsym (fmtOf w) then gsize (fld w 8 2) else 1

/-- Bytes of a block's metadata. -/
def metaBytes (w : W64) : Nat := if fmtMx (fmtOf w) then 1 else if fmtAsym (fmtOf w) then 4 else 0

/-- Metadata of a missing element (R160). -/
def metaNone (w : W64) : Nat := if fmtMx (fmtOf w) then 0x7F else if fmtAsym (fmtOf w) then 0x3C00 else 0

def ceilDiv (a b : Nat) : Nat := (a + b - 1) / b

/-- Row bytes of n elements. -/
def rowBytes (w : W64) (n : Nat) : Nat := ceilDiv (n * fmtBits (fmtOf w)) 8

/-- n elements padded to whole blocks. -/
def padBlock (w : W64) (n : Nat) : Nat := ceilDiv n (blockSize w) * blockSize w

/-- Bytes between row starts. -/
def rowStride (w : W64) (pitch n : Nat) : Nat := if pitch == 0 then rowBytes w n else pitch

/-- Bytes of a local range of rows rows of n elements; a destination runs to the end of its padding (R231). -/
def spanOf (w : W64) (pitch n rows : Nat) (dst : Bool) : Nat :=
  (rows - 1) * rowStride w pitch n + rowBytes w (if dst then padBlock w n else n)

/-! ### Checks at issue (R231, R152, R290, R291) -/

/-- The format of the bank where a local descriptor of this core lies. -/
def descFmt (p : Pad) (d : W64) : W64 :=
  if ldRing d then ((ringAt p (ldQ d)).map fun r => bankFmt p r.base).getD 0#64 else bankFmt p (ldAddr d)

/-- The causes of a local side of rows rows of n elements; dst: a destination; lad: of a ladle read; near: the near side, whose range
must stay within its slot or bank. The far range of a .L2L that leaves them ends the copy with a bounds fault instead (R248, log 78). -/
def sideCauses (u : Unit) (d : W64) (dst lad near : Bool) (n rows : Nat) : List Nat :=
  let w := descFmt u.pad d
  let span := spanOf w (ldPitch d) n rows dst
  (if ldZero d false then [] else [0x23])
    ++ (if ldPitch d != 0 && ldPitch d < rowBytes w n && !(ldRing d && (ringAt u.pad (ldQ d)).isNone) then [0x23] else [])
    ++ (if ldRing d then
          if lad then []
          else
            match ringAt u.pad (ldQ d) with
            | none => [0x23]
            | some r =>
              if (dst && !mayProduce u r) || (!dst && (r.cons != 1 || r.thr != 1)) || (near && r.size < span) then [0x23] else []
        else
          (if padOk u.pad.banks (ldAddr d) (min span (Config.padBytes - ldAddr d)) then [] else [0x17])
            ++ (if !near || ldAddr d % Config.bankBytes + span ≤ Config.bankBytes then [] else [0x23]))

/-- The local range of a copy that issues now, as [address, bytes). In a ring it is the slot that the copy comes to when the entries
before it in the copy queues have acted on the ring and nobody else does (log 78). -/
def sideRange (u : Unit) (d : W64) (dst : Bool) (n rows : Nat) : Option (Nat × Nat) :=
  let span := spanOf (descFmt u.pad d) (ldPitch d) n rows dst
  if !ldRing d then some (ldAddr d, span)
  else
    (ringAt u.pad (ldQ d)).map fun r =>
      let ops := (u.cq0 ++ u.cq1).filter fun e =>
        match copyOp e.cmd with
        | none => false
        | some o =>
          if dst then e.stage == .waiting && o.dstRing u.cr.lcore.toNat == some (u.cr.lcore.toNat, ldQ d) else o.srcRing == some (ldQ d)
      (r.addr (if dst then r.adv r.rsv ops.length else r.adv r.head (ops.length + r.goneCount)), span)

/-- The causes of a control word in a form (R230, R231): T allowed, DIR allowed, CH allowed. -/
def ctlCauses (ctl : W64) (t dir ch : Bool) : List Nat :=
  if fld ctl 32 22 != 0 || (fbit ctl 58 && !t) || (fbit ctl 57 && !dir) || (fld ctl 54 3 != 0 && !ch) || 4 < fld ctl 54 3
      || (fbit ctl 58 && (64 ≤ fld ctl 0 16 || 64 ≤ fld ctl 16 16)) then [0x23] else []

/-- The lowest of the causes decides (R30); else the command goes on. -/
def lowestCause (cs : List Nat) (code : Nat → BitVec 12) (go : SlotAnswer) : SlotAnswer :=
  match cs with
  | [] => go
  | c :: rest => let m := rest.foldl min c; .trap m (code m)

/-- The class of a copy (R230). -/
def copyClass (p : Pad) (near ctl : W64) : BitVec 4 :=
  BitVec.ofNat 4 (if fbit ctl 59 then fld ctl 60 4 else fld (descFmt p near) 56 4)

/-- The queue of the engine slot in issue: EA serves CQ0, EB serves CQ1 (R19, R227). -/
def copyQueue (s : State) : Nat := if s.unit.ctx.ea then 0 else 1

/-- Local addresses of the gather's index list (R290). -/
def gatherIdx (u : Unit) (ctl : W64) : List W32 :=
  (upto 0 (fld ctl 16 16 + 1)).map fun r => w32 (padRead u.pad (fld u.cr.gxmode 16 21 + 4 * r) 4)

/-- The causes under which a CPY.G2L does not issue (R231, R289 to R291). -/
def g2lCauses (u : Unit) (near far0 far1 ctl : W64) : List Nat :=
  let mode := fld u.cr.gxmode 56 2
  let o := handleOp .g2l near far0 far1 ctl 0
  let rows := fld ctl 16 16 + 1
  let dmask := fld u.cr.gxmode 0 16
  ctlCauses ctl true false false
    ++ (if fld far1 16 16 == 0 then [] else [0x23])
    ++ sideCauses u near true (mode == 1) true o.dn o.dr
    ++ (if mode == 1 && (dmask == 0 || !((upto 0 16).all fun i => !dmask.testBit i || inGang u i) || o.t) then [0x23] else [])
    ++ (if mode == 2 && (16 < rows || o.t) then [0x23] else [])
    ++ (if mode == 2 && !padOk u.pad.banks (fld u.cr.gxmode 16 21) (4 * min rows 16) then [0x17] else [])

/-- CPY.G2L Ga, Gb, Gc (R227, R231, R289 to R291). -/
def slotCpyG2l (a b c : BitVec 6) (g : BitVec 4) (s : State) : SlotAnswer :=
  guarded g s fun s =>
    let u := s.unit
    let near := gReg u a
    let far0 := gReg u b
    let far1 := gNat u (b.toNat + 1)
    let ctl := gReg u c
    lowestCause (g2lCauses u near far0 far1 ctl) (fun _ => 0#12)
      (issueCmd s (copyQueue s) (copyClass u.pad near ctl)
        (.cpyG2l near far0 far1 ctl u.cr.gxmode (if fld u.cr.gxmode 56 2 == 2 then gatherIdx u ctl else [])))

def execCpyG2l (a b c : BitVec 6) (g : BitVec 4) (s : State) : Host.Outcome State Fault Refusal :=
  issueOne true false 1 false (slotCpyG2l a b c g) s

/-- The event of a CPY.L2G in the signature (R355): its data word is known when the copy completes. -/
def copySig (u : Unit) (ord : Nat) (far0 far1 : W64) : Unit :=
  if u.launch.paired then
    { u with sig := u.sig ++ [⟨w64 (fld far1 0 16 * 2 ^ 48 + fld far0 32 16 * 2 ^ 32 + fld far0 0 32), 0#64, some ord⟩] }
  else u

/-- The causes under which a CPY.L2G does not issue (R231). -/
def l2gCauses (u : Unit) (near far1 ctl : W64) : List Nat :=
  ctlCauses ctl false false false ++ (if fld far1 16 16 == 0 then [] else [0x23])
    ++ sideCauses u near false false true (fld ctl 0 16 + 1) (fld ctl 16 16 + 1)

/-- CPY.L2G (R227, R231). -/
def slotCpyL2g (a b c : BitVec 6) (g : BitVec 4) (s : State) : SlotAnswer :=
  guarded g s fun s =>
    let u := s.unit
    let near := gReg u a
    let far0 := gReg u b
    let far1 := gNat u (b.toNat + 1)
    let ctl := gReg u c
    lowestCause (l2gCauses u near far1 ctl) (fun _ => 0#12)
      (match issueCmd s (copyQueue s) (copyClass u.pad near ctl) (.cpyL2g near far0 far1 ctl) with
      | .go s' => .go (s'.mapUnit fun u' => copySig u' u.nextAcc far0 far1)
      | r => r)

def execCpyL2g (a b c : BitVec 6) (g : BitVec 4) (s : State) : Host.Outcome State Fault Refusal :=
  issueOne true false 1 false (slotCpyL2g a b c g) s

/-- Whether the two local sides of a CPY.L2L share a byte or name one ring (R231). -/
def sidesMeet (u : Unit) (near far ctl : W64) : Bool :=
  let o := localOp .l2l near far ctl
  (ldRing near && ldRing far && ldQ near == ldQ far)
    || (match sideRange u near true o.dn o.dr, sideRange u far false o.e0 o.e1 with
      | some (x, n), some (y, m) => overlap x n y m
      | _, _ => false)

/-- The causes under which a CPY.L2L does not issue (R231). -/
def l2lCauses (u : Unit) (near far ctl : W64) : List Nat :=
  let o := localOp .l2l near far ctl
  ctlCauses ctl true false false ++ sideCauses u near true false true o.dn o.dr ++ sideCauses u far false false false o.e0 o.e1
    ++ (if sidesMeet u near far ctl then [0x23] else [])

/-- CPY.L2L (R227, R231). -/
def slotCpyL2l (a b c : BitVec 6) (g : BitVec 4) (s : State) : SlotAnswer :=
  guarded g s fun s =>
    let u := s.unit
    let near := gReg u a
    let far := gReg u b
    let ctl := gReg u c
    lowestCause (l2lCauses u near far ctl) (fun _ => 0#12) (issueCmd s (copyQueue s) (copyClass u.pad near ctl) (.cpyL2l near far ctl))

def execCpyL2l (a b c : BitVec 6) (g : BitVec 4) (s : State) : Host.Outcome State Fault Refusal :=
  issueOne true false 1 false (slotCpyL2l a b c g) s

/-- The causes of the far descriptor of CPY.CL (R228, R231, R235). -/
def farCauses (s : State) (far ctl : W64) : List Nat :=
  let o := localOp .push 0#64 far ctl
  let n := if fbit ctl 57 then o.e0 else o.dn
  (if ldZero far true && inGang s.unit (ldCore far) && !(fbit ctl 57 && ldRing far) then [] else [0x23])
    ++ (match padOf s (ldCore far) with
      | none => []
      | some p =>
        if ldPitch far != 0 && ldPitch far < rowBytes (descFmt p far) n && !(ldRing far && (ringAt p (ldQ far)).isNone) then [0x23]
        else [])

/-- The causes under which a CPY.CL does not issue (R231, R298). -/
def clCauses (s : State) (near far ctl : W64) : List Nat :=
  let u := s.unit
  let pull := fbit ctl 57
  let o := localOp .push near far ctl
  let reach := slotReaching u.launch.slots u.cr.lcore.toNat fun m => m == 2 ^ ldCore far
  ctlCauses ctl pull true false
    ++ (if pull then sideCauses u near true false true o.dn o.dr else sideCauses u near false false true o.e0 o.e1)
    ++ farCauses s far ctl ++ (if reach then [] else [0x29])

/-- CPY.CL (R227, R231, R298): RCORE is the CODE of cause 0x29 (R58). -/
def slotCpyCl (a b c : BitVec 6) (g : BitVec 4) (s : State) : SlotAnswer :=
  guarded g s fun s =>
    let u := s.unit
    let near := gReg u a
    let far := gReg u b
    let ctl := gReg u c
    lowestCause (clCauses s near far ctl) (fun m => if m == 0x29 then BitVec.ofNat 12 (ldCore far) else 0#12)
      (issueCmd s (copyQueue s) (copyClass u.pad near ctl) (.cpyCl near far ctl))

def execCpyCl (a b c : BitVec 6) (g : BitVec 4) (s : State) : Host.Outcome State Fault Refusal :=
  issueOne true false 1 false (slotCpyCl a b c g) s

/-- The causes under which a CPY.PE does not issue (R231, R354). -/
def peCauses (u : Unit) (near far1 ctl : W64) : List Nat :=
  ctlCauses ctl false true true ++ (if fld far1 16 16 == 0 then [] else [0x23])
    ++ sideCauses u near (fbit ctl 57) false true (fld ctl 0 16 + 1) (fld ctl 16 16 + 1)
    ++ (if u.launch.paired then [0x31] else [])

/-- CPY.PE (R227, R231, R240, R354). -/
def slotCpyPe (a b c : BitVec 6) (g : BitVec 4) (s : State) : SlotAnswer :=
  guarded g s fun s =>
    let u := s.unit
    let near := gReg u a
    let far0 := gReg u b
    let far1 := gNat u (b.toNat + 1)
    let ctl := gReg u c
    lowestCause (peCauses u near far1 ctl) (fun _ => 0#12) (issueCmd s (copyQueue s) (copyClass u.pad near ctl) (.cpyPe near far0 far1 ctl))

def execCpyPe (a b c : BitVec 6) (g : BitVec 4) (s : State) : Host.Outcome State Fault Refusal :=
  issueOne true false 1 false (slotCpyPe a b c g) s

/-! ### Elements of a box (R159, R160, R233, R234) -/

/-- A box element: its code, its block's metadata, and whether it is present. -/
structure Cell where
  code    : Nat
  meta_   : Nat
  present : Bool
deriving DecidableEq, Repr

def Cell.missing (w : W64) : Cell := ⟨0, metaNone w, false⟩

/-- The b-bit field at bit p from byte a of a scratchpad. -/
def padBits (p : Pad) (a bit b : Nat) : Nat := padRead p (a + bit / 8) ((bit % 8 + b + 7) / 8) / 2 ^ (bit % 8) % 2 ^ b

/-- The local address of the metadata of block n of the bank at bank start bank, where it lies in the scale region (R159, R160). -/
def metaAt (w : W64) (bank n : Nat) : Option Nat :=
  let at_ := 64 * fld w 16 11 + metaBytes w * n
  if 64 * (fld w 16 11 + fld w 32 12) < at_ + metaBytes w then none else some (bank + at_)

/-- The first byte of the bank of a local address. -/
def bankStart (a : Nat) : Nat := a / Config.bankBytes * Config.bankBytes

/-- The number of the block, in its bank, that begins at local address a. -/
def firstBlock (w : W64) (a : Nat) : Nat := a % Config.bankBytes * 8 / fmtBits (fmtOf w) / blockSize w

/-- A row of n elements from local address a of a bank with format w. -/
def localCells (p : Pad) (w : W64) (a n : Nat) : List Cell :=
  let b := fmtBits (fmtOf w)
  (upto 0 n).map fun e =>
    if metaBytes w == 0 then ⟨padBits p a (e * b) b, 0, true⟩
    else
      match metaAt w (bankStart a) (firstBlock w a + e / blockSize w) with
      | some m => ⟨padBits p a (e * b) b, padRead p m (metaBytes w), true⟩
      | none => .missing w

/-- Codes packed at b bits each (R86). -/
def packCodes (b : Nat) (cs : List Nat) : List Byte :=
  if b % 8 == 0 then cs.flatMap fun c => leBytes c (b / 8)
  else leBytes (cs.foldr (fun c v => c % 2 ^ b + 2 ^ b * v) 0) (ceilDiv (cs.length * b) 8)

/-- A row written from local address a: whole blocks, each with its metadata; a block whose metadata lies outside the
scale region is dropped (R160, R238). -/
def putRow (p : Pad) (w : W64) (a : Nat) (cells : List Cell) : Pad :=
  let b := fmtBits (fmtOf w)
  let k := blockSize w
  if metaBytes w == 0 then padPut p a (packCodes b (cells.map (·.code)))
  else
    let blocks := chunks k (cells.length + 1) cells
    ((upto 0 blocks.length).zip blocks).foldl (fun p (j, cs) =>
      match metaAt w (bankStart a) (firstBlock w a + j) with
      | none => p
      | some m =>
        let p := padPut p (a + j * (k * b / 8)) (packCodes b (cs.map (·.code) ++ List.replicate (k - cs.length) 0))
        padWrite p m (metaBytes w) (nth (cs.map (·.meta_)) 0 (metaNone w))) p

/-- Rows written at a local range. -/
def putRows (p : Pad) (w : W64) (a pitch : Nat) (rows : List (List Cell)) : Pad :=
  let n := (nth rows 0 []).length
  ((upto 0 rows.length).zip rows).foldl (fun p (r, cs) => putRow p w (a + r * rowStride w pitch n) cs) p

/-- Rows read from a local range. -/
def localRows (p : Pad) (w : W64) (a pitch n rows : Nat) : List (List Cell) :=
  (upto 0 rows).map fun r => localCells p w (a + r * rowStride w pitch n) n

/-! ### The handle side (R234, R245, R246) -/

/-- The in-bounds part of a box row: elements lo to hi − 1; the VA and count of its bytes and of its metadata; its first
byte counted from the row's start; its first block. -/
structure HRow where
  lo  : Nat
  hi  : Nat
  va  : W64
  n   : Nat
  off : Nat
  mva : W64
  mn  : Nat
  blk : Nat
deriving DecidableEq, Repr

/-- Dimension 1 index of box row r; a gather takes it from its list (R290). -/
def CopyOp.row (o : CopyOp) (r : Nat) : Int :=
  match o.idx with
  | some l => o.o1 + (nth l r 0#32).toInt
  | none => o.o1 + r

/-- The in-bounds part of box row r, none where the row has none. -/
def hRow (o : CopyOp) (h : Handle) (r : Nat) : Option HRow :=
  let i1 := o.row r
  let d := fun i => nth h.dims i 1
  let lo := (max 0 (-o.o0)).toNat
  let hi := (min (o.e0 : Int) ((d 0 : Int) - o.o0)).toNat
  if i1 < 0 || (d 1 : Int) ≤ i1 || d 2 ≤ o.o2 || d 3 ≤ o.o3 || hi ≤ lo then none
  else
    let b := fmtBits h.fmt
    let k := blockSize h.word
    let first := (o.o0 + lo).toNat
    let last := (o.o0 + hi).toNat
    let off := first * b / 8
    let rho := i1.toNat + d 1 * (o.o2 + d 2 * o.o3)
    let b0 := first / k
    let b1 := (last - 1) / k
    some
      { lo := lo, hi := hi, va := h.rowVa i1 o.o2 o.o3 off, n := ceilDiv (last * b) 8 - off, off := off
        mva := w64 ((h.scaleva + metaBytes h.word * (rho * ceilDiv (d 0) k + b0)) % 2 ^ 57)
        mn := if metaBytes h.word == 0 then 0 else metaBytes h.word * (b1 - b0 + 1), blk := b0 }

def hRows (o : CopyOp) (h : Handle) : List (Option HRow) := (upto 0 o.e1).map (hRow o h)

/-- Whether an element of the box lies out of bounds. -/
def outOfBounds (o : CopyOp) (rows : List (Option HRow)) : Bool :=
  rows.any fun r => match r with
    | none => true
    | some x => x.lo != 0 || x.hi != o.e0

/-- The ranges a box touches in memory. -/
def hRanges (rows : List (Option HRow)) : List (W64 × Nat) :=
  rows.flatMap fun r => match r with
    | none => []
    | some x => rowRuns x.va x.n ++ (if x.mn == 0 then [] else rowRuns x.mva x.mn)

/-- A row of cells from a row's bytes and metadata. -/
def hCells (o : CopyOp) (h : Handle) (x : HRow) (bs ms : List Byte) : List Cell :=
  let b := fmtBits h.fmt
  let v := leNat bs
  let k := metaBytes h.word
  (upto 0 o.e0).map fun e =>
    if e < x.lo || x.hi ≤ e then .missing h.word
    else
      let i := (o.o0 + e).toNat
      ⟨v / 2 ^ (i * b - 8 * x.off) % 2 ^ b,
        if k == 0 then 0 else leNat ((ms.drop (k * (i / blockSize h.word - x.blk))).take k), true⟩

/-- The statistics of a gather (R281, R290): at each home slice one request and one response, whatever the number of its rows. -/
def gatherStats (before after : Vector SliceStats 64) : Vector SliceStats 64 :=
  Vector.ofFn fun i =>
    let b := before[i]
    let a := after[i]
    if a == b then a
    else { a with hits := if a.fills == b.fills && a.merged == b.merged then b.hits + 1 else b.hits, resp := b.resp + 1 }

/-- The box read at its handle. -/
def hRead (s : State) (w : Who) (kind : Nat) (o : CopyOp) (h : Handle) : List (Option HRow) → State × Xfer (List (List Cell))
  | [] => (s, .ok [])
  | r :: rest =>
    let here : State × Xfer (List Cell) :=
      match r with
      | none => (s, .ok (List.replicate o.e0 (.missing h.word)))
      | some x =>
        match rowRead s w kind x.va x.n with
        | (s, .stop va e) => (s, .stop va e)
        | (s, .ok bs) =>
          match rowRead s w kind x.mva x.mn with
          | (s, .stop va e) => (s, .stop va e)
          | (s, .ok ms) => (s, .ok (hCells o h x bs ms))
    match here with
    | (s, .stop va e) => (s, .stop va e)
    | (s, .ok cs) =>
      match hRead s w kind o h rest with
      | (s, .stop va e) => (s, .stop va e)
      | (s, .ok more) => (s, .ok (cs :: more))

/-- The bytes of a row at its handle, and of its metadata (R234, R238): in-bounds codes, 0 around them in shared bytes. -/
def hBytes (o : CopyOp) (h : Handle) (x : HRow) (cells : List Cell) : List Byte × List Byte :=
  let b := fmtBits h.fmt
  let k := blockSize h.word
  let v := (upto x.lo (x.hi - x.lo)).foldl (fun v e =>
    v + (nth cells e (.missing h.word)).code % 2 ^ b * 2 ^ ((o.o0 + e).toNat * b - 8 * x.off)) 0
  (leBytes v x.n,
    if metaBytes h.word == 0 then []
    else (upto 0 (x.mn / metaBytes h.word)).flatMap fun j =>
      let e : Int := (((x.blk + j) * k : Nat) : Int) - o.o0
      leBytes (nth (cells.map (·.meta_)) (max e x.lo).toNat (metaNone h.word)) (metaBytes h.word))

/-- The box written at its handle, dropping what is out of bounds; where two elements name one byte, either is allowed,
and a free choice decides (R234). -/
def hWrite (s : State) (w : Who) (o : CopyOp) (h : Handle) (rows : List (Option HRow)) (cells : List (List Cell)) :
    State × Xfer PUnit :=
  let pairs := rows.zip cells
  let pairs := if Config.firstWins s.freeCtr then pairs.reverse else pairs
  pairs.foldl (fun (s, res) (r, cs) =>
    match res, r with
    | .stop _ _, _ => (s, res)
    | _, none => (s, res)
    | .ok _, some x =>
      let (bs, ms) := hBytes o h x cs
      match rowWrite s w true x.va bs with
      | (s, .stop va e) => (s, .stop va e)
      | (s, .ok _) => rowWrite s w true x.mva ms) ({ s with freeCtr := s.freeCtr + 1 }, .ok ⟨⟩)

/-! ### Transform chains (R163, R237 to R239) -/

inductive Chain where
  | same | store | load
deriving DecidableEq, Repr

/-- The chain of a pair of formats, none where it is a format error (R104, R164, R237). -/
def chainOf (sw dw : W64) (t : Bool) : Option Chain :=
  let sf := fmtOf sw
  let df := fmtOf dw
  if sf == df && (sf != 8 || xvalOf sw == xvalOf dw) && (!fmtAsym sf || gsize (fld sw 8 2) == gsize (fld dw 8 2)) then
    if t && !(sf < 3 || sf == 12) then none else some .same
  else if fmtMx df && df != 8 then (if t then none else some .store)
  else if df < 3 || df == 12 then some .load
  else none

/-- The exact value of a cell; a missing one is +0 (R160, R237). -/
def cellNum (w : W64) (c : Cell) : Num :=
  if !c.present then .fin false 0 0
  else if fmtMx (fmtOf w) then decodeMx (fmtOf w) (xvalOf w) c.code c.meta_
  else if fmtAsym (fmtOf w) then decodeAsym c.code (c.meta_ % 65536) (c.meta_ / 65536 % 256)
  else decodeElem (fmtOf w) 0 c.code

/-- A cell converted by the load-side chain, with its flags: a NaN cell sets NANSEEN, also one that an infinite scale makes
(log 72). -/
def loadCell (sw : W64) (df : Nat) (c : Cell) : Cell × BitVec 6 :=
  let x := cellNum sw c
  let (code, fl) := match fmtFloat df with
    | some f => rneF f x
    | none => toInt32 false x
  (⟨code, 0, c.present⟩, if c.present then fl ||| flagIf x.isNan flagNAN else 0#6)

/-- A row converted by the store-side chain, block by block, with its flags. -/
def storeRow (sw : W64) (df : Nat) (row : List Cell) : List Cell × BitVec 6 :=
  (chunks 32 (row.length + 1) row).foldl (fun (out, fl) cs =>
    let (sc, els) := quantBlock df (cs.map (cellNum sw) ++ List.replicate (32 - cs.length) (.fin false 0 0))
    let done := (cs.zip els).map fun (c, e) => ((⟨e.1, sc, c.present⟩ : Cell), if c.present then e.2 else 0#6)
    (out ++ done.map (·.1), done.foldl (fun f d => f ||| d.2) fl)) ([], 0#6)

/-- The rows converted, with the flags of the elements present (R237, R239). -/
def convertRows (ch : Chain) (sw : W64) (df : Nat) (rows : List (List Cell)) : List (List Cell) × BitVec 6 :=
  match ch with
  | .same => (rows, 0#6)
  | .load =>
    let out := rows.map fun r => r.map (loadCell sw df)
    (out.map fun r => r.map (·.1), out.foldl (fun f r => r.foldl (fun f c => f ||| c.2) f) 0#6)
  | .store =>
    let out := rows.map (storeRow sw df)
    (out.map (·.1), out.foldl (fun f r => f ||| r.2) 0#6)

/-- Rows transposed (R233). -/
def transpose (n : Nat) (rows : List (List Cell)) : List (List Cell) :=
  (upto 0 n).map fun e => rows.map fun r => nth r e ⟨0, 0, false⟩

/-- Whether the rows of a local side start on block boundaries (R238). -/
def localAligned (w : W64) (a pitch n rows : Nat) : Bool :=
  metaBytes w == 0 || (upto 0 rows).all fun r =>
    (a + r * rowStride w pitch n) % Config.bankBytes * 8 % (blockSize w * fmtBits (fmtOf w)) == 0

/-- Whether a box is aligned at its handle (R238). -/
def handleAligned (o : CopyOp) (h : Handle) : Bool :=
  metaBytes h.word == 0
    || (o.o0 % blockSize h.word == 0 && (o.e0 % blockSize h.word == 0 || ((nth h.dims 0 1 : Nat) : Int) ≤ o.o0 + o.e0))

/-! ### Sides of a copy in progress -/

/-- A local side: its core, its first byte, its bank's format, its descriptor. -/
structure LocalSide where
  core : Nat
  addr : Nat
  fmt  : W64
  desc : W64
deriving DecidableEq, Repr

/-- The format of a bank of a core: of the own core as its command took it at issue (R158). -/
def sideFmt (s : State) (e : QEntry) (core addr : Nat) : W64 :=
  if core == s.unit.cr.lcore.toNat then nth e.fmts.toList (addr / Config.bankBytes) 0#64
  else match mget s.peers core with
    | some p => bankFmt p addr
    | none => 0#64

/-- The source and destination of a copy that are local, given the addresses it took. -/
def sidesOf (s : State) (e : QEntry) (o : CopyOp) (src dst : Nat) : Option LocalSide × Option LocalSide :=
  let own := s.unit.cr.lcore.toNat
  let side := fun core a d => some (⟨core, a, sideFmt s e core a, d⟩ : LocalSide)
  match o.form with
  | .g2l => (none, side own dst o.near)
  | .l2g => (side own src o.near, none)
  | .l2l => (side own src o.far, side own dst o.near)
  | .push => (side own src o.near, side (ldCore o.far) dst o.far)
  | .pull => (side (ldCore o.far) src o.far, side own dst o.near)
  | .pePush => (side own src o.near, none)
  | .pePull => (none, side own dst o.near)

/-- The formats of source and destination. -/
def formatsOf (h : Handle) (src dst : Option LocalSide) : W64 × W64 :=
  match src, dst with
  | some a, some b => (a.fmt, b.fmt)
  | none, some b => (h.word, b.fmt)
  | some a, none => (a.fmt, h.word)
  | none, none => (h.word, h.word)

/-- The first violation of R248 once the handle has been read, and of R236 and R237 for copies within and between cores: a KIND. -/
def copyKind (s : State) (o : CopyOp) (h : Handle) (src dst : Option LocalSide) : Option Nat :=
  let (sw, dw) := formatsOf h src dst
  let pe := o.form == .pePush || o.form == .pePull
  let peer := h.base / 2 ^ 52 % 32
  let unsuited := if pe then h.tgt == 0 || (h.tgt == 1 && peer == s.pkg.number.toNat) else h.tgt != 0
  let farBad := fun (x : Option LocalSide) (n rows : Nat) (isDst : Bool) =>
    match x with
    | none => false
    | some y =>
      let span := spanOf y.fmt (ldPitch y.desc) n rows isDst
      match padOf s y.core with
      | none => true
      | some p =>
        if ldRing y.desc then
          match ringAt p (ldQ y.desc) with
          | none => true
          | some r => !ringPermits r s.unit.cr.lcore.toNat || r.size < span
        else !padOk p.banks y.addr span
  let farOut := o.form == .l2l && (match src with
    | none => false
    | some y =>
      let span := spanOf y.fmt (ldPitch y.desc) o.e0 o.e1 false
      if ldRing y.desc then ((ringAt s.unit.pad (ldQ y.desc)).elim 0 (·.size)) < span else !padOk s.unit.pad.banks y.addr span)
  if o.usesHandle && (!h.ok || unsuited) then some 0x24
  else if o.usesHandle && !h.rights.testBit o.right then some 0x25
  else if o.usesHandle && h.fault && outOfBounds o (hRows o h) then some 0x26
  else if (o.form == .push && farBad dst o.dn o.dr true) || (o.form == .pull && farBad src o.e0 o.e1 false) || farOut then some 0x26
  else if pe && (fmtOf sw != fmtOf dw || fmtOf sw == 8 || fmtAsym (fmtOf sw)) then some 0x27
  else if (chainOf sw dw o.t).isNone then some 0x27
  else if o.usesHandle && !handleAligned o h then some 0x27
  else if (src.map fun x => localAligned x.fmt x.addr (ldPitch x.desc) o.e0 o.e1) == some false
      || (dst.map fun x => localAligned x.fmt x.addr (ldPitch x.desc) o.dn o.dr) == some false then some 0x27
  else none

/-! ### Beginning (R206, R232, R236, R243, R248) -/

/-- The agent that makes the accesses of an entry of queue i. -/
def copyWho (s : State) (i : Nat) (e : QEntry) : Who :=
  { unitWho s.unit e.cls (if i < 2 then 1#2 else 2#2) with op := [(e.ord, 0)] }

/-- Access kind of a copy's reads: a feeder's need FEED (R316). -/
def readKind (i : Nat) : Nat := if i < 2 then 0 else 3

def parkOf (i : Nat) : Parked := if i < 2 then .copy (i == 1) else .panel (i == 3)

/-- Class of the deferred trap of queue i: NC, or the feeder that needs the panel. -/
def copyCls (i : Nat) : Nat := if i < 2 then 2 else i + 1

/-- Slots at HEAD of an own ring that are no engine's to take any more: those that copies have fired on and not freed, and those freed
before an earlier one (R206). -/
def takenFrom (u : Unit) (q : BitVec 6) (r : Ring) : Nat :=
  ((u.cq0 ++ u.cq1).filter fun e => e.stage != .waiting && (copyOp e.cmd).bind CopyOp.srcRing == some q).length + r.goneCount

/-- The index of the n slots of a ring of core c on which an engine fires, where they are filled and no copy has taken them (R206). -/
def fireAt (s : State) (c : Nat) (q : BitVec 6) (n : Nat) : Option (Ring × W16) :=
  (engRing s c q).bind fun r =>
    let k := if c == s.unit.cr.lcore.toNat then takenFrom s.unit q r else r.goneCount
    if r.filled < k + n then none else some (r, r.adv r.head k)

/-- The destination slot of a copy reserved (R203): the state, the destination's first byte, and the slots held; none
while there is no room. A far ring that the copy may not use is left to the checks; a panel waits while its hidden ring does not permit
the unit (log 76). -/
def reserveDst (s : State) (o : CopyOp) : Option (State × Nat × List (Nat × Nat)) :=
  let own := s.unit.cr.lcore.toNat
  match o.dstRing own with
  | none => some (s, ldAddr (if o.form == .push then o.far else o.near), [])
  | some (core, q) =>
    match engRing s core q with
    | none => if o.form == .push then some (s, 0, []) else none
    | some r =>
      if !ringPermits r own then (if o.form == .push then some (s, 0, []) else none)
      else
        match engReserve s core q with
        | none => none
        | some (s, x) => some (s, r.addr (w16 x), [(core, x)])

/-- The ring that the slots of a copy lie in. -/
def CopyOp.outQ (o : CopyOp) : BitVec 6 := if o.form == .push then ldQ o.far else ldQ o.near

/-- The slots of a failed copy hold their rings (R203): the state, and the own ring slot held (R249). -/
def holdSlots (s : State) (o : CopyOp) (tickets : List (Nat × Nat)) : State × Option (BitVec 6 × W16) :=
  tickets.foldl (fun (s, own) (c, x) =>
    let (s, y) := engHold s c o.outQ x
    (s, if c == s.unit.cr.lcore.toNat then some (o.outQ, y) else own)) (s, none)

/-- The slot at local address src that a copy took of its source ring is freed (R206). -/
def freeSource (s : State) (o : CopyOp) (src : Nat) : State :=
  match o.srcRing.bind fun q => (ringAt s.unit.pad q).map fun r => (q, r) with
  | some (q, r) => engFree s s.unit.cr.lcore.toNat q (w16 ((src - r.base) / r.size)) 1
  | none => s

/-- The local address at which an entry's source starts, once it has fired or begun. -/
def QEntry.src (e : QEntry) : Nat :=
  match e.stage with
  | .waiting => 0
  | .fired a => a
  | .read _ _ => 0
  | .begun a _ _ _ => a
  | .sent a _ _ => a

/-- The event of a CPY.L2G in the signature takes its data word (R355). -/
def fillSig (s : State) (ord : Nat) (v : W64) : State :=
  s.mapUnit fun u => { u with sig := u.sig.map fun x => if x.copy == some ord then { x with data := v, copy := none } else x }

/-- The copy at the head of queue i completes with error. -/
def failCopy (s : State) (i : Nat) (e : QEntry) (o : CopyOp) (tickets : List (Nat × Nat)) (kind : Nat) (code : BitVec 4) (va : W64) :
    State :=
  let s := fillSig (if e.stage == .waiting then s else freeSource s o e.src) e.ord (BitVec.allOnes 64)
  let (s, held) := holdSlots s o (if ldRing (if o.form == .push then o.far else o.near) then tickets else [])
  failEntry s i e (if kind == 0x28 then none else some (copyCls i)) (if o.usesHandle then o.handle else 0) kind code va held

/-- Whether a local range runs through banks of unlike formats, their classes apart: no chain decodes it (R151, R158, R237, log 78). -/
def mixedBanks (s : State) (e : QEntry) (x : Option LocalSide) (n rows : Nat) (isDst : Bool) : Bool :=
  match x with
  | none => false
  | some y =>
    let span := if ldRing y.desc then 0 else spanOf y.fmt (ldPitch y.desc) n rows isDst
    let first := y.addr / Config.bankBytes
    (upto first ((y.addr + span - 1) / Config.bankBytes - first + 1)).any fun b =>
      (sideFmt s e y.core (b * Config.bankBytes)) <<< 8 != y.fmt <<< 8

/-- The handle is read and the checks are made; the copy then stands begun with the entry it read. -/
def beginChecks (s : State) (i : Nat) (e : QEntry) (o : CopyOp) (src dst : Nat) (tickets : List (Nat × Nat)) : State :=
  let e := { e with stage := .begun src dst tickets [] }
  let s := s.mapUnit fun u => setHead u i e
  let go := fun (s : State) (ws : List W64) =>
    let (a, b) := sidesOf s e o src dst
    let kind := copyKind s o (Handle.of ws) a b
    let mixed := mixedBanks s e a o.e0 o.e1 false || mixedBanks s e b o.dn o.dr true
    match if kind.isNone && mixed then some 0x27 else kind with
    | some k => failCopy s i e o tickets k 0#4 0#64
    | none => s.mapUnit fun u => setHead u i { e with stage := .begun src dst tickets ws }
  if !o.usesHandle then go s [0#64]
  else
    match readHandle s (copyWho s i e) o.handle with
    | (s, none) => failCopy s i e o tickets 0x24 0#4 0#64
    | (s, some (.stop va x)) => stopEntry s i e (copyWho s i e) 0 (parkOf i) va x
    | (s, some (.ok ws)) => go s ws

/-! ### Ladle reads (R291) -/

/-- The destinations of a ladle read, in ascending order. -/
def ladleCores (o : CopyOp) : List Nat := (upto 0 16).filter fun c => (o.ladle.getD 0).testBit c

/-- The checks of one destination: a KIND. -/
def ladleKind (s : State) (e : QEntry) (o : CopyOp) (h : Handle) (core : Nat) : Option Nat :=
  match padOf s core with
  | none => some 0x26
  | some p =>
    let span := spanOf h.word (ldPitch o.near) o.e0 o.e1 true
    let fmt := fun (a : Nat) =>
      let w := sideFmt s e core a
      if chainOf h.word w false != some .same || !localAligned w a (ldPitch o.near) o.e0 o.e1 then some 0x27 else none
    if ldRing o.near then
      match ringAt p (ldQ o.near) with
      | none => some 0x26
      | some r => if !ringPermits r s.unit.cr.lcore.toNat || r.size < span then some 0x26 else fmt r.base
    else if !padOk p.banks (ldAddr o.near) span || Config.bankBytes < ldAddr o.near % Config.bankBytes + span then some 0x26
    else fmt (ldAddr o.near)

/-- Each destination with its ring slot reserved, 0 where it is no ring; none while one has no room. -/
def ladleReserve (s : State) (o : CopyOp) : List Nat → Option (State × List (Nat × Nat))
  | [] => some (s, [])
  | c :: rest =>
    if ldRing o.near then
      match engReserve s c (ldQ o.near) with
      | none => none
      | some (s, x) => (ladleReserve s o rest).map fun (s, ts) => (s, (c, x) :: ts)
    else (ladleReserve s o rest).map fun (s, ts) => (s, (c, 0) :: ts)

/-- Where a destination's range starts. -/
def ladleStart (s : State) (o : CopyOp) (t : Nat × Nat) : Nat :=
  if ldRing o.near then engAddr s t.1 (ldQ o.near) t.2 else ldAddr o.near

/-- A part of a run of memory bytes that a destination takes: its core, its offset in the run, its bytes and their local address. -/
structure LadleSeg where
  core : Nat
  off  : Nat
  len  : Nat
  addr : Nat
deriving DecidableEq, Repr

/-- What a destination takes of a row whose bytes start at its local address a: of the data, only whole blocks whose metadata lies in the
scale region (R160), and of the metadata likewise. -/
def ladleSegs (s : State) (e : QEntry) (o : CopyOp) (h : Handle) (x : HRow) (core a : Nat) : List LadleSeg × List LadleSeg :=
  let w := h.word
  let a0 := a + fmtBits h.fmt * x.lo / 8
  if metaBytes w == 0 then ([⟨core, 0, x.n, a0⟩], [])
  else
    let fmt := sideFmt s e core a
    let size := blockSize w * fmtBits h.fmt / 8
    let first := firstBlock w a + (((x.blk * blockSize w : Nat) : Int) - o.o0).toNat / blockSize w
    let kept := (upto 0 (x.mn / metaBytes w)).filterMap fun j => (metaAt fmt (bankStart a) (first + j)).map fun m => (j, m)
    (kept.map fun (j, _) => ⟨core, j * size, min size (x.n - j * size), a0 + j * size⟩,
      kept.map fun (j, m) => ⟨core, j * metaBytes w, metaBytes w, m⟩)

/-- The runs of memory bytes of a row, data and metadata, with what each destination takes of them. -/
def ladleRuns (s : State) (e : QEntry) (o : CopyOp) (h : Handle) (tickets : List (Nat × Nat)) (r : Nat) (x : HRow) :
    List (W64 × Nat × List LadleSeg) :=
  let segs := tickets.map fun t => ladleSegs s e o h x t.1 (ladleStart s o t + r * rowStride h.word (ldPitch o.near) o.e0)
  (x.va, x.n, segs.flatMap (·.1)) :: (if x.mn == 0 then [] else [(x.mva, x.mn, segs.flatMap (·.2))])

/-- The writes that n bytes at offset skip of a run make, their line's byte at its start being from. -/
def segPuts (segs : List LadleSeg) (skip n from_ ord : Nat) : List LadlePut :=
  segs.filterMap fun g =>
    let lo := max g.off skip
    let hi := min (g.off + g.len) (skip + n)
    if lo < hi then some ⟨g.core, g.addr + (lo - g.off), from_ + (lo - skip), hi - lo, ord⟩ else none

/-- Requests for the lines of a run (R291, R292); what the host or a peer answers comes at once. -/
def ladleRun (s : State) (w : Who) (ord : Nat) (va : W64) (n : Nat) (segs : List LadleSeg) : State × Xfer PUnit :=
  ((rowRuns va n).flatMap fun r => linePieces (r.2 / 128 + 2) r.1 r.2).foldl (fun (s, res) (a, k) =>
    match res with
    | .stop _ _ => (s, res)
    | .ok _ =>
      let skip := (a.toNat + 2 ^ 57 - va.toNat) % 2 ^ 57
      match locate s w a 0 true with
      | (s, .ok (.mem pa key z)) =>
        let s := if z then allocZero s (homeOf s a.toNat pa) (upto pa k) else s
        ((lineRead s (homeOf s a.toNat pa) key (pa / 128) (upto pa k) [] (segPuts segs skip k (a.toNat % 128) ord)).1, res)
      | (s, _) =>
        match readPiece s w 0 a k with
        | (s, .ok bs) =>
          ((segPuts segs skip k 0 ord).foldl (fun s p => modPad s p.core fun d => padPut d p.addr ((bs.drop p.off).take p.len)) s, res)
        | (s, .stop va x) => (s, .stop va x)) (s, .ok ⟨⟩)

/-- The lines of every row requested, in row order. -/
def ladleRequest (s : State) (i : Nat) (e : QEntry) (o : CopyOp) (h : Handle) (tickets : List (Nat × Nat)) (ws : List W64) : State :=
  let who := copyWho s i e
  let rows := hRows o h
  let runs := ((upto 0 rows.length).zip rows).flatMap fun (r, x) => x.elim [] (ladleRuns s e o h tickets r)
  let step := fun (st : State × Xfer PUnit) (run : W64 × Nat × List LadleSeg) =>
    match st.2 with
    | .stop _ _ => st
    | .ok _ => ladleRun st.1 who e.ord run.1 run.2.1 run.2.2
  match runs.foldl step (s, .ok ⟨⟩) with
  | (s, .ok _) => s.mapUnit fun u => setHead u i { e with stage := .begun 0 0 tickets ws }
  | (s, .stop va x) => stopEntry s i { e with stage := .read ws (some tickets) } who 0 (parkOf i) va x

/-- The KIND of the error of a ladle read whose entry is h, if any (R248, R291). -/
def ladleError (s : State) (e : QEntry) (o : CopyOp) (h : Handle) : Option Nat :=
  if !h.ok || h.tgt != 0 then some 0x24
  else if !h.rights.testBit o.right then some 0x25
  else if h.fault && outOfBounds o (hRows o h) then some 0x26
  else
    match (ladleCores o).findSome? (ladleKind s e o h) with
    | some k => some k
    | none => if handleAligned o h then none else some 0x27

/-- A ladle read goes on with the entry it has read: every destination is checked, every line is translated, the destination slots
are reserved, unless they were before an access of it was parked, and the lines are requested. Until every destination has room it
waits with that entry (R203, R243). -/
def ladleGo (s : State) (i : Nat) (e : QEntry) (o : CopyOp) (ws : List W64) (held : Option (List (Nat × Nat))) : State :=
  let who := copyWho s i e
  let h := Handle.of ws
  let e' := { e with stage := .read ws held }
  match ladleError s e o h with
  | some k => failCopy s i e o (held.getD []) k 0#4 0#64
  | none =>
    match vcheck s who 0 (hRanges (hRows o h)) with
    | (s, .stop va x) => stopEntry s i e' who 0 (parkOf i) va x
    | (s, .ok _) =>
      match held, ladleReserve s o (ladleCores o) with
      | some tickets, _ => ladleRequest s i e o h tickets ws
      | none, none => s.mapUnit fun u => setHead u i e'
      | none, some (s, tickets) => ladleRequest s i e o h tickets ws

/-- A ladle read begins: its handle is read, once (R243, R291). -/
def ladleBegin (s : State) (i : Nat) (e : QEntry) (o : CopyOp) : State :=
  match readHandle s (copyWho s i e) o.handle with
  | (s, none) => failCopy s i e o [] 0x24 0#4 0#64
  | (s, some (.stop va x)) => stopEntry s i e (copyWho s i e) 0 (parkOf i) va x
  | (s, some (.ok ws)) => ladleGo s i e o ws none

/-- Whether a line of the copy is still to come to one of the cores of f. -/
def ladlePending (s : State) (ord : Nat) (f : Nat → Bool) : Bool :=
  let mine := fun (p : LadlePut) => p.ord == ord && f p.core
  (s.groups.any fun g => g.puts.any mine) || s.packets.any fun p => p.2.puts.any mine

/-- The rows at a destination as the lines brought them, missing elements and padding made what R160 and R238 give them. -/
def ladleFinish (s : State) (e : QEntry) (o : CopyOp) (h : Handle) (t : Nat × Nat) : State :=
  let a := ladleStart s o t
  modPad s t.1 fun p =>
    let w := sideFmt s e t.1 a
    let rows := ((upto 0 o.e1).zip (hRows o h)).map fun (r, x) =>
      let cells := localCells p w (a + r * rowStride w (ldPitch o.near) o.e0) o.e0
      ((upto 0 o.e0).zip cells).map fun (k, c) =>
        match x with
        | some x => if x.lo ≤ k && k < x.hi then c else .missing w
        | none => .missing w
    putRows p w a (ldPitch o.near) rows

/-! ### Performing (R232, R234 to R240) -/

/-- CR.CPYSTAT bits set in the cycle in which the copy performs (R239, R250). -/
def copyStat (s : State) (fl : BitVec 6) (clip : Bool) : State :=
  s.mapCr fun c => { c with cpystat := c.cpystat ||| (fl.setWidth 64 &&& 0x1F#64) ||| (if clip then 0x100#64 else 0#64) }

/-- The copy has performed: slots committed or filled, the source freed, the entry done. -/
def doneCopy (s : State) (i : Nat) (o : CopyOp) (src : Nat) (tickets : List (Nat × Nat)) (fl : BitVec 6) (clip : Bool) : State :=
  let s := tickets.foldl (fun s (c, x) => engCommit s c o.outQ x) (freeSource s o src)
  finishEntry (copyStat s fl clip) i

/-- The stream of a box (R240): its rows' bytes, then its metadata in block order. -/
def boxStream (w : W64) (rows : List (List Cell)) : List Byte :=
  (rows.flatMap fun r => packCodes (fmtBits (fmtOf w)) (r.map (·.code)))
    ++ (if metaBytes w == 0 then []
        else rows.flatMap fun r =>
          (chunks (blockSize w) (r.length + 1) r).flatMap fun b => leBytes (nth (b.map (·.meta_)) 0 0) (metaBytes w))

/-! ### Streams and chunks of peer copies (R240 to R242) -/

/-- The part [lo, lo + n) of a stream whose bytes lie in runs of (address, bytes), none where they go nowhere. -/
def runsIn (runs : List (Option Nat × Nat)) (lo n : Nat) : List (Option Nat × Nat) :=
  (runs.foldl (fun (pos, out) (a, k) =>
    let x := max pos lo
    let y := min (pos + k) (lo + n)
    (pos + k, if x < y then out ++ [(a.map (· + (x - pos)), y - x)] else out)) (0, [])).2

/-- Bytes of the runs of a stream. -/
def runBytes (runs : List (Option Nat × Nat)) : Nat := runs.foldl (fun n r => n + r.2) 0

/-- Where the stream of a box lies at its handle. -/
def handleRuns (o : CopyOp) (h : Handle) : List (Option Nat × Nat) :=
  let w := h.word
  let rb := rowBytes w o.e0
  let mb := if metaBytes w == 0 then 0 else metaBytes w * ceilDiv o.e0 (blockSize w)
  let at_ := fun (all : Nat) (va : W64) (off n : Nat) =>
    [((none : Option Nat), off)] ++ (rowRuns va n).map (fun r => (some r.1.toNat, r.2)) ++ [(none, all - off - n)]
  ((hRows o h).flatMap fun r => match r with
    | none => [(none, rb)]
    | some x => at_ rb x.va (x.lo * fmtBits h.fmt / 8) x.n)
  ++ (hRows o h).flatMap fun r => match r with
    | none => [(none, mb)]
    | some x => at_ mb x.mva (metaBytes w * (x.lo / blockSize w)) x.mn

/-- Where the stream of a box lies in a bank, from local address a. -/
def bankRuns (w : W64) (a pitch n rows : Nat) : List (Option Nat × Nat) :=
  let row := fun (r : Nat) => a + r * rowStride w pitch n
  if metaBytes w == 0 then (upto 0 rows).map fun r => (some (row r), rowBytes w n)
  else
    let size := blockSize w * fmtBits (fmtOf w) / 8
    let blocks := ceilDiv n (blockSize w)
    let meta_ := fun (r j : Nat) => metaAt w (bankStart (row r)) (firstBlock w (row r) + j)
    ((upto 0 rows).flatMap fun r => (upto 0 blocks).map fun j => ((meta_ r j).map fun _ => row r + j * size, min size (rowBytes w n - j * size)))
      ++ (upto 0 rows).flatMap fun r => (upto 0 blocks).map fun j => (meta_ r j, metaBytes w)

/-- Payload bytes of a chunk but the last (R240). -/
def chunkSize (o : CopyOp) : Nat := 4096 * 2 ^ fld o.ctl 54 3

/-- The chunks of a push (R240), each with the CRC-32C of its payload. -/
def pushChunks (s : State) (e : QEntry) (o : CopyOp) (h : Handle) (stream : List Byte) : List Chunk :=
  let size := chunkSize o
  let count := ceilDiv stream.length size
  (upto 0 count).map fun k =>
    let payload := (stream.drop (k * size)).take size
    { seq := e.seq, src := if h.tgt == 1 then s.pkg.number.setWidth 16 else 0x8000#16 + w16 h.epid, index := w16 k, count := w16 count
      offset := w64 (k * size), crc := crc32c payload, payload := payload
      dest := (runsIn (handleRuns o h) (k * size) size).map fun (a, n) => (a.map w64, n)
      slot := s.unit.cr.asidSlot, gen := s.unit.cr.asidGen, part := s.unit.cr.part, land := w16 h.land }

/-- The peer of a copy: the package that VA[56:52] names, or 32 + the peer that EPID names in the partition's endpoint table (R245,
R493). -/
def peerOf (s : State) (h : Handle) : Option Nat :=
  if h.tgt == 1 then some (h.base / 2 ^ 52 % 32)
  else (s.pkg.endpoints.find? fun x => x.1 == s.unit.cr.part && x.2.1 == w16 h.epid).map fun x => 32 + x.2.2

/-- Chunks leave for a peer. -/
def sendTo (s : State) (to_ : Nat) (cs : List Chunk) : State :=
  { s with pkg := { s.pkg with outbox := s.pkg.outbox ++ cs.map fun c => (to_, c) } }

/-- The job of the unit changed. -/
def mapUnitJob (s : State) (f : Job → Job) : State :=
  let k := jobKey s.unit.cr.part s.unit.cr.job
  match mget s.jobs k with
  | some j => { s with jobs := mset s.jobs k (f j) }
  | none => s

/-- A chunk of the copy at the head of queue i has failed: KIND 0x28, and the job's completion counter is marked (R242). -/
def failPeer (s : State) (i : Nat) (e : QEntry) (o : CopyOp) (tickets : List (Nat × Nat)) : State :=
  failCopy (mapUnitJob s fun j => { j with failed := true }) i e o tickets 0x28 0#4 0#64

/-- Elements outside the destination handle's bounds count as missing (R234, R237). -/
def clipCells (w : W64) (rows : List (Option HRow)) (cells : List (List Cell)) : List (List Cell) :=
  (rows.zip cells).map fun (r, cs) =>
    match r with
    | none => cs.map fun _ => .missing w
    | some x => ((upto 0 cs.length).zip cs).map fun (e, c) => if x.lo ≤ e && e < x.hi then c else .missing w

/-- Elements pulled from a peer are free values (log 1); those out of bounds are missing. -/
def peerCells (s : State) (o : CopyOp) (h : Handle) : List (List Cell) :=
  let b := fmtBits h.fmt
  ((upto 0 o.e1).zip (hRows o h)).map fun (r, x) =>
    (upto 0 o.e0).map fun e =>
      let in_ := match x with
        | some x => x.lo ≤ e && e < x.hi
        | none => false
      if !in_ then .missing h.word
      else
        let k := s.freeCtr * 2 ^ 40 + (r * o.e0 + e) * 4
        let m := s.freeCtr * 2 ^ 40 + 2 ^ 39 + r * o.e0 + e / blockSize h.word
        ⟨leNat ((upto k 4).map Config.peerByte) % 2 ^ b,
          if metaBytes h.word == 0 then 0 else leNat [Config.peerByte m] , true⟩

/-- Whether a read of the ranges finds a line for which it has to wait for a merge group (R292). -/
def rangesWait (s : State) (w : Who) (kind : Nat) (ranges : List (W64 × Nat)) : Bool :=
  (ranges.flatMap fun (va, n) => linePieces (n / 128 + 2) va n).any fun (a, k) =>
    match (locate s w a kind true).2 with
    | .ok (.mem pa _ _) => groupWait s (homeOf s a.toNat pa) (pa / 128) (upto pa k)
    | _ => false

/-- The copy's data moves, and it completes; the chunks of a push to a peer leave, and it completes when they are acknowledged. A read
waits while a line of it waits for a merge group (R292). -/
def moveCopy (s : State) (i : Nat) (e : QEntry) (o : CopyOp) (src dst : Nat) (tickets : List (Nat × Nat)) (ws : List W64) : State :=
  let h := Handle.of ws
  let who := copyWho s i e
  let (a, b) := sidesOf s e o src dst
  let (sw, dw) := formatsOf h a b
  let rows := if o.usesHandle then hRows o h else []
  let clip := o.usesHandle && outOfBounds o rows
  let fail := fun (s : State) va x => stopEntry s i e who (if o.form == .l2g then 1 else readKind i) (parkOf i) va x
  let put := fun (s : State) (cells : List (List Cell)) =>
    let (out, fl) := convertRows ((chainOf sw dw o.t).getD .same) sw (fmtOf dw) cells
    let out := if o.t then transpose o.e0 out else out
    match b with
    | some y => doneCopy (modPad s y.core fun p => putRows p y.fmt y.addr (ldPitch y.desc) out) i o src tickets fl clip
    | none =>
      if o.form == .pePush then
        let cs := pushChunks s e o h (boxStream dw out)
        (sendTo s ((peerOf s h).getD 0) cs).mapUnit fun u => setHead u i { e with stage := .sent src cs ws }
      else
        match hWrite s who o h rows out with
        | (s, .stop va x) => fail s va x
        | (s, .ok _) => doneCopy (fillSig s e.ord (crc64 (boxStream dw out))) i o src tickets fl clip
  match a with
  | some x =>
    match padOf s x.core with
    | none => s
    | some p =>
      let cells := localRows p x.fmt x.addr (ldPitch x.desc) o.e0 o.e1
      let cells := if o.usesHandle then clipCells x.fmt rows cells else cells
      match vcheck s who 1 (if o.form == .l2g then hRanges rows else []) with
      | (s, .stop va e') => fail s va e'
      | (s, .ok _) => put s cells
  | none =>
    if o.form == .pePull then put { s with freeCtr := s.freeCtr + 1 } (peerCells s o h)
    else
      match vcheck s who (readKind i) (hRanges rows) with
      | (s, .stop va x) => fail s va x
      | (s, .ok _) =>
        if rangesWait s who (readKind i) (hRanges rows) then s
        else
        match hRead s who (readKind i) o h rows with
        | (s', .stop va x) => fail s' va x
        | (s', .ok cells) => put (if o.idx.isSome then { s' with stats := gatherStats s.stats s'.stats } else s') cells

/-- The copy at the head of queue i fires on its source ring (R206). -/
def copyFire (s : State) (i : Nat) : State :=
  match readyEntry s.unit i with
  | none => s
  | some e =>
    match copyOp e.cmd with
    | none => s
    | some o =>
      match o.srcRing, e.stage with
      | some q, .waiting =>
        match fireAt s s.unit.cr.lcore.toNat q 1 with
        | none => s
        | some (r, x) =>
          match reserveDst s o with
          | none => s
          | some (s, dst, tickets) =>
            s.mapUnit fun u => setHead u i { e with stage := .begun (r.addr x) dst tickets [] }
      | _, _ => s

/-- The copy at the head of queue i begins (R232, R243). -/
def copyBegin (s : State) (i : Nat) : State :=
  match readyEntry s.unit i with
  | none => s
  | some e =>
    match copyOp e.cmd with
    | none => s
    | some o =>
      match e.halt, e.stage with
      | .none, .waiting =>
        if o.ladle.isSome then ladleBegin s i e o
        else if o.srcRing.isSome then s
        else
          match reserveDst s o with
          | none => s
          | some (s, dst, tickets) => beginChecks s i e o (if o.form == .l2g || o.form == .pePush || o.form == .push then ldAddr o.near else ldAddr o.far) dst tickets
      | .none, .begun src dst tickets [] =>
        beginChecks s i e o src dst tickets
      | .none, .read ws held => ladleGo s i e o ws held
      | _, _ => s

/-- A ladle read performs on each destination on its own: once all lines have come to a core, its ring slot is committed or filled; the
copy has performed when every destination has (R291, R302). -/
def ladlePerform (s : State) (i : Nat) (e : QEntry) (o : CopyOp) (tickets : List (Nat × Nat)) (ws : List W64) : State :=
  let h := Handle.of ws
  let waits := fun (t : Nat × Nat) => ladlePending s e.ord (· == t.1)
  let s' := (tickets.filter fun t => !waits t).foldl (fun s t =>
    let s := ladleFinish s e o h t
    if ldRing o.near then engCommit s t.1 o.outQ t.2 else s) s
  match tickets.filter waits with
  | [] => doneCopy s' i o 0 [] 0#6 (outOfBounds o (hRows o h))
  | rest => s'.mapUnit fun u => setHead u i { e with stage := .begun 0 0 rest ws }

/-- Whether the peer of a copy is reached: a package of the domain (R306), or a peer that the endpoint table names. -/
def peerLost (s : State) (h : Handle) : Bool :=
  if h.tgt == 1 then !s.pkg.members.getLsbD (h.base / 2 ^ 52 % 32) else (peerOf s h).isNone

/-- The copy at the head of queue i performs, or completes with error (R232, R249). A copy to or from an endpoint that the table does not
name loses its chunks (log 82). -/
def copyPerform (s : State) (i : Nat) : State :=
  match readyEntry s.unit i with
  | none => s
  | some e =>
    match copyOp e.cmd with
    | none => s
    | some o =>
      match e.halt, e.stage with
      | .aborted code va, .begun _ _ tickets _ => failCopy s i e o tickets 0x2D code va
      | .aborted code va, .read _ held =>
        if ladlePending s e.ord fun _ => true then s else failCopy s i e o (held.getD []) 0x2D code va
      | .aborted code va, _ => failCopy s i e o [] 0x2D code va
      | .none, .begun src dst tickets (w :: ws) =>
        let h := Handle.of (w :: ws)
        if o.ladle.isSome then ladlePerform s i e o tickets (w :: ws)
        else if (o.form == .pePush || o.form == .pePull) && peerLost s h then
          if h.tgt == 1 then failCopy s i e o tickets 0x2D 0xA#4 (w64 h.base) else failPeer s i e o tickets
        else moveCopy s i e o src dst tickets (w :: ws)
      | .none, .sent src _ ws =>
        let h := Handle.of ws
        if h.tgt == 1 && peerLost s h then failCopy s i e o [] 0x2D 0xA#4 (w64 h.base)
        else doneCopy s i o src [] 0#6 (outOfBounds o (hRows o h))
      | _, _ => s

/-- R206. -/
def execEngineFire (cq1 : Bool) (s : State) : Host.Outcome State Fault Refusal := .next (copyFire s (bit01 cq1))

/-- R232. -/
def execCopyBegin (cq1 : Bool) (s : State) : Host.Outcome State Fault Refusal := .next (copyBegin s (bit01 cq1))

/-- R232. -/
def execCopyPerform (cq1 : Bool) (s : State) : Host.Outcome State Fault Refusal := .next (copyPerform s (bit01 cq1))

/-! ### Peer chunks (R240 to R242, R310, R492) -/

/-- The runs of a chunk's destination with their bytes. -/
def splitRuns : List (Option W64 × Nat) → List Byte → List (W64 × List Byte)
  | [], _ => []
  | (none, k) :: rest, bs => splitRuns rest (bs.drop k)
  | (some a, k) :: rest, bs => (a, bs.take k) :: splitRuns rest (bs.drop k)

def chunkRuns (c : Chunk) : List (W64 × List Byte) := splitRuns c.dest c.payload

/-- The chunk record (R241). -/
def chunkRecord (c : Chunk) : List Byte :=
  leBytes c.seq.toNat 4 ++ leBytes c.src.toNat 2 ++ leBytes c.index.toNat 2 ++ leBytes c.count.toNat 2 ++ leBytes 0 2
    ++ leBytes c.payload.length 4 ++ leBytes c.offset.toNat 8 ++ leBytes c.crc.toNat 4 ++ leBytes 0 4

/-- The logical core of a unit of the landing's partition that the model holds (log 1). -/
def unitCore (u : Unit) (peers : SMap Pad) (l : LandingReg) : Option Nat :=
  if l.part != u.cr.part then none
  else (gangCores u).find? fun c => coreUnit u c == l.unit.toNat && (c == u.cr.lcore.toNat || (mget peers c).isSome)

def landingCore (s : State) (l : LandingReg) : Option Nat := unitCore s.unit s.peers l

/-- Whether the landing's unit is of a gang that has been set aside (R204). -/
def landingAside (s : State) (l : LandingReg) : Bool := s.aside.any fun a => (unitCore a.unit a.peers l).isSome

/-- A ring that a landing may use (R241). -/
def landingRingOk (c : Chunk) (r : Ring) : Bool :=
  r.reorder && r.perm.testBit 22 && r.scope == (if c.src.msb then 4 else 3)

/-- The naturally aligned 16-byte units of n bytes from a, as (address, offset from a, bytes). -/
def units16 (a n : Nat) : List (Nat × Nat × Nat) :=
  (upto 0 (n / 16 + 2)).filterMap fun j =>
    let x := a / 16 * 16 + 16 * j
    let lo := max x a
    let hi := min (x + 16) (a + n)
    if lo < hi then some (lo, lo - a, hi - lo) else none

/-- Each 16-byte unit of a destination run holds old bytes or delivered ones (R242): a free choice. -/
def mixRun (s : State) (w : Who) (va : W64) (bs : List Byte) : State :=
  (units16 va.toNat bs.length).foldl (fun s (a, off, n) =>
    let next := { s with freeCtr := s.freeCtr + 1 }
    if Config.firstWins s.freeCtr then next else (vwrite next w false (w64 a) ((bs.drop off).take n)).1) s

/-- The identity under which a chunk's writes are made at the owner, and a landing's arrival count is raised. -/
def chunkWho (c : Chunk) : Who := ⟨c.slot, c.gen, 0#4, 0#32, 3#2, none, some c.src, []⟩

/-- The landing that a chunk names. -/
def landingOf (s : State) (c : Chunk) : Option LandingReg := (s.pkg.landings.find? fun l => l.1.part == c.part && l.1.index == c.land).map (·.1)

def countWho (s : State) (c : Chunk) : Who :=
  let slot := (landingOf s c).elim c.slot (·.slot)
  { chunkWho c with slot := slot, gen := ((asidOf s slot).map (·.gen)).getD 0#4, cls := 15#4 }

/-- A chunk that has been accepted: no failure of it is remembered, for a later copy's chunk may bear its number (R240, R242). -/
def chunkTaken (s : State) (c : Chunk) : State :=
  { s with pkg := { s.pkg with badChunks := s.pkg.badChunks.filter (· != (c.src, c.seq, c.index)) } }

/-- A chunk that the receiver does not accept: the second time, its landing records the failure (R242). -/
def refuseChunk (s : State) (c : Chunk) : State :=
  let key := (c.src, c.seq, c.index)
  if s.pkg.badChunks.contains key then
    { s with pkg := { s.pkg with
        badChunks := s.pkg.badChunks.erase key
        landings := s.pkg.landings.map fun (l, n, f) => (l, n, f || (l.part == c.part && l.index == c.land && c.land != 0#16)) } }
  else { s with pkg := { s.pkg with badChunks := key :: s.pkg.badChunks } }

/-- A chunk that waits for room in its landing's ring, or for the unit of the ring to be resident (R203, R204). -/
def holdChunk (s : State) (c : Chunk) : State :=
  if s.pkg.heldChunks.contains c then s else { s with pkg := { s.pkg with heldChunks := s.pkg.heldChunks ++ [c] } }

/-- A chunk that waits no more. -/
def unholdChunk (s : State) (c : Chunk) : State := { s with pkg := { s.pkg with heldChunks := s.pkg.heldChunks.erase c } }

/-- An interrupt of a partition: held while the partition is in reset (R488). -/
def raiseIrq (s : State) (part : BitVec 4) (v : BitVec 6) : State :=
  if (mget s.pkg.resets part.toNat).isSome then { s with pkg := { s.pkg with heldIrq := s.pkg.heldIrq ++ [(part, v)] } }
  else { s with pkg := { s.pkg with sentIrq := s.pkg.sentIrq ++ [(part, v)] } }

/-- A stopped request of a peer's chunk: parked at the owner, or at an end (R310, R323, R324). -/
def stopChunk (s : State) (w : Who) (c : Chunk) (count : Bool) (kind : Nat) (va : W64) (x : XStop) : State :=
  match hold s w va kind (.chunk c count) x with
  | (s, .parked _ _) => s
  | (s, .aborted _) => if count then s else refuseChunk s c

/-- One atomic add to a landing's arrival count at its home, then the landing's interrupt (R492). -/
def countArrival (s : State) (c : Chunk) : State :=
  match landingOf s c with
  | none => s
  | some l =>
    let w := countWho s c
    match vcheck s w 2 [(l.count, 8)] with
    | (s, .stop va x) => stopChunk s w c true 2 va x
    | (s, .ok _) =>
      match vread s w 2 l.count 8 with
      | (s, .stop va x) => stopChunk s w c true 2 va x
      | (s, .ok bs) =>
        let s := (vwrite s w false l.count (leBytes (leNat bs + 1) 8)).1
        let s := { s with pkg := { s.pkg with
          landings := s.pkg.landings.map fun (m, n, f) => if m == l then (m, n + 1, f) else (m, n, f) } }
        match l.vector with
        | some v => raiseIrq s l.part v
        | none => s

/-- The chunk's writes at the owner. -/
def chunkWrites (s : State) (c : Chunk) : State × Xfer PUnit :=
  (chunkRuns c).foldl (fun (s, r) (va, bs) =>
    match r with
    | .stop _ _ => (s, r)
    | .ok _ => vwrite s (chunkWho c) false va bs) (s, .ok ⟨⟩)

/-- A chunk whose CRC has matched: its writes perform, its landing takes and fills a ticket and counts it (R241, R492). Where the landing's
ring is not one that R241 asks for, the chunk is refused (log 77). -/
def chunkArrival (s : State) (c : Chunk) : State :=
  match vcheck s (chunkWho c) 1 (c.dest.filterMap fun d => d.1.map fun a => (a, d.2)) with
  | (s, .stop va x) => stopChunk (unholdChunk s c) (chunkWho c) c false 1 va x
  | (s, .ok _) =>
    let s' := unholdChunk s c
    if c.land == 0#16 then chunkTaken (chunkWrites s' c).1 c
    else
      match landingOf s c with
      | none => refuseChunk s' c
      | some l =>
        match landingCore s l with
        | none => if landingAside s l then holdChunk s c else countArrival (chunkTaken (chunkWrites s' c).1 c) c
        | some core =>
          if !coreResident s then holdChunk s c
          else
            match engRing s core l.q with
            | none => refuseChunk s' c
            | some r =>
              if !landingRingOk c r || r.size < 32 then refuseChunk s' c
              else
                match engReserve s' core l.q with
                | none => holdChunk s c
                | some (s1, x) =>
                  let s2 := chunkTaken (chunkWrites s1 c).1 c
                  let s3 := modPad s2 core fun p => padPut p (r.addr (w16 x)) (chunkRecord c)
                  countArrival (engCommit s3 core l.q x) c

/-- A chunk arrives (R241, R242): it matches and commits, or it does not and nothing of it is committed. -/
def execPeerChunkArrival (c : Chunk) (s : State) : Host.Outcome State Fault Refusal :=
  .next
    (if (mget s.pkg.resets c.part.toNat).isSome then refuseChunk (unholdChunk s c) c
    else if crc32c c.payload != c.crc then
      refuseChunk ((chunkRuns c).foldl (fun s (va, bs) => mixRun s (chunkWho c) va bs) s) c
    else chunkArrival s c)

/-- The destination of a pull that failed (R242): chunks that committed stand, and of the others each 16-byte unit is old or delivered. One
chunk at least has failed; which, and what came of the rest, is free. -/
def mixNear (s : State) (e : QEntry) (o : CopyOp) (h : Handle) (dst : Nat) : State :=
  let w := sideFmt s e s.unit.cr.lcore.toNat dst
  let full := putRows s.unit.pad w dst (ldPitch o.near) (peerCells s o h)
  let runs := bankRuns w dst (ldPitch o.near) o.e0 o.e1
  let size := chunkSize o
  let n := ceilDiv (runBytes runs) size
  let bad := Config.lostChunk s.freeCtr % n
  (upto 0 n).foldl (fun s k =>
    let whole := k != bad && Config.firstWins s.freeCtr
    (runsIn runs (k * size) size).foldl (fun s (a, m) =>
      (a.elim [] fun a => units16 a m).foldl (fun s (lo, _, m) =>
        let next := { s with freeCtr := s.freeCtr + 1 }
        if whole || Config.firstWins s.freeCtr then next.mapUnit fun u => { u with pad := padPut u.pad lo (leBytes (padRead full lo m) m) }
        else next) s) { s with freeCtr := s.freeCtr + 1 }) { s with freeCtr := s.freeCtr + 1 }

/-- R242: a chunk of the CPY.PE at the head of a copy queue mismatches or is lost. The first time a push sends it once more, with the bytes
it read; the second time the copy fails. -/
def execPeerChunkFail (cq1 : Bool) (second : Bool) (s : State) : Host.Outcome State Fault Refusal :=
  .next
    (let i := bit01 cq1
    match readyEntry s.unit i with
    | none => s
    | some e =>
      match copyOp e.cmd, e.stage with
      | some o, .sent _ cs ws =>
        if second then failPeer s i e o []
        else
          sendTo { s with freeCtr := s.freeCtr + 1 } ((peerOf s (Handle.of ws)).getD 0)
            ((cs.drop (Config.lostChunk s.freeCtr % cs.length)).take 1)
      | some o, .begun _ dst tickets (w :: ws) =>
        if second && o.form == .pePull then failPeer (mixNear s e o (Handle.of (w :: ws)) dst) i e o tickets else s
      | _, _ => s)

end Sys2Proof.Machine
end

