-- ==== Sys2Proof/Machine/Creg.lean ====
section
/-! DEFINITION. MFCR and MTCR with their checks, and what comes about when a control-register write lands (R52 to R57,
R78, R157, R217, R289, R299, R404). -/

namespace Sys2Proof.Machine

/-- The bank whose format register a number names, when the unit does not hold that bank (R152). -/
def crForeignBank (u : Unit) (n : Nat) : Bool := 0x050 ≤ n && n < 0x060 && !u.pad.banks.getLsbD (n - 0x050)

/-- Whether the active levels of a loop stack are proper (R78). -/
def loopsOk (l : LoopState) : Bool :=
  l.depth ≤ 4 &&
    (upto 0 l.depth).all fun i =>
      let st := fun k => (nth l.start.toList k 0#19).toNat
      let en := fun k => (nth l.last.toList k 0#19).toNat
      let sel := fun k => nth l.sel.toList k 0#2
      st i ≤ en i && (i == 0 || (st (i - 1) ≤ st i && en i ≤ en (i - 1))) && (upto 0 i).all fun k => sel k != sel i

/-- Whether a write of a format register is valid (R157). -/
def fmtValid (v : W64) : Bool :=
  fld v 0 4 ≤ 0xC && !(fld v 8 2 == 3 && (fld v 0 4 == 0xA || fld v 0 4 == 0xB)) && fld v 16 11 + fld v 32 12 ≤ 2048
    && fld v 60 4 == 0 && fld v 44 4 == 0 && fld v 27 5 == 0 && fld v 10 6 == 0 && fld v 4 4 == 0

/-- Whether a write of CR.GXMODE is valid (R289). -/
def gxValid (v : W64) : Bool := fld v 56 2 != 3 && fld v 58 6 == 0 && fld v 37 19 == 0 && fld v 16 21 % 4 == 0

/-- The trap that a write of v to control register n raises at issue. -/
def crWriteTrap (s : State) (n : Nat) (v : W64) : Option (Nat × BitVec 12) :=
  let u := s.unit
  let num := BitVec.ofNat 12 n
  if !crAssigned n then some (0x16, num)
  else if crForeignBank u n then some (0x17, num)
  else if 0x014 ≤ n && n < 0x01C then
    let lv := if n < 0x018 then n - 0x014 else n - 0x018
    if lv < u.loops.depth && !loopsOk (crPoke u n v).loops then some (0x14, 0#12) else none
  else if n == 0x01C then (if loopsOk (setLdepth u.loops v) then none else some (0x14, 0#12))
  else if 0x050 ≤ n && n < 0x060 then (if fmtValid v then none else some (0x19, num))
  else if n == 0x083 then
    let q := BitVec.ofNat 12 u.cr.qsel.toNat
    match selRing u with
    | none => some (0x21, q)
    | some r => if ringBusy u u.cr.qsel || !qidxOk r v then some (0x21, q) else none
  else if n == 0x0A0 then
    (if gxValid v then none else some (0x2A, num))
  else if n == 0x0A2 then
    let ok :=
      fld v 6 58 == 0 && !u.cr.cbarPend &&
        match ringAt u.pad (v.setWidth 6) with
        | some r => r.cons == 0 && r.perm.testBit u.cr.lcore.toNat
        | none => false
    if ok then none else some (0x2A, num)
  else none

/-- MFCR Gd, CR (R52): the value as it stands at issue. -/
def slotMfcr (d : BitVec 6) (n : BitVec 11) (g : BitVec 4) (s : State) : SlotAnswer :=
  guarded g s fun s =>
    if !crAssigned n.toNat then .trap 0x16 (n.setWidth 12)
    else if crForeignBank s.unit n.toNat then .trap 0x17 (n.setWidth 12)
    else .go (pushG s 1 d (crRead s n.toNat))

def execMfcr (d : BitVec 6) (n : BitVec 11) (g : BitVec 4) (s : State) : Host.Outcome State Fault Refusal :=
  issueOne false false 1 false (slotMfcr d n g) s

/-- MTCR CR, Gd (R52): the write lands 1 issue cycle later; a write of CR.DRAWHI draws its NS entry (R404). -/
def slotMtcr (d : BitVec 6) (n : BitVec 11) (g : BitVec 4) (s : State) : SlotAnswer :=
  guarded g s fun s =>
    let v := gReg s.unit d
    match crWriteTrap s n.toNat v with
    | some (cause, code) => .trap cause code
    | none =>
      if n == 0x0D1#11 then
        if canDraw s.unit s.unit.ns 1 then .go (s.mapUnit fun u => push { u with ns := u.ns + 1 } 1 (.cr n v) 0#6) else .block
      else .go (s.mapUnit fun u => push u 1 (.cr n v) 0#6)

def execMtcr (d : BitVec 6) (n : BitVec 11) (g : BitVec 4) (s : State) : Host.Outcome State Fault Refusal :=
  issueOne false false 1 false (slotMtcr d n g) s

/-- A write of CR.LDEPTH takes effect (R78). -/
def execCrLdepthWrite (v : W64) (s : State) : Host.Outcome State Fault Refusal :=
  .next (if loopsOk (setLdepth s.unit.loops v) then crLand s 0x01C v else s)

/-- A write of CR.LSTARTn or CR.LENDn takes effect (R78). -/
def execCrLstartLendWrite (n : BitVec 11) (v : W64) (s : State) : Host.Outcome State Fault Refusal :=
  .next (if 0x014 ≤ n.toNat && n.toNat < 0x01C && (crWriteTrap s n.toNat v).isNone then crLand s n.toNat v else s)

/-- A write of a bank's format register takes effect (R157, R158). -/
def execCrBankfWrite (bank : BitVec 4) (v : W64) (s : State) : Host.Outcome State Fault Refusal :=
  .next (if (crWriteTrap s (0x050 + bank.toNat) v).isNone then crLand s (0x050 + bank.toNat) v else s)

/-- Raw indices of the selected descriptor take effect (R217). -/
def execCrQidxWrite (v : W64) (s : State) : Host.Outcome State Fault Refusal :=
  .next (if (crWriteTrap s 0x083 v).isNone then crLand s 0x083 v else s)

/-- A write of CR.GXMODE takes effect (R289). -/
def execCrGxmodeWrite (v : W64) (s : State) : Host.Outcome State Fault Refusal :=
  .next (if (crWriteTrap s 0x0A0 v).isNone then crLand s 0x0A0 v else s)

/-- An arrival at the cluster barrier by the unit on a logical core of the gang (R299): this unit's own, or another core's,
which the model knows by its arrival and the ring that it names (log 1). -/
def execCrCbarWrite (core : BitVec 4) (v : W64) (s : State) : Host.Outcome State Fault Refusal :=
  .next
    (if core == s.unit.cr.lcore then (if (crWriteTrap s 0x0A2 v).isNone then crLand s 0x0A2 v else s)
     else if inGang s.unit core.toNat && fld v 6 58 == 0 && !s.unit.cr.cbarPeers.getLsbD core.toNat then
       barrierAdvance (s.mapCr fun c =>
         { c with
           cbarPeers := c.cbarPeers ||| BitVec.ofNat 16 (2 ^ core.toNat)
           cbarRings := mset c.cbarRings core.toNat (v.setWidth 6) })
     else s)

/-- A release record in a ring that stands at r and has room: one slot is taken, GEN is written as 8 bytes at its start, and the
slot is committed or filled (R299). -/
def putRecord (pad : Pad) (q : BitVec 6) (r : Ring) (gen : BitVec 24) : Pad :=
  setRing (padWrite pad (r.addr r.rsv) 8 gen.toNat) q
    (some (if r.reorder then (r.reserve 1).fill r.rsv else (r.reserve 1).commitOne))

/-- The barrier block writes the unit's own release record; with no room it waits (R203, R299). -/
def barrierCommit (u : Unit) : Unit :=
  match u.cr.cbarRecs with
  | [] => u
  | (q, gen) :: rest =>
    match ringAt u.pad q with
    | none => { u with cr.cbarRecs := rest }
    | some r =>
      if (shownRing u q r).room == 0 then u
      else { u with pad := putRecord u.pad q r gen, cr.cbarRecs := rest }

/-- The release record of another core of the gang: written, or kept while its ring has no room. The model drops one whose ring it does
not hold (log 1). -/
def peerRecordOut (s : State) (x : Nat × BitVec 6 × BitVec 24) : State :=
  match (mget s.peers x.1).bind fun p => (ringAt p x.2.1).map fun r => (p, r) with
  | none => s
  | some (p, r) =>
    if r.room == 0 then s.mapCr fun c => { c with cbarOut := c.cbarOut ++ [x] }
    else { s with peers := mset s.peers x.1 (putRecord p x.2.1 r x.2.2) }

/-- R299: the barrier block writes the release records of a completed generation; for a gang that is not resident they wait (R204). -/
def execBarrierRecordCommit (s : State) : Host.Outcome State Fault Refusal :=
  .next
    (if !coreResident s then barrierAdvance s
    else
    let s := (barrierAdvance s).mapUnit barrierCommit
    s.unit.cr.cbarOut.foldl peerRecordOut (s.mapCr fun c => { c with cbarOut := [] }))

/-- A write of CR.DRAWHI takes effect: the register and the 16-byte write of DRAWBASE, whose NS entry it draws (R404). -/
def execCrDrawhiWrite (v : W64) (s : State) : Host.Outcome State Fault Refusal :=
  .next (if canDraw s.unit s.unit.ns 1 then crLand (s.mapUnit fun u => { u with ns := u.ns + 1 }) 0x0D1 v else s)

/-- A write of CR.FLAGSET takes effect: bit 5 sets RESZ (R404). -/
def execCrFlagsetWrite (v : W64) (s : State) : Host.Outcome State Fault Refusal := .next (crLand s 0x0D3 v)

end Sys2Proof.Machine
end

