-- ==== Sys2Proof/Machine/Feeders.lean ====
section
/-! DEFINITION. The operand fetchers of handle-bound feeders (R177, R179). -/

namespace Sys2Proof.Machine

/-- Queue of a feeder's fetches. -/
def feederQueue (north : Bool) : Nat := if north then 3 else 2

/-- The fetch of the feeder's next panel enters its queue (R177, R218, R221): while the hidden ring has room for it, the
queue has room and an NT entry can be drawn. It takes the format that the feeder took at its binding (R158). -/
def generatePanel (s : State) (north : Bool) : State :=
  let u := s.unit
  let f := feederOf u north
  let i := feederQueue north
  match f.src with
  | some (.handle d0 d1) =>
    let q := BitVec.ofNat 6 (fld d0 16 6)
    match ringAt u.pad q with
    | none => s
    | some r =>
      let waiting := ((queueOf u i).filter fun e => e.stage == .waiting).length
      if fld d0 32 32 ≤ f.fetched || queueLimit i ≤ (queueOf u i).length || !canDraw u u.nt 1 || r.room ≤ waiting then s
      else
        let real := u.pad.fmt
        let u := { u with nt := u.nt + 1, pad.fmt := real.setIfInBounds (r.base / Config.bankBytes) f.fmt }
        let u := enqueue u i (BitVec.ofNat 4 (fld f.fmt 56 4)) (.panel north f.bind f.fetched d0 d1)
        { s with unit := setFeeder { u with pad.fmt := real } north { f with fetched := f.fetched + 1 } }
  | _ => s

/-- Whether the data of a panel is dropped: its feeder has been bound again (R179), or an earlier panel of its plain hidden
ring failed and still holds its slot (R203). -/
def panelDropped (s : State) (e : QEntry) : Bool :=
  match e.cmd with
  | .panel north bind _ d0 _ =>
    (feederOf s.unit north).bind != bind
      || (match e.stage, ringAt s.unit.pad (BitVec.ofNat 6 (fld d0 16 6)) with
        | .begun _ _ [(_, x)] _, some r => !r.reorder && r.tail.toNat != x
        | _, _ => false)
  | _ => false

/-- A fetch whose data is dropped still performs (R179): its handle is read and its panel, and it ends without a slot and, the binding
being gone, without an error of its own. -/
def performDropped (s : State) (i : Nat) (e : QEntry) : State :=
  let w := copyWho s i e
  match copyOp e.cmd, e.halt with
  | some o, .none =>
    match readHandle s w o.handle with
    | (s, some (.stop va x)) => stopEntry s i e w 0 (parkOf i) va x
    | (s, some (.ok ws)) =>
      let h := Handle.of ws
      if h.ok && h.tgt == 0 && h.rights.testBit o.right && !(h.fault && outOfBounds o (hRows o h)) then
        match hRead s w (readKind i) o h (hRows o h) with
        | (s, .stop va x) => stopEntry s i e w (readKind i) (parkOf i) va x
        | (s, .ok _) => finishEntry s i
      else finishEntry s i
    | (s, none) => finishEntry s i
  | _, .parked _ _ => s
  | _, _ => finishEntry s i

/-- The panel fetch at the head of a feeder's queue is made: its copy begins and performs. -/
def performPanel (s : State) (north : Bool) : State :=
  let i := feederQueue north
  match readyEntry s.unit i with
  | none => s
  | some e =>
    if panelDropped s e then performDropped s i e
    else
      let s := copyBegin s i
      match readyEntry s.unit i with
      | some e' =>
        if e'.ord != e.ord then s
        else if panelDropped s e' then performDropped s i e'
        else copyPerform s i
      | none => s

/-- R177: a feeder's fetcher makes the panel fetch at the head of its queue, or generates its next one. -/
def execFeederPanelFetch (north : Bool) (s : State) : Host.Outcome State Fault Refusal :=
  .next
    (let s := landBinds s
    let parked := match readyEntry s.unit (feederQueue north) with
      | some e => (match e.halt with
        | .parked _ _ => true
        | _ => false)
      | none => true
    if parked then generatePanel s north else performPanel s north)

end Sys2Proof.Machine
end

