-- ==== Sys2Proof/Machine/KvCmds.lean ====
section
/-! DEFINITION. The KV page editor and the pantry (R329 to R331, R388 to R401). -/

namespace Sys2Proof.Machine

/-! ### Commands (R329, R389) -/

/-- A KV or pantry command enters KQ, as class 15 (R330, R389); a unit of a paired launch may not issue it (R354). -/
def issueKv (s : State) (bad : Bool) (cause : Nat) (more : List Nat) (cmd : Cmd) : SlotAnswer :=
  lowestCause ((if s.unit.launch.paired then [0x31] else []) ++ (if bad then [cause] else []) ++ more) (fun _ => 0#12)
    (issueCmd s 5 15#4 cmd)

/-- KVMAP Ga, Gb, G0 (R329). -/
def slotKvmap (a b c : BitVec 6) (g : BitVec 4) (s : State) : SlotAnswer :=
  guarded g s fun s =>
    let x := gReg s.unit a
    let y := gReg s.unit b
    issueKv s (c != 0#6 || fld y 32 32 != 0 || fld y 1 15 != 0 || x.toNat % 65536 != 0) 0x2E [] (.kvmap x y)

def execKvmap (a b c : BitVec 6) (g : BitVec 4) (s : State) : Host.Outcome State Fault Refusal :=
  issueOne true false 1 false (slotKvmap a b c g) s

/-- KVADV Ga, Gb, G0 (R389). -/
def slotKvadv (a b c : BitVec 6) (g : BitVec 4) (s : State) : SlotAnswer :=
  guarded g s fun s =>
    let x := gReg s.unit a
    let y := gReg s.unit b
    issueKv s (c != 0#6 || fld y 1 63 != 0 || x.toNat % 64 != 0) 0x34 [] (.kvadv x y)

def execKvadv (a b c : BitVec 6) (g : BitVec 4) (s : State) : Host.Outcome State Fault Refusal :=
  issueOne true false 1 false (slotKvadv a b c g) s

/-- KVTRUNC Ga, Gb, G0 (R389). -/
def slotKvtrunc (a b c : BitVec 6) (g : BitVec 4) (s : State) : SlotAnswer :=
  guarded g s fun s =>
    let x := gReg s.unit a
    let y := gReg s.unit b
    issueKv s (c != 0#6 || fld y 32 32 != 0 || x.toNat % 64 != 0) 0x34 [] (.kvtrunc x y)

def execKvtrunc (a b c : BitVec 6) (g : BitVec 4) (s : State) : Host.Outcome State Fault Refusal :=
  issueOne true false 1 false (slotKvtrunc a b c g) s

/-- The causes of a block record's address: in allotted banks (R389). -/
def blockCause (u : Unit) (y : W64) : List Nat := if padOk u.pad.banks y.toNat 320 then [] else [0x17]

/-- PNLOOK Ga, Gb, Gc (R389). -/
def slotPnlook (a b c : BitVec 6) (g : BitVec 4) (s : State) : SlotAnswer :=
  guarded g s fun s =>
    let x := gReg s.unit a
    let y := gReg s.unit b
    let z := gReg s.unit c
    issueKv s (x.toNat % 65536 != 0 || y.toNat % 32 != 0 || fld z 4 60 != 0) 0x34 (blockCause s.unit y) (.pnlook x y z)

def execPnlook (a b c : BitVec 6) (g : BitVec 4) (s : State) : Host.Outcome State Fault Refusal :=
  issueOne true false 1 false (slotPnlook a b c g) s

/-- PNINS Ga, Gb, Gc (R389). -/
def slotPnins (a b c : BitVec 6) (g : BitVec 4) (s : State) : SlotAnswer :=
  guarded g s fun s =>
    let x := gReg s.unit a
    let y := gReg s.unit b
    let z := gReg s.unit c
    issueKv s (x.toNat % 65536 != 0 || x == 0#64 || y.toNat % 32 != 0 || fld z 4 60 != 0) 0x34 (blockCause s.unit y) (.pnins x y z)

def execPnins (a b c : BitVec 6) (g : BitVec 4) (s : State) : Host.Outcome State Fault Refusal :=
  issueOne true false 1 false (slotPnins a b c g) s

/-- PNREL Ga, Gb, G0 (R389). -/
def slotPnrel (a b c : BitVec 6) (g : BitVec 4) (s : State) : SlotAnswer :=
  guarded g s fun s =>
    let x := gReg s.unit a
    let y := gReg s.unit b
    issueKv s (c != 0#6 || fld y 32 32 != 0 || fld y 4 12 != 0 || x.toNat % 65536 != 0) 0x34 [] (.pnrel x y)

def execPnrel (a b c : BitVec 6) (g : BitVec 4) (s : State) : Host.Outcome State Fault Refusal :=
  issueOne true false 1 false (slotPnrel a b c g) s

/-! ### Accesses of the editor -/

/-- Why a command of the editor stops: an error with its KIND, or an access that cannot go on. -/
inductive KvStop where
  | err (kind : Nat)
  | acc (va : W64) (kind : Nat) (x : XStop)

/-- The result of a part of a command. -/
abbrev KvRes (α : Type) := State × Except KvStop α

/-- The next part, where the one before did not stop. -/
def kvThen {α β : Type} (r : KvRes α) (f : α → State → KvRes β) : KvRes β :=
  match r with
  | (s, .ok a) => f a s
  | (s, .error e) => (s, .error e)

/-- The editor's accesses are of class 15, with agent code 3 (R389). -/
def kvWho (u : Unit) : Who := unitWho u 15#4 3#2

/-- Bytes read by the editor; kind 2: of a word it will also write. -/
def kvRead (s : State) (kind : Nat) (va : W64) (n : Nat) : KvRes (List Byte) :=
  match vread s (kvWho s.unit) kind va n with
  | (s, .ok bs) => (s, .ok bs)
  | (s, .stop a x) => (s, .error (.acc a kind x))

/-- Bytes written by the editor; a line of them in the unit's L1 takes them, so that bundles after the WAIT see them (R390). -/
def kvWrite (s : State) (va : W64) (bs : List Byte) : KvRes PUnit :=
  match vcheck s (kvWho s.unit) 1 [(va, bs.length)] with
  | (s, .stop a x) => (s, .error (.acc a 1 x))
  | (s, .ok _) =>
    match vwrite s (kvWho s.unit) true va bs with
    | (s, .ok _) => (s, .ok ⟨⟩)
    | (s, .stop a x) => (s, .error (.acc a 1 x))

/-! ### Leaves (R330, R389) -/

/-- Whether a page lies in the job's KV region. -/
def inRegion (s : State) (pva : Nat) : Bool :=
  match unitJob s with
  | some j => j.r.kvBase.toNat ≤ pva && pva + 65536 ≤ j.r.kvBase.toNat + j.r.kvLen.toNat
  | none => false

/-- VA of the job's frame pool. -/
def poolVa (s : State) : W64 := ((unitJob s).map fun j => j.r.pool).getD 0#64

/-- The level-1 table that a descent reaches; none where the walk fails. -/
def tableUnder (s : State) (key va : Nat) : Nat → Nat → Option Nat
  | 0, t => some t
  | lvl + 1, t =>
    match readEntry (dramRead8 s key (t + 8 * levelIndex va (lvl + 2))) (lvl + 2) 0 0#2 with
    | .table t _ => tableUnder s key va lvl t
    | _ => none

/-- The address of leaf 0 of a page in the unit's own tables; none outside the KV region or where the walk fails. -/
def leafBase (s : State) (pva : Nat) : Option Nat :=
  let c := s.unit.cr
  if !inRegion s pva || !asidLive s c.asidSlot c.asidGen then none
  else
    match asidOf s c.asidSlot with
    | none => none
    | some a => (tableUnder s (keyOf s (slotPart s c.asidSlot)) pva 4 (a.root.toNat * 4096)).map fun t => t + 8 * levelIndex pva 1

/-- Key of the unit's partition. -/
def unitKey (s : State) : Nat := keyOf s (slotPart s s.unit.cr.asidSlot)

/-- The 16 leaves of a page. -/
def leavesAt (s : State) (at_ : Nat) : List W64 := (upto 0 16).map fun i => dramRead8 s (unitKey s) (at_ + 8 * i)

/-- The 16 leaves of a page written, and the page invalidated under the unit's slot (R320, R330). -/
def putLeaves (s : State) (pva at_ : Nat) (ls : List W64) : State :=
  let s1 := ((upto 0 16).zip ls).foldl (fun s (i, x) =>
    dropZeroed (dramWrite s (unitKey s) (at_ + 8 * i) (leBytes x.toNat 8)) (at_ + 8 * i) x) s
  purge s1 s1.unit.cr.asidSlot pva 65536

/-- The leaves of a page and their address, or KIND 0x2F. -/
def pageLeaves (s : State) (pva : Nat) : Except KvStop (Nat × List W64) :=
  match leafBase s pva with
  | none => .error (.err 0x2F)
  | some a => .ok (a, leavesAt s a)

def leafFrame (x : W64) : Nat := fld x 12 40

/-- The leaves of a page of 16 frames from f. -/
def mapLeaves (f low : Nat) : List W64 := (upto 0 16).map fun i => w64 ((f + i) * 4096 + low)

/-! ### The frame pool (R330) -/

/-- TOP and CAPACITY. -/
def poolTop (s : State) : KvRes (Nat × Nat) :=
  kvThen (kvRead s 2 (poolVa s) 8) fun bs s => (s, .ok (leNat (bs.take 4), leNat (bs.drop 4)))

def setTop (s : State) (top : Nat) : KvRes PUnit := kvWrite s (poolVa s) (leBytes top 4)

def poolEntry (s : State) (k : Nat) : W64 := poolVa s + w64 (8 + 8 * k)

/-- Whether a popped frame begins sixteen frames of main memory at a multiple of 16. -/
def poolFrameOk (f : Nat) : Bool := f % 16 == 0 && f + 15 < Config.mainFrames

/-- A frame popped: KIND 0x30 where the pool is empty or the entry is unfit, the pool then unchanged. -/
def poolPop (s : State) : KvRes Nat :=
  kvThen (poolTop s) fun (top, _) s =>
    if top == 0 then (s, .error (.err 0x30))
    else
      kvThen (kvRead s 0 (poolEntry s (top - 1)) 8) fun bs s =>
        if !poolFrameOk (leNat bs) then (s, .error (.err 0x30)) else kvThen (setTop s (top - 1)) fun _ s => (s, .ok (leNat bs))

/-- A frame pushed: KIND 0x30 where the pool is full. -/
def poolPush (s : State) (f : Nat) : KvRes PUnit :=
  kvThen (poolTop s) fun (top, cap) s =>
    if top == cap then (s, .error (.err 0x30))
    else kvThen (kvWrite s (poolEntry s top) (leBytes f 8)) fun _ s => setTop s (top + 1)

/-! ### The pantry (R393 to R399) -/

/-- The pantry n of the unit's partition, where it is registered. -/
def pantryOf (s : State) (n : Nat) : Option Pantry := if n < 16 then mget s.pantries (16 * s.unit.cr.part.toNat + n) else none

/-- Key under which the pantry logic of a partition works. -/
def pantryKey (s : State) : Nat := keyOf s s.unit.cr.part

/-- Bytes of physical memory read at the controllers. -/
def physRead (s : State) (key pa n : Nat) : List Byte := (upto pa n).map fun a => dramByte s key a

/-- A pantry entry (R394). -/
structure PnEntry where
  key    : List Byte
  model  : Nat
  ntok   : Nat
  state  : Nat
  refs   : Nat
  parent : Nat
  frame  : Nat
  tokens : List Nat
deriving DecidableEq, Repr

/-- Address of entry e of bucket b. -/
def pnAddr (p : Pantry) (b e : Nat) : Nat := p.buckets + 2560 * b + 320 * e

def pnRead (s : State) (p : Pantry) (b e : Nat) : PnEntry :=
  let bs := physRead s (pantryKey s) (pnAddr p b e) 320
  let f := fun o n => leNat ((bs.drop o).take n)
  { key := bs.take 16, model := f 16 4, ntok := f 20 1, state := f 21 1, refs := f 22 2, parent := f 24 8, frame := f 32 8
    tokens := (upto 0 64).map fun i => f (64 + 4 * i) 4 }

def pnBytes (x : PnEntry) : List Byte :=
  x.key ++ leBytes x.model 4 ++ leBytes x.ntok 1 ++ leBytes x.state 1 ++ leBytes x.refs 2 ++ leBytes x.parent 8 ++ leBytes x.frame 8
    ++ leBytes 0 24 ++ x.tokens.flatMap fun t => leBytes t 4

def pnWrite (s : State) (p : Pantry) (b e : Nat) (x : PnEntry) : State := dramWrite s (pantryKey s) (pnAddr p b e) (pnBytes x)

/-- Back-map word of a frame. -/
def backWord (s : State) (p : Pantry) (frame : Nat) : Nat := leNat (physRead s (pantryKey s) (p.backmap + 4 * (frame / 16)) 4)

def setBack (s : State) (p : Pantry) (frame w : Nat) : State := dramWrite s (pantryKey s) (p.backmap + 4 * (frame / 16)) (leBytes w 4)

/-- A block record as the unit wrote it (R395). -/
structure BlockRec where
  model     : Nat
  ntok      : Nat
  parent    : Nat
  parentKey : List Byte
  tokens    : List Nat
  ok        : Bool
deriving DecidableEq, Repr

def blockRec (p : Pad) (a : Nat) : BlockRec :=
  let f := fun o n => padRead p (a + o) n
  let ntok := f 4 1
  let toks := (upto 0 (min ntok 64)).map fun i => f (64 + 4 * i) 4
  { model := f 0 4, ntok := ntok, parent := f 8 8, parentKey := readBytes p.bytes (a + 16) 16, tokens := toks
    ok := 1 ≤ ntok && ntok ≤ 64 && (toks.all fun t => t < 2 ^ 20) && f 6 2 == 0 && f 50 6 == 0 }

/-- The key of a block (R396). -/
def blockKey (r : BlockRec) : List Byte :=
  (sha3_256 (leBytes r.model 4 ++ r.parentKey ++ r.tokens.flatMap fun t => leBytes t 4)).take 16

def pnBucket (p : Pantry) (key : List Byte) : Nat := leNat (key.take 8) % 2 ^ p.log2n

/-- Whether an entry matches a record (R396). -/
def pnMatches (x : PnEntry) (r : BlockRec) (key : List Byte) : Bool :=
  x.state == 1 && x.key == key && x.model == r.model && x.ntok == r.ntok && x.parent == r.parent && x.tokens.take r.ntok == r.tokens

/-- The first entry of a bucket with a property. -/
def pnFind (s : State) (p : Pantry) (b : Nat) (f : PnEntry → Bool) : Option (Nat × PnEntry) :=
  ((upto 0 8).map fun e => (e, pnRead s p b e)).find? fun x => f x.2

/-- Fields of a block record written by the command. -/
def setBlock (s : State) (a o n v : Nat) : State := s.mapUnit fun u => { u with pad := padWrite u.pad (a + o) n v }

/-- KEY written into the block record. -/
def setBlockKey (s : State) (a : Nat) (key : List Byte) : State := s.mapUnit fun u => { u with pad := padPut u.pad (a + 32) key }

/-- STATUS, REFS and FRAME written into the block record. -/
def setBlockOut (s : State) (a status refs frame : Nat) : State :=
  setBlock (setBlock (setBlock s a 5 1 status) a 48 2 refs) a 56 8 frame

/-- One reference of a shared page released, and its leaves cleared (R398). -/
def releaseShared (s : State) (n pva : Nat) : KvRes PUnit :=
  match pantryOf s n with
  | none => (s, .error (.err 0x35))
  | some p =>
    match pageLeaves s pva with
    | .error e => (s, .error e)
    | .ok (a, ls) =>
      if ls.any fun x => !fbit x 0 || !fbit x 10 then (s, .error (.err 0x2F))
      else
        let w := backWord s p (leafFrame (nth ls 0 0#64))
        let b := (w - 1) / 8
        let e := (w - 1) % 8
        let x := pnRead s p b e
        if w == 0 || x.refs == 0 then (s, .error (.err 0x36))
        else
          let s := if x.refs < 65535 then pnWrite s p b e { x with refs := x.refs - 1 } else s
          (putLeaves s pva a (List.replicate 16 0#64), .ok ⟨⟩)

/-- The pantry of the unit's partition that owns a frame by its back map (R394). -/
def owningPantry (s : State) (frame : Nat) : Option Nat :=
  (upto 0 16).find? fun n => (pantryOf s n).any fun p =>
    let w := backWord s p frame
    w != 0 && (pnRead s p ((w - 1) / 8) ((w - 1) % 8)).frame == frame

/-- A page released as KVTRUNC and KVADV release one (R392): a shared page to the pantry n, a private one to the pool. KVADV, whose
descriptor names no pantry, finds it by the back maps (log 83). -/
def releasePage (s : State) (n : Option Nat) (pva : Nat) : KvRes PUnit :=
  match pageLeaves s pva with
  | .error e => (s, .error e)
  | .ok (a, ls) =>
    if ls.any fun x => !fbit x 0 then (s, .error (.err 0x2F))
    else if fbit (nth ls 0 0#64) 10 then
      match n.orElse fun _ => owningPantry s (leafFrame (nth ls 0 0#64)) with
      | some n => releaseShared s n pva
      | none => (s, .error (.err 0x36))
    else kvThen (poolPush s (leafFrame (nth ls 0 0#64))) fun _ s => (putLeaves s pva a (List.replicate 16 0#64), .ok ⟨⟩)

/-- A page mapped from the pool (R330). -/
def mapPage (s : State) (pva : Nat) : KvRes PUnit :=
  match pageLeaves s pva with
  | .error e => (s, .error e)
  | .ok (a, ls) =>
    if ls.any fun x => fbit x 0 then (s, .error (.err 0x2F))
    else kvThen (poolPop s) fun f s => (putLeaves s pva a (mapLeaves f 0x13F), .ok ⟨⟩)

/-- A page unmapped (R330). -/
def unmapPage (s : State) (pva : Nat) : KvRes PUnit :=
  match pageLeaves s pva with
  | .error e => (s, .error e)
  | .ok (a, ls) =>
    if ls.any fun x => !fbit x 0 then (s, .error (.err 0x2F))
    else if fbit (nth ls 0 0#64) 10 then (putLeaves s pva a (List.replicate 16 0#64), .ok ⟨⟩)
    else kvThen (poolPush s (leafFrame (nth ls 0 0#64))) fun _ s => (putLeaves s pva a (List.replicate 16 0#64), .ok ⟨⟩)

/-! ### How a command goes on and ends (R331, R389) -/

/-- The pages that a command may unmap, as (first byte, bytes): exactly those of KVMAP and PNREL, else any of the KV region. -/
def unmapRange (s : State) (c : Cmd) : Nat × Nat :=
  match c with
  | .kvmap a b => (a.toNat, if fbit b 0 then 65536 * (fld b 16 16 + 1) else 0)
  | .pnrel a b => (a.toNat, 65536 * (fld b 16 16 + 1))
  | .kvtrunc _ _ => ((unitJob s).elim (0, 0) fun j => (j.r.kvBase.toNat, j.r.kvLen.toNat))
  | _ => (0, 0)

/-- Whether a copy that stands in a queue reaches into a range, as far as its object-table entry says now. -/
def copyTouches (s : State) (i : Nat) (e : QEntry) (va bytes : Nat) : Bool :=
  match copyOp e.cmd with
  | none => false
  | some o =>
    o.usesHandle && (match (readHandle s (copyWho s i e) o.handle).2 with
      | some (.ok ws) => (hRanges (hRows o (Handle.of ws))).any fun r => overlap r.1.toNat r.2 va bytes
      | _ => false)

/-- Whether accesses of the unit have still to perform before the command at the head of KQ: those that were translated in the KV region
(R320), and its earlier accesses to pages that the command may unmap, the copies of its queues among them (R331). -/
def kvWaits (s : State) : Bool :=
  let u := s.unit
  match unitJob s, queueOf u 5 with
  | some j, k :: _ =>
    let (va, bytes) := unmapRange s k.cmd
    !(translatedAccs s u.cr.asidSlot j.r.kvBase.toNat j.r.kvLen.toNat).isEmpty
      || (u.accs.any fun a => a.id < k.ord && !a.performed && a.parts.any fun p => overlap p.va.toNat 16 va bytes)
      || ((upto 0 4).any fun i => (queueOf u i).any fun e => e.ord < k.ord && copyTouches s i e va bytes)
      || ([0, 1].any fun i => match queueOf u i with
        | e :: _ => ladlePending s e.ord fun _ => true
        | [] => false)
  | _, _ => false

/-- The command stops: it is parked or aborted at an access, or completes with an error at a page. -/
def kvStop (s : State) (e : QEntry) (page : Nat) (st : KvStop) : State :=
  match st with
  | .err kind => failEntry s 5 e none page kind 0#4 0#64 none
  | .acc va kind x => stopEntry s 5 e (kvWho s.unit) kind .kq va x

/-- The page at which a command of KQ stands. -/
def kvPage (e : QEntry) : Nat :=
  match e.stage with
  | .begun p _ _ _ => p
  | _ => 0

/-- A command at the head of KQ that may go on: its entry; an aborted access ends it with KIND 0x2D. -/
def kvRun (s : State) (f : QEntry → State) : State :=
  match readyEntry s.unit 5 with
  | none => s
  | some e =>
    match e.halt with
    | .parked _ _ => s
    | .aborted code va => failEntry s 5 e none (kvPage e) 0x2D code va none
    | .none => if kvWaits s then s else f e

/-- Pages of a command from p on, one at a time; fuel: pages left. -/
def kvPages (f : State → Nat → KvRes PUnit) (e : QEntry) : Nat → Nat → State → State
  | 0, _, s => finishEntry s 5
  | n + 1, p, s =>
    match f s p with
    | (s, .ok _) => kvPages f e n (p + 1) s
    | (s, .error st) => kvStop s { e with stage := .begun p 0 [] [] } p st

/-- R330: the KVMAP at the head of KQ. -/
def execKvmapExec (s : State) : Host.Outcome State Fault Refusal :=
  .next (kvRun s fun e =>
    match e.cmd with
    | .kvmap a b =>
      let page := fun p => a.toNat + 65536 * p
      kvPages (fun s p => if fld b 0 2 == 0 then mapPage s (page p) else unmapPage s (page p)) e
        (fld b 16 16 + 1 - kvPage e) (kvPage e) s
    | _ => s)

/-- R398: the PNREL at the head of KQ. -/
def execPnrelExec (s : State) : Host.Outcome State Fault Refusal :=
  .next (kvRun s fun e =>
    match e.cmd with
    | .pnrel a b =>
      kvPages (fun s p => releaseShared s (fld b 0 4) (a.toNat + 65536 * p)) e (fld b 16 16 + 1 - kvPage e) (kvPage e) s
    | _ => s)

/-! ### PNLOOK and PNINS (R397, R398) -/

/-- The block record of a command, checked with its pantry before any leaf: KIND 0x35 (log 47). -/
def withBlock (s : State) (e : QEntry) (y z : W64) (f : Pantry → BlockRec → State) : State :=
  let r := blockRec s.unit.pad y.toNat
  match pantryOf s (fld z 0 4) with
  | none => kvStop s e 0 (.err 0x35)
  | some p => if r.ok then f p r else kvStop s e 0 (.err 0x35)

/-- R397: the PNLOOK at the head of KQ. -/
def execPnlookExec (s : State) : Host.Outcome State Fault Refusal :=
  .next (kvRun s fun e =>
    match e.cmd with
    | .pnlook x y z => withBlock s e y z fun p r =>
      let key := blockKey r
      let b := pnBucket p key
      let at_ := y.toNat
      let s := setBlockKey s at_ key
      match pnFind s p b fun v => pnMatches v r key with
      | none =>
        let coll := (pnFind s p b fun v => v.state == 1 && v.key == key).isSome
        finishEntry (setBlockOut s at_ (if coll then 2 else 0) 0 0) 5
      | some (i, v) =>
        if x == 0#64 then finishEntry (setBlockOut s at_ 1 v.refs v.frame) 5
        else
          match pageLeaves s x.toNat with
          | .error st => kvStop s e 0 st
          | .ok (a, ls) =>
            if ls.any fun l => fbit l 0 then kvStop s e 0 (.err 0x2F)
            else
              let v := if v.refs < 65535 then { v with refs := v.refs + 1 } else v
              let s := putLeaves (pnWrite s p b i v) x.toNat a (mapLeaves v.frame 0x437)
              finishEntry (setBlockOut s at_ 1 v.refs v.frame) 5
    | _ => s)

/-- A private page becomes the shared page of an entry (R398). -/
def pnInsert (s : State) (p : Pantry) (b i : Nat) (r : BlockRec) (key : List Byte) (pva a : Nat) (ls : List W64) (at_ : Nat) : State :=
  let frame := leafFrame (nth ls 0 0#64)
  let v : PnEntry :=
    { key := key, model := r.model, ntok := r.ntok, state := 1, refs := 1, parent := r.parent, frame := frame
      tokens := r.tokens ++ List.replicate (64 - r.tokens.length) 0 }
  let s := setBack (pnWrite s p b i v) p frame (8 * b + i + 1)
  let s := putLeaves s pva a (ls.map fun x => (x ||| 0x400#64) &&& ~~~0x88#64)
  setBlockOut s at_ 3 1 frame

/-- R398: the PNINS at the head of KQ. -/
def execPninsExec (s : State) : Host.Outcome State Fault Refusal :=
  .next (kvRun s fun e =>
    match e.cmd with
    | .pnins x y z =>
      withBlock s e y z fun p r =>
        match pageLeaves s x.toNat with
        | .error st => kvStop s e 0 st
        | .ok (a, ls) =>
          if ls.any fun l => !fbit l 0 || fbit l 10 then kvStop s e 0 (.err 0x2F)
          else
            let key := blockKey r
            let b := pnBucket p key
            let at_ := y.toNat
            let s := setBlockKey s at_ key
            if (pnFind s p b fun v => pnMatches v r key).isSome then finishEntry (setBlock s at_ 5 1 4) 5
            else
              match pnFind s p b fun v => v.state == 0 with
              | some (i, _) => finishEntry (pnInsert s p b i r key x.toNat a ls at_) 5
              | none =>
                match pnFind s p b fun v => v.refs == 0 with
                | none => finishEntry (setBlock s at_ 5 1 5) 5
                | some (i, v) =>
                  match poolPush s v.frame with
                  | (s, .error st) => kvStop s e 0 st
                  | (s, .ok _) => finishEntry (pnInsert (setBack s p v.frame 0) p b i r key x.toNat a ls at_) 5
    | _ => s)

/-! ### KVTRUNC (R391, R392) -/

/-- A sequence record (R391). -/
structure SeqRec where
  base   : Nat
  ntok   : Nat
  npages : Nat
  block  : Nat
  pantry : Nat
  zero   : Bool
deriving DecidableEq, Repr

def seqRec (bs : List Byte) : SeqRec :=
  let f := fun o n => leNat ((bs.drop o).take n)
  { base := f 0 8, ntok := f 8 4, npages := f 12 4, block := f 16 1, pantry := f 17 1, zero := f 19 45 == 0 }

def seqOk (s : State) (r : SeqRec) : Bool :=
  8 ≤ r.block && r.block ≤ 64 && r.npages == ceilDiv r.ntok r.block && r.zero && r.base % 65536 == 0
    && (r.npages == 0 || (inRegion s r.base && inRegion s (r.base + 65536 * (r.npages - 1))))

/-- NTOK, NPAGES and PARTIAL written into a sequence record. -/
def seqWrite (s : State) (va : W64) (ntok npages partial_ : Nat) : KvRes PUnit :=
  kvThen (kvWrite s (va + 8) (leBytes ntok 4 ++ leBytes npages 4)) fun _ s => kvWrite s (va + 18) (leBytes partial_ 1)

/-- The record's write at the end of a KVTRUNC whose pages stand at np: without error, or with the error of a KIND. -/
def truncEnd (s : State) (e : QEntry) (va : W64) (r : SeqRec) (ws : List W64) (n np : Nat) (kind : Option Nat) : State :=
  let ntok := if kind.isSome then min r.ntok (r.block * np) else n
  let part := if np == 0 then 0 else ntok - r.block * (np - 1)
  match seqWrite s va ntok np part with
  | (s, .error st) => kvStop s { e with stage := .begun np (1 + (kind.getD 0)) [] ws } (np - 1) st
  | (s, .ok _) =>
    match kind with
    | some k => kvStop s e (np - 1) (.err k)
    | none => finishEntry s 5

/-- Pages released from page np − 1 down to page newp; fuel: pages left. -/
def truncPages (e : QEntry) (va : W64) (r : SeqRec) (ws : List W64) (n newp : Nat) : Nat → Nat → State → State
  | 0, np, s => truncEnd s e va r ws n np none
  | k + 1, np, s =>
    if np ≤ newp then truncEnd s e va r ws n np none
    else
      match releasePage s (some r.pantry) (r.base + 65536 * (np - 1)) with
      | (s, .ok _) => truncPages e va r ws n newp k (np - 1) s
      | (s, .error (.err kind)) => truncEnd s e va r ws n np (some kind)
      | (s, .error st) => kvStop s { e with stage := .begun np 0 [] ws } (np - 1) st

/-- The first page with a leaf that is not valid. -/
def truncBad (s : State) (r : SeqRec) : Option Nat :=
  (upto 0 r.npages).find? fun p =>
    match pageLeaves s (r.base + 65536 * p) with
    | .error _ => true
    | .ok (_, ls) => ls.any fun x => !fbit x 0

/-- R392: the KVTRUNC at the head of KQ. Where it has begun, the record as it read it stands with its entry. -/
def execKvtruncExec (s : State) : Host.Outcome State Fault Refusal :=
  .next
    (match readyEntry s.unit 5 with
    | none => s
    | some e =>
      match e.cmd with
      | .kvtrunc a b =>
        let n := fld b 0 32
        let recOf := fun (ws : List W64) => seqRec (ws.flatMap fun w => leBytes w.toNat 8)
        let newOf := fun (r : SeqRec) => ceilDiv n r.block
        match e.halt, e.stage with
        | .parked _ _, _ => s
        | .aborted code va, .begun np ph _ ws =>
          if ph == 0 then truncEnd s { e with halt := .none } a (recOf ws) ws n np (some 0x2D)
          else failEntry s 5 e none (np - 1) (if ph == 1 then 0x2D else ph - 1) code va none
        | .aborted code va, _ => failEntry s 5 e none 0 0x2D code va none
        | .none, .begun np ph _ ws =>
          let r := recOf ws
          if kvWaits s then s
          else if ph == 0 then truncPages e a r ws n (newOf r) np np s
          else truncEnd s e a r ws n np (if ph == 1 then none else some (ph - 1))
        | .none, _ =>
          if kvWaits s then s
          else
            match kvRead s 0 a 64 with
            | (s, .error st) => kvStop s e 0 st
            | (s, .ok bs) =>
              let r := seqRec bs
              let ws := (chunks 8 8 bs).map fun l => w64 (leNat l)
              if !seqOk s r || r.ntok < n then kvStop s e 0 (.err 0x38)
              else
                match truncBad s r with
                | some p => kvStop s e p (.err 0x2F)
                | none => truncPages e a r ws n (newOf r) r.npages r.npages s
      | _ => s)

/-! ### KVADV (R400, R401) -/

/-- A window descriptor (R400). -/
structure Window where
  base    : Nat
  nslot   : Nat
  count   : Nat
  keymask : Nat
  order   : List Nat
  kframe  : List Nat
  ok      : Bool
deriving DecidableEq, Repr

def onesIn (n : Nat) (x : Nat) : Nat := ((upto 0 n).filter fun i => x.testBit i).length

def windowOf (s : State) (bs : List Byte) : Window :=
  let f := fun o n => leNat ((bs.drop o).take n)
  let nslot := f 8 1
  let count := f 9 1
  let mask := f 10 2
  let ord := (upto 0 16).map fun i => f (16 + i) 1
  let base := f 0 8
  { base := base, nslot := nslot, count := count, keymask := mask, order := ord.take count, kframe := [f 32 4, f 36 4]
    ok := 1 ≤ nslot && nslot ≤ 16 && count ≤ nslot && onesIn 16 mask ≤ 2 && mask < 2 ^ nslot && f 13 3 == 0 && f 40 24 == 0
      && (ord.drop count).all (· == 0xFF) && ((ord.take count).all fun x => x < nslot) && decide (ord.take count).Nodup
      && f 32 4 % 16 == 0 && base % 65536 == 0 && inRegion s base && inRegion s (base + 65536 * (nslot - 1)) }

def windowBytes (d : Window) (last : Nat) : List Byte :=
  leBytes d.base 8 ++ leBytes d.nslot 1 ++ leBytes d.count 1 ++ leBytes d.keymask 2 ++ leBytes last 1 ++ leBytes 0 3
    ++ (d.order ++ List.replicate (16 - d.order.length) 0xFF).flatMap (fun x => leBytes x 1) ++ d.kframe.flatMap (fun x => leBytes x 4)
    ++ leBytes 0 24

/-- Whether 16 frames from f are pinned for the unit's partition. -/
def pinnedPage (s : State) (f : Nat) : Bool := (upto f 16).all fun x => mget s.pinned x == some s.unit.cr.part

/-- The changes of a KVADV on a descriptor: eviction, mapping, descriptor. The state of a stopped part is thrown away, so
that a failing command changes nothing (R401). -/
def advance (s : State) (va : W64) (key : Bool) (d : Window) : KvRes PUnit :=
  let full := d.count == d.nslot
  let victim := d.order.find? fun x => !d.keymask.testBit x
  let evicted : KvRes (Nat × List Nat) :=
    if full then
      match victim with
      | none => (s, .error (.err 0x37))
      | some v => kvThen (releasePage s none (d.base + 65536 * v)) fun _ s => (s, .ok (v, d.order.erase v))
    else (s, .ok (((upto 0 d.nslot).find? fun x => !d.order.contains x).getD 0, d.order))
  kvThen evicted fun (sl, order) s =>
    let pva := d.base + 65536 * sl
    let k := onesIn 16 d.keymask
    let f := nth d.kframe k 0
    let mapped : KvRes PUnit :=
      if key then
        if k == 2 || !pinnedPage s f then (s, .error (.err 0x37))
        else
          match leafBase s pva with
          | none => (s, .error (.err 0x2F))
          | some a => (putLeaves s pva a (mapLeaves f 0x03F), .ok ⟨⟩)
      else mapPage s pva
    kvThen mapped fun _ s =>
      let d := { d with
        order := order ++ [sl], count := order.length + 1, keymask := if key then d.keymask ||| 2 ^ sl else d.keymask }
      kvWrite s va (windowBytes d sl)

/-- R401: the KVADV at the head of KQ. Its descriptor is read as a read-modify-write (log 47). -/
def execKvadvExec (s : State) : Host.Outcome State Fault Refusal :=
  .next (kvRun s fun e =>
    match e.cmd with
    | .kvadv a b =>
      match kvRead s 2 a 64 with
      | (s, .error st) => kvStop s e 0 st
      | (s, .ok bs) =>
        let d := windowOf s bs
        if !d.ok then kvStop s e 0 (.err 0x37)
        else
          match advance s a (fbit b 0) d with
          | (s', .ok _) => finishEntry s' 5
          | (_, .error st) => kvStop s e 0 st
    | _ => s)

/-! ### System software and the pantry (R393, R399) -/

/-- Bytes of a pantry's back map: a word for each group of 16 frames. -/
def backBytes : Nat := 4 * (Config.mainFrames / 16)

/-- R393: a pantry is registered. -/
def execPantryRegister (part : BitVec 4) (n : BitVec 4) (buckets log2n backmap : Nat) (s : State) : Host.Outcome State Fault Refusal :=
  if Config.mainBytes < buckets + 2560 * 2 ^ log2n then .fault (.noSuchAddress buckets)
  else if Config.mainBytes < backmap + backBytes then .fault (.noSuchAddress backmap)
  else
    .next
      (if buckets % 4096 != 0 || log2n < 6 || 24 < log2n then s
      else { s with pantries := mset s.pantries (16 * part.toNat + n.toNat) ⟨buckets, log2n, backmap⟩ })

/-- R399: a purge empties an entry, whatever its reference count. -/
def execPantryPurge (part : BitVec 4) (n : BitVec 4) (bucket entry : Nat) (s : State) : Host.Outcome State Fault Refusal :=
  .next
    (match mget s.pantries (16 * part.toNat + n.toNat) with
    | none => s
    | some p =>
      if 8 ≤ entry || 2 ^ p.log2n ≤ bucket then s
      else
        let key := keyOf s part
        let frame := leNat (physRead s key (pnAddr p bucket entry + 32) 8)
        let word := p.backmap + 4 * (frame / 16)
        let s := if leNat (physRead s key word 4) == 8 * bucket + entry + 1 then dramWrite s key word (leBytes 0 4) else s
        dramWrite s key (pnAddr p bucket entry) (List.replicate 320 0#8))

end Sys2Proof.Machine
end

