-- ==== Sys2Proof/Machine/Media.lean ====
section
/-! DEFINITION. Frame rings, the latent decoder and the video encoder (R461 to R476). -/

namespace Sys2Proof.Machine

/-! ### Frame rings (R461 to R464) -/

/-- Bytes between the slots of a frame ring (R462). -/
def frStride (r : FrameRingReg) : Nat := ceilDiv (3 * r.w * r.h) 4096 * 4096

/-- Bytes that a frame ring spans (R462). -/
def frSpan (r : FrameRingReg) : Nat := 4096 + r.nslot * frStride r

/-- Tiles of a frame. -/
def frTiles (r : FrameRingReg) : Nat := ceilDiv r.w 64 * ceilDiv r.h 64

/-- The identity of accesses made under a registration's slot (log 12). -/
def regWho (s : State) (slot : BitVec 12) : Who := edgeWho slot (((asidOf s slot).map (·.gen)).getD 0#4)

/-- The VA of byte off of a ring's span. -/
def frVa (r : FrameRingReg) (off : Nat) : W64 := r.base + w64 off

/-- Bytes written in a ring's span by a decoder or encoder, or by the Clatik complex, each line translated as any write is (R316, R320); here:
by an agent of the modelled cluster. -/
def frameWrite (s : State) (here : Bool) (r : FrameRingReg) (off : Nat) (bs : List Byte) : State :=
  edgeWriteL1 s (regWho s r.slot) (here && s.unit.launch.fuse) none (frVa r off) bs

/-- The status block (R463). -/
def statusBytes (r : FrameRing) : List Byte :=
  leBytes r.fhead.toNat 4 ++ leBytes 0 12
    ++ r.slots.flatMap fun x => leBytes x.st 1 ++ leBytes 0 1 ++ leBytes x.tiles 2 ++ leBytes x.fn.toNat 4 ++ leBytes 0 8

/-- A frame ring changed, its status block following it. -/
def putFrames (s : State) (r : FrameRing) : State :=
  frameWrite { s with frames := mset s.frames r.reg.fr.toNat r } true r.reg 0 (statusBytes r)

def frameRing (s : State) (fr : BitVec 6) : Option FrameRing := mget s.frames fr.toNat

def FrameSlot.free : FrameSlot := ⟨0, 0#32, 0, []⟩

/-- The slot of a frame number. -/
def FrameRing.slotOf (r : FrameRing) (fn : W32) : FrameSlot := nth r.slots (fn.toNat % r.reg.nslot) .free

def FrameRing.setSlot (r : FrameRing) (fn : W32) (x : FrameSlot) : FrameRing :=
  { r with slots := modAt r.slots (fn.toNat % r.reg.nslot) fun _ => x }

/-- Whether a frame is admissible, its slot free or holding it (R464, R467). -/
def FrameRing.admits (r : FrameRing) (fn : W32) : Bool :=
  (fn - r.fhead).toNat < r.reg.nslot && ((r.slotOf fn).st == 0 || (r.slotOf fn).fn == fn)

/-- Whether a frame is stale (R467). -/
def FrameRing.stale (r : FrameRing) (fn : W32) : Bool := let d := (r.fhead - fn).toNat; 1 ≤ d && d ≤ 2 ^ 31

/-- The frame in encoding is done with: its slot is free and FHEAD moves on (R464). -/
def freeFrame (s : State) (fr : BitVec 6) (fn : W32) : State :=
  match frameRing s fr with
  | none => s
  | some r =>
    if (r.slotOf fn).st == 3 && (r.slotOf fn).fn == fn then putFrames s { r.setSlot fn .free with fhead := r.fhead + 1 } else s

/-- The frame to which a page of a ring's span leads, where it is pinned for the partition. The page is located as for a read or, where it
may not be read, as for a write. -/
def pinnedAt (s : State) (r : FrameRingReg) (p : Nat) : Option Nat :=
  let at_ := fun kind => match (locate s (regWho s r.slot) (frVa r (4096 * p)) kind true).2 with
    | .ok (.mem pa _ _) => some (pa / 4096)
    | _ => none
  ((at_ 0).or (at_ 1)).filter fun f => mget s.pinned f == some r.part

/-- Whether the fields of a registration keep their limits (R461). -/
def frameRegOk (r : FrameRingReg) : Bool :=
  2 ≤ r.nslot && r.nslot ≤ 8 && 64 ≤ r.w && r.w ≤ 3840 && 64 ≤ r.h && r.h ≤ 2160 && r.w % 2 == 0 && r.h % 2 == 0
    && r.base.toNat % 4096 == 0 && r.matrix.toNat < 2 && r.range.toNat < 2

/-- R461: registration; it fails whole. A fault at the affine table parks the read, and the registration is tried again as it is
resumed (R323). -/
def execFrameRingRegister (r : FrameRingReg) (s : State) : Host.Outcome State Fault Refusal :=
  .next
    (if !frameRegOk r || (frameRing s r.fr).isSome then s
    else
      let pages := (upto 0 (frSpan r / 4096)).map (pinnedAt s r)
      if pages.any (·.isNone) then s
      else
        let w := regWho s r.slot
        match vread s w 0 r.affine 384 with
        | (s, .stop va x) => (hold s w va 0 (.retry (.frameRingRegister r)) x).1
        | (s, .ok bs) =>
          let ws := (chunks 4 96 bs).map fun l => w32 (leNat l)
          putFrames s
            { reg := r, scale := ws.take 48, offs := ws.drop 48, slots := List.replicate r.nslot .free, fhead := r.fhead0
              pages := pages.map fun p => p.getD 0 })

/-- The frame ring that a media command names. -/
def cmdFrame (c : Cmd) : Option (BitVec 6) :=
  match c with
  | .pxtile _ b _ => some (BitVec.ofNat 6 (fld b 24 6))
  | .encfrm _ b => some (BitVec.ofNat 6 (fld b 24 6))
  | _ => none

/-- R461: a ring is unregistered unless a session is bound to it or a command that names it waits. -/
def execFrameRingUnregister (fr : BitVec 6) (s : State) : Host.Outcome State Fault Refusal :=
  .next
    (if (s.enc.bound.any (·.fr == fr)) || (s.enc.busy.any (·.ses.fr == fr)) || (s.enc.ones.any (·.fr == fr))
        || s.unit.kq.any (fun e => cmdFrame e.cmd == some fr) then s
    else { s with frames := mdel s.frames fr.toNat })

/-- R464: every slot is freed and FHEAD set; commands of the ring that wait will complete with KIND 0x3D (R476). -/
def execFrameRingReset (fr : BitVec 6) (fhead : W32) (s : State) : Host.Outcome State Fault Refusal :=
  .next
    (match frameRing s fr with
    | none => s
    | some r =>
      let s := putFrames s { r with slots := List.replicate r.reg.nslot .free, fhead := fhead }
      let s := s.mapUnit fun u =>
        { u with kq := u.kq.map fun e =>
            match e.cmd, e.stage with
            | .pxtile _ _ _, .waiting => if cmdFrame e.cmd == some fr then { e with stage := .fired 1 } else e
            | _, _ => e }
      if s.enc.ones.any (·.fr == fr) then
        let own := s.enc.ones.any fun x => x.fr == fr && x.own
        let s := { s with enc := { s.enc with ones := s.enc.ones.filter (·.fr != fr), turn := s.enc.turn.erase fr } }
        match s.unit.kq with
        | e :: _ => if own then failEntry s 5 e none 0 0x3D 0#4 0#64 none else s
        | [] => s
      else s)

/-! ### Commands (R465, R471) -/

/-- PXTILE Ga, Gb, Gc (R465). -/
def slotPxtile (a b c : BitVec 6) (g : BitVec 4) (s : State) : SlotAnswer :=
  guarded g s fun s =>
    let u := s.unit
    let x := gReg u a
    let y := gReg u b
    let z := gReg u c
    let ring := match ringAt u.pad (BitVec.ofNat 6 (fld x 0 6)) with
      | none => false
      | some r => r.cons == 1 && r.thr == 1 + fld z 0 1 && 24576 ≤ r.size
    let bad := fld x 6 58 != 0 || fld y 30 2 != 0 || fld y 14 10 != 0 || fld y 6 2 != 0 || fld z 1 31 != 0 || !ring
    issueKv s bad 0x3C [] (.pxtile x y z)

def execPxtile (a b c : BitVec 6) (g : BitVec 4) (s : State) : Host.Outcome State Fault Refusal :=
  issueOne true false 1 false (slotPxtile a b c g) s

/-- ENCFRM Ga, Gb, G0 (R471). -/
def slotEncfrm (a b c : BitVec 6) (g : BitVec 4) (s : State) : SlotAnswer :=
  guarded g s fun s =>
    let x := gReg s.unit a
    let y := gReg s.unit b
    issueKv s (c != 0#6 || fld y 30 2 != 0 || fld y 2 22 != 0 || fld y 0 2 == 3 || x.toNat % 64 != 0) 0x3C [] (.encfrm x y)

def execEncfrm (a b c : BitVec 6) (g : BitVec 4) (s : State) : Host.Outcome State Fault Refusal :=
  issueOne true false 1 false (slotEncfrm a b c g) s

/-! ### Pixels (R466, R468) -/

/-- An exact rational rounded to the nearest integer, ties to even. -/
def rnei (n : Int) (d : Nat) : Int :=
  let q := n / d
  let r := n % d
  if 2 * r < d then q else if d < 2 * r then q + 1 else if q % 2 == 0 then q else q + 1

/-- An FP32 value from 0 to 1 in units of 2^−149, clamped as R468 gives. -/
def unitValue (v : Nat) : Nat :=
  match num32 v with
  | .nan _ => 0
  | .inf neg => if neg then 0 else 2 ^ 149
  | .fin neg m e => if neg then 0 else min (m * 2 ^ (e + 149).toNat) (2 ^ 149)

/-- One channel of a position: blended, scaled and offset, and moved into 0 to 1 (R468). -/
def channel (r : FrameRing) (blend : Bool) (wa wb : Nat) (ch x y : Nat) : Nat :=
  let f := fun c => decodeF fp16 c
  let h := if blend then rne32 (addNum (mulNum (f wa) (f x)).1 (mulNum (f wb) (f y)).1).1 else rne32 (f x)
  let p := fma32 (nth r.scale ch 0#32).toNat h (nth r.offs ch 0#32).toNat
  unitValue (fma32 p 0x3F000000 0x3F000000)

/-- Y, Cb and Cr of a pixel from R', G', B' in units of 2^−149 (R468). -/
def ycc (r : FrameRing) (rgb : List Nat) : Nat × Nat × Nat :=
  let kr : Nat := if r.reg.matrix == 0#2 then 2126 else 2627
  let kb : Nat := if r.reg.matrix == 0#2 then 722 else 593
  let red := nth rgb 0 0
  let grn := nth rgb 1 0
  let blu := nth rgb 2 0
  let one : Nat := 10000 * 2 ^ 149
  let y : Nat := kr * red + (10000 - kr - kb) * grn + kb * blu
  let cb : Int := ((10000 * blu : Nat) : Int) - y
  let cr : Int := ((10000 * red : Nat) : Int) - y
  let full := r.reg.range == 1#2
  let sc : Int := if full then 1023 else 896
  let clampC := fun (v : Int) => (max 0 (min 1023 v)).toNat
  let y10 : Int := if full then rnei (1023 * (y : Int)) one else rnei (64 * one + 876 * (y : Int)) one
  let c10 := fun (v : Int) (k : Nat) => rnei (512 * (one * (2 * (10000 - k)) : Nat) + sc * v * 10000) (one * (2 * (10000 - k)))
  (clampC y10, clampC (c10 cb kb), clampC (c10 cr kr))

/-- The offset in a pre-pixel tile of channel ch of a position (R466). -/
def tileChannel (py px ch : Nat) : Nat := 2 * (48 * (16 * py + px) + ch)

/-- Pixel (x, y) of a tile; tx and ty read the FP16 value at an offset of the first and the second slot. -/
def tilePixel (r : FrameRing) (tx ty : Nat → Nat) (z : W64) (y x : Nat) : Nat × Nat × Nat :=
  ycc r ((upto 0 3).map fun c =>
    let ch := 16 * c + 4 * (y % 4) + x % 4
    let o := tileChannel (y / 4) (x / 4) ch
    channel r (fbit z 0) (fld z 48 16) (fld z 32 16) ch (tx o) (ty o))

/-- The pixels of a tile. -/
def tilePixels (r : FrameRing) (tx ty : Nat → Nat) (z : W64) : List (List (Nat × Nat × Nat)) :=
  (upto 0 64).map fun y => (upto 0 64).map fun x => tilePixel r tx ty z y x

/-- Where the rows of a tile lie within the frame, as (offset in the ring's span, bytes): its Y rows, then its CbCr rows (R462). -/
def tileRows (r : FrameRingReg) (fn : W32) (tx ty : Nat) : List (Nat × Nat) :=
  let base := 4096 + frStride r * (fn.toNat % r.nslot)
  let w := min 64 (r.w - 64 * tx)
  let h := min 64 (r.h - 64 * ty)
  (upto 0 h).map (fun y => (base + 2 * (r.w * (64 * ty + y) + 64 * tx), 2 * w))
    ++ (upto 0 (h / 2)).map fun j => (base + 2 * r.w * r.h + 2 * (r.w * (32 * ty + j) + 64 * tx), 2 * w)

/-- The bytes of those rows (R462, R468). -/
def tileBytes (r : FrameRingReg) (tx ty : Nat) (px : List (List (Nat × Nat × Nat))) : List (List Byte) :=
  let w := min 64 (r.w - 64 * tx)
  let h := min 64 (r.h - 64 * ty)
  let at_ := fun y x => nth (nth px y []) x (0, 0, 0)
  (upto 0 h).map (fun y => (upto 0 w).flatMap fun x => leBytes (at_ y x).1 2)
    ++ (upto 0 (h / 2)).map fun j => (upto 0 (w / 2)).flatMap fun i =>
      let q := [at_ (2 * j) (2 * i), at_ (2 * j) (2 * i + 1), at_ (2 * j + 1) (2 * i), at_ (2 * j + 1) (2 * i + 1)]
      leBytes (((q.map fun v => v.2.1).foldl (· + ·) 2) / 4) 2 ++ leBytes (((q.map fun v => v.2.2).foldl (· + ·) 2) / 4) 2

/-- The lines of a tile that the decoder is to write. -/
def tileRanges (r : FrameRingReg) (fn : W32) (tx ty : Nat) : List (W64 × Nat) := (tileRows r fn tx ty).map fun x => (frVa r x.1, x.2)

/-- The pixels of a tile written where they lie within the frame (R462, R467, R468). -/
def writeTile (s : State) (here : Bool) (r : FrameRingReg) (fn : W32) (tx ty : Nat) (px : List (List (Nat × Nat × Nat))) : State :=
  ((tileRows r fn tx ty).zip (tileBytes r tx ty px)).foldl (fun s (x, bs) => frameWrite s here r x.1 bs) s

/-- An accepted tile moves its slot (R464). -/
def acceptTile (r : FrameRing) (fn : W32) (tile : Nat × Nat) : FrameRing :=
  let x := r.slotOf fn
  let tiles := x.tiles + 1
  r.setSlot fn { st := if tiles == frTiles r.reg then 2 else 1, fn := fn, tiles := tiles, taken := tile :: x.taken }

/-- A decoder command ends: its input slots, from index x on, are freed (R467). -/
def endTile (s : State) (e : QEntry) (q : BitVec 6) (x : W16) (n : Nat) (kind : Option Nat) : State :=
  let s := engFree s s.unit.cr.lcore.toNat q x n
  match kind with
  | some k => failEntry s 5 e none 0 k 0#4 0#64 none
  | none => finishEntry s 5

/-- What the decoder finds as a command for a tile of frame fn comes to its turn (R467): it waits for its frame, completes with an error
of a KIND, or takes the tile. reset: the ring has been reset while it waited (R476). -/
inductive TileVerdict where
  | waits
  | error (kind : Nat)
  | takes (r : FrameRing)
deriving DecidableEq, Repr

def tileVerdict (rg : Option FrameRing) (reset : Bool) (fn : W32) (tx ty : Nat) : TileVerdict :=
  match rg with
  | none => .error 0x3D
  | some r =>
    if !(reset || r.stale fn || r.admits fn) then .waits
    else if reset || r.reg.w ≤ 64 * tx || r.reg.h ≤ 64 * ty || !r.admits fn then .error 0x3D
    else if (r.slotOf fn).taken.contains (tx, ty) || 2 ≤ (r.slotOf fn).st then .error 0x3E
    else .takes r

/-- The frame ring that a command's word names, where it is the partition's. -/
def tileRing (s : State) (part : BitVec 4) (b : W64) : Option FrameRing :=
  (frameRing s (BitVec.ofNat 6 (fld b 24 6))).filter fun r => r.reg.part == part

/-- A tile taken: its pixels are written, and its slot moves (R464, R467). -/
def takeTile (s : State) (here : Bool) (r : FrameRing) (fn : W32) (tx ty : Nat) (px : List (List (Nat × Nat × Nat))) : State :=
  putFrames (writeTile s here r.reg fn tx ty px) (acceptTile r fn (tx, ty))

/-- R467: the PXTILE at the head of KQ fires. Its writes translate as any do: one that faults parks the command, and one that is aborted
ends it with KIND 0x2D, as of any command of KQ (log 88). -/
def execPxtileFire (s : State) : Host.Outcome State Fault Refusal :=
  .next
    (match readyEntry s.unit 5 with
    | none => s
    | some e =>
      match e.cmd with
      | .pxtile a b c =>
        let u := s.unit
        let q := BitVec.ofNat 6 (fld a 0 6)
        let fn := w32 (fld b 32 32)
        let tx := fld b 0 6
        let ty := fld b 8 6
        match ringAt u.pad q with
        | none => s
        | some ring =>
          match fireAt s u.cr.lcore.toNat q ring.thr with
          | none => s
          | some (_, x) =>
            match e.halt with
            | .parked _ _ => s
            | .aborted code va => failEntry (engFree s u.cr.lcore.toNat q x ring.thr) 5 e none 0 0x2D code va none
            | .none =>
              match tileVerdict (tileRing s u.cr.part b) (e.stage == .fired 1) fn tx ty with
              | .waits => s
              | .error kind => endTile s e q x ring.thr (some kind)
              | .takes r =>
                let w := regWho s r.reg.slot
                match vcheck s w 1 (tileRanges r.reg fn tx ty) with
                | (s, .stop va stop) => stopEntry s 5 e w 1 .kq va stop
                | (s, .ok _) =>
                  let at_ := fun i o => padRead u.pad (ring.addr (ring.adv x i) + o) 2
                  endTile (takeTile s true r fn tx ty (tilePixels r (at_ 0) (at_ 1) c)) e q x ring.thr none
      | _ => s)

/-- A PXTILE of a unit on another core, at its own cluster's decoder: one that has to wait, or completes with an error at its own unit, does
nothing here (R467). A fault parks its write, and it comes again as that is resumed (R323). -/
def farTile (s : State) (what : Delivery) (part : BitVec 4) (cluster : BitVec 5) (b c : W64) (x y : List Byte) : State :=
  let fn := w32 (fld b 32 32)
  let tx := fld b 0 6
  let ty := fld b 8 6
  match tileVerdict (tileRing s part b) false fn tx ty with
  | .takes r =>
    let w := regWho s r.reg.slot
    match vcheck s w 1 (tileRanges r.reg fn tx ty) with
    | (s, .stop va stop) => (hold s w va 1 (.retry (.clusterStopDelivery what)) stop).1
    | (s, .ok _) =>
      let at_ := fun (bs : List Byte) o => leNat ((bs.drop o).take 2)
      takeTile s (cluster == s.here.1) r fn tx ty (tilePixels r (at_ x) (at_ y) c)
  | _ => s

/-! ### The encoder (R470 to R473) -/

/-- A session record (R470). Its limits hold in every mode of rate control. -/
structure SessionRec where
  codec   : Nat
  depth   : Nat
  params  : List Nat                   -- RC, BITRATE, MAXRATE, VBV, QPI, QPP, KEYINT, FPSNUM, FPSDEN
  outbase : W64
  outlen  : Nat
  keyint  : Nat
  fpsnum  : Nat
  fpsden  : Nat
  wptr    : Nat
  rptr    : Nat
  keyfn   : W32
  kstate  : Nat
  ok      : Bool
deriving DecidableEq, Repr

def isPow2 (n : Nat) : Bool := n != 0 && 2 ^ n.log2 == n

def sessionRec (bs : List Byte) : SessionRec :=
  let f := fun o n => leNat ((bs.drop o).take n)
  let codec := f 12 1
  let qmax := if codec == 0 then 255 else 51
  let rc := f 14 1
  { codec := codec, depth := f 13 1, params := [rc, f 16 4, f 20 4, f 24 4, f 28 1, f 29 1, f 30 2, f 32 4, f 36 4]
    outbase := w64 (f 0 8), outlen := f 8 4, keyint := f 30 2, fpsnum := f 32 4, fpsden := f 36 4, wptr := f 40 8, rptr := f 48 8
    keyfn := w32 (f 56 4), kstate := f 60 1
    ok := isPow2 (f 8 4) && 65536 ≤ f 8 4 && f 8 4 ≤ 2 ^ 30 && f 0 8 % f 8 4 == 0 && codec < 2 && (f 13 1 == 8 || f 13 1 == 10) && rc < 3
      && f 15 1 == 0 && f 61 3 == 0 && f 60 1 < 2 && f 16 4 ≤ f 20 4 && 1 ≤ f 24 4 && f 24 4 ≤ 10000 && f 28 1 ≤ qmax
      && f 29 1 ≤ qmax && f 32 4 != 0 && f 36 4 != 0 }

/-- The sum of the pixel rates of sessions as a fraction. -/
def rateSum (l : List Session) : Nat × Nat := l.foldl (fun (n, d) x => (n * x.den + x.num * d, d * x.den)) (0, 1)

/-- The ENCFRM of an operation at the head of KQ. -/
def encHead (s : State) (op : Nat) : Option (QEntry × W64 × W64) :=
  match readyEntry s.unit 5 with
  | none => none
  | some e =>
    match e.cmd with
    | .encfrm a b => if fld b 0 2 == op then some (e, a, b) else none
    | _ => none

/-- The session record read for a command, and the frame ring checked as the partition's; KIND 0x3F where either fails. -/
def encBegin (s : State) (e : QEntry) (a b : W64) (f : State → FrameRing → SessionRec → State) : State :=
  let bad := fun (s : State) => failEntry s 5 e none 0 0x3F 0#4 0#64 none
  match e.halt with
  | .parked _ _ => s
  | .aborted code va => failEntry s 5 e none 0 0x2D code va none
  | .none =>
    match vread s (kvWho s.unit) 0 a 64 with
    | (s, .stop va x) => stopEntry s 5 e (kvWho s.unit) 0 .kq va x
    | (s, .ok bs) =>
      match frameRing s (BitVec.ofNat 6 (fld b 24 6)) with
      | none => bad s
      | some r => if r.reg.part != s.unit.cr.part || !(sessionRec bs).ok then bad s else f s r (sessionRec bs)

def sessionOf (s : State) (r : FrameRing) (a : W64) (fn : W32) (x : SessionRec) : Session :=
  let c := s.unit.cr
  { fr := r.reg.fr, fn := fn, rec_ := a, num := r.reg.w * r.reg.h * x.fpsnum, den := x.fpsden, job := jobKey c.part c.job
    slot := c.asidSlot, gen := c.asidGen, own := true }

/-- R471: BIND. -/
def execEncfrmBind (s : State) : Host.Outcome State Fault Refusal :=
  .next
    (match encHead s 0 with
    | none => s
    | some (e, a, b) => encBegin s e a b fun s r x =>
      let ses := sessionOf s r a 0#32 x
      let (n, d) := rateSum (ses :: s.enc.bound)
      if s.enc.bound.any (·.fr == r.reg.fr) || 4 ≤ s.enc.bound.length || 497664000 * d < n then
        failEntry s 5 e none 0 0x3F 0#4 0#64 none
      else
        finishEntry { s with enc := { s.enc with bound := s.enc.bound ++ [ses], turn := s.enc.turn ++ [r.reg.fr] } } 5)

/-- R471: ONE begins, and waits for its frame. -/
def execEncfrmOne (s : State) : Host.Outcome State Fault Refusal :=
  .next
    (match encHead s 1 with
    | none => s
    | some (e, a, b) =>
      if e.stage != .waiting then s
      else encBegin s e a b fun s r x =>
        let fn := w32 (fld b 32 32)
        if s.enc.bound.any (·.fr == r.reg.fr) || fn != r.fhead then failEntry s 5 e none 0 0x3F 0#4 0#64 none
        else
          let s := s.mapUnit fun u => setHead u 5 { e with stage := .begun 0 0 [] [] }
          { s with enc := { s.enc with ones := s.enc.ones ++ [sessionOf s r a fn x], turn := s.enc.turn ++ [r.reg.fr] } })

/-- R471: UNBIND ends the binding of the partition's frame ring and reads no record; it performs once a frame in encoding has been
freed. -/
def execEncfrmUnbind (s : State) : Host.Outcome State Fault Refusal :=
  .next
    (match encHead s 2 with
    | none => s
    | some (e, _, b) =>
      let fr := BitVec.ofNat 6 (fld b 24 6)
      let own := (frameRing s fr).any (·.reg.part == s.unit.cr.part) && s.enc.bound.any (·.fr == fr)
      let coding := fun (s : State) => s.enc.busy.any (·.ses.fr == fr)
      let perform := fun (s : State) =>
        if coding s then s.mapUnit fun u => setHead u 5 { e with stage := .begun 0 0 [] [] } else finishEntry s 5
      if e.stage == .begun 0 0 [] [] then perform s
      else if own then
        perform { s with enc := { s.enc with bound := s.enc.bound.filter (·.fr != fr), turn := s.enc.turn.erase fr } }
      else failEntry s 5 e none 0 0x3F 0#4 0#64 none)

/-- The session or ONE whose turn it may be: its next frame is complete (R472). -/
def encNext (s : State) (fr : BitVec 6) : Option (Session × W32 × Bool) :=
  match frameRing s fr with
  | none => none
  | some r =>
    let ready := fun fn => (r.slotOf fn).st == 2 && (r.slotOf fn).fn == fn
    match s.enc.bound.find? (·.fr == fr) with
    | some x => if ready r.fhead then some (x, r.fhead, false) else none
    | none => (s.enc.ones.find? (·.fr == fr)).bind fun x => if ready x.fn then some (x, x.fn, true) else none

/-- R472: the encoder takes a complete frame, in round-robin order. -/
def execEncoderTakeFrame (fr : BitVec 6) (s : State) : Host.Outcome State Fault Refusal :=
  .next
    (if s.enc.busy.isSome || s.enc.turn.find? (fun x => (encNext s x).isSome) != some fr then s
    else
      match encNext s fr, frameRing s fr with
      | some (x, fn, one), some r =>
        let enc := { s.enc with
          busy := some ⟨x, fn, one, s.time, .none⟩
          ones := if one then s.enc.ones.filter (·.fr != fr) else s.enc.ones
          turn := if one then s.enc.turn.erase fr else s.enc.turn.erase fr ++ [fr] }
        putFrames { s with enc := enc } (r.setSlot fn { r.slotOf fn with st := 3 })
      | _, _ => s)

/-- Bytes of a ring of len bytes at base, from byte off on, as at most two runs. -/
def wrapRuns (base : W64) (len off : Nat) (bs : List Byte) : List (W64 × List Byte) :=
  let o := off % len
  let k := min bs.length (len - o)
  (base + w64 o, bs.take k) :: (if k < bs.length then [(base, bs.drop k)] else [])

/-- The encoder's frame is done: freed, and a ONE ends, with KIND 0x2D where an access was aborted (R471, R473). -/
def endEncoding (s : State) (b : Encoding) (aborted : Bool) : State :=
  let s := freeFrame { s with enc := { s.enc with busy := none } } b.ses.fr b.fn
  if !(b.one && b.ses.own) then s
  else
    match s.unit.kq with
    | e :: _ => if aborted then failEntry s 5 e none 0 0x2D 0#4 0#64 none else finishEntry s 5
    | [] => s

/-- Runs of bytes written by the encoder. -/
def writeRuns (s : State) (w : Who) (rs : List (W64 × List Byte)) : State :=
  rs.foldl (fun s (a, bs) => (vwrite s w s.unit.launch.fuse a bs).1) s

/-! What the encoder codes (R469, R473) -/

/-- The samples of a frame as they are coded: of 10 bits, or reduced to 8. -/
def codedSamples (depth : Nat) (px : List Byte) : List Nat :=
  (chunks 2 (px.length / 2) px).map fun l => if depth == 8 then min ((leNat l + 2) / 4) 255 else leNat l

/-- What the coder has kept from the frames coded under a session record; nothing where no byte has been written under it (log 48). -/
def coderKept (s : State) (ses : Session) (x : SessionRec) : Nat :=
  if x.wptr == 0 then 0
  else ((s.enc.coder.find? fun c => c.1 == ses.slot && c.2.1 == ses.rec_).map (·.2.2)).getD 0

/-- What a frame is coded from: the session record's parameters, the frame's size and colour description, whether it is a key frame, what
the coder has kept, and its samples. -/
def codedFrom (r : FrameRingReg) (x : SessionRec) (key : Bool) (kept : Nat) (px : List Byte) : List Nat :=
  [x.codec, x.depth] ++ x.params ++ [r.w, r.h, r.matrix.toNat, r.range.toNat, bit01 key, kept] ++ codedSamples x.depth px

/-- The first bytes of a payload, as the two standards give them (log 49): an AV1 temporal unit begins with a temporal delimiter, a key
frame's with a sequence header next; an HEVC access unit begins with a start code, a key frame's with the VPS next. -/
def payloadHead (codec : Nat) (key : Bool) : List Byte :=
  if codec == 0 then [0x12#8, 0x00#8] ++ (if key then [0x0A#8] else [])
  else [0x00#8, 0x00#8, 0x00#8, 0x01#8] ++ (if key then [0x40#8, 0x01#8] else [])

/-- A payload of n bytes. -/
def payloadOf (codec : Nat) (key : Bool) (from_ : List Nat) (n : Nat) : List Byte :=
  (payloadHead codec key ++ (upto 0 n).map (Config.bitstreamByte from_)).take n

/-- Whether a frame is coded as a key frame (R470). -/
def SessionRec.key (x : SessionRec) (fn : W32) : Bool := x.kstate == 0 || (x.keyint != 0 && x.keyint ≤ (fn - x.keyfn).toNat)

/-- A frame's slot, which the encoder reads whole (R472). -/
def frameRead (s : State) (r : FrameRingReg) (fn : W32) : State × Xfer (List Byte) :=
  vread s (regWho s r.slot) 0 (frVa r (4096 + frStride r * (fn.toNat % r.nslot))) (3 * r.w * r.h)

/-- What the frame in encoding is coded from, as memory stands. -/
def encodedFrom (s : State) (b : Encoding) (r : FrameRing) : List Nat :=
  match vread s (edgeWho b.ses.slot b.ses.gen) 0 b.ses.rec_ 64, frameRead s r.reg b.fn with
  | (_, .ok bs), (_, .ok px) => codedFrom r.reg (sessionRec bs) ((sessionRec bs).key b.fn) (coderKept s b.ses (sessionRec bs)) px
  | _, _ => []

/-- What the coder keeps after a frame. -/
def keepCoder (s : State) (ses : Session) (from_ : List Nat) : State :=
  { s with
    enc := { s.enc with
      coder := (s.enc.coder.filter fun c => !(c.1 == ses.slot && c.2.1 == ses.rec_)) ++ [(ses.slot, ses.rec_, Config.coderState from_)] } }

/-! ### ENCFRM of a unit on another core of the cluster (R471) -/

/-- A session of another unit's. -/
def farSession (r : FrameRing) (part : BitVec 4) (job : W32) (q : AgentReq) (fn : W32) (x : SessionRec) : Session :=
  { fr := r.reg.fr, fn := fn, rec_ := q.va, num := r.reg.w * r.reg.h * x.fpsnum, den := x.fpsden, job := jobKey part job
    slot := q.slot, gen := q.gen, own := false }

/-- Its BIND or ONE: what fails completes with an error at its own unit and does nothing here; a fault parks the read of the session
record, and the command comes again as that is resumed (R323). -/
def farEncode (s : State) (what : Delivery) (part : BitVec 4) (job : W32) (q : AgentReq) (b : W64) (r : FrameRing) : State :=
  match vread s (agentWho s q) 0 q.va 64 with
  | (s, .stop va e) => (hold s (agentWho s q) va 0 (.retry (.clusterStopDelivery what)) e).1
  | (s, .ok bs) =>
    let x := sessionRec bs
    let fn := w32 (fld b 32 32)
    if !x.ok || s.enc.bound.any (·.fr == r.reg.fr) then s
    else if fld b 0 2 == 0 then
      let ses := farSession r part job q 0#32 x
      let (n, d) := rateSum (ses :: s.enc.bound)
      if 4 ≤ s.enc.bound.length || 497664000 * d < n then s
      else { s with enc := { s.enc with bound := s.enc.bound ++ [ses], turn := s.enc.turn ++ [r.reg.fr] } }
    else if fn != r.fhead then s
    else { s with enc := { s.enc with ones := s.enc.ones ++ [farSession r part job q fn x], turn := s.enc.turn ++ [r.reg.fr] } }

/-- An ENCFRM of a unit on another core of this cluster. -/
def farEncfrm (s : State) (what : Delivery) (part : BitVec 4) (job : W32) (q : AgentReq) (b : W64) : State :=
  match tileRing s part b with
  | none => s
  | some r =>
    if 3 ≤ fld b 0 2 || q.cluster != s.here.1 then s
    else if fld b 0 2 == 2 then
      if s.enc.bound.any (·.fr == r.reg.fr) then
        { s with enc := { s.enc with bound := s.enc.bound.filter (·.fr != r.reg.fr), turn := s.enc.turn.erase r.reg.fr } }
      else s
    else farEncode s what part job q b r

/-! ### What another core of the gang does in its own scratchpad -/

/-- A ring of a scratchpad changed. -/
def stepRing (p : Pad) (q : BitVec 6) (ok : Ring → Bool) (f : Ring → Ring) : Pad :=
  match ringAt p q with
  | some r => if ok r then setRing p q (some (f r)) else p
  | none => p

/-- One step of a unit on another core; one that would trap or block there does nothing (R146, R209 to R211). -/
def coreStep (p : Pad) (gang : Nat) (x : CoreStep) : Pad :=
  match x with
  | .store a bs => if padOk p.banks a.toNat bs.length then padPut p a.toNat bs else p
  | .config q none => setRing p q none
  | .config q (some (w0, w1)) => if ringValid w0 w1 p.banks gang then setRing p q (some (Ring.fresh w0 w1)) else p
  | .reserve q n => stepRing p q (fun r => n ≤ r.room && (!r.reorder || n == 1)) (·.reserve n)
  | .commit q n => stepRing p q (fun r => !r.reorder && n ≤ r.dist r.tail r.rsv) (·.commit n)
  | .fill q i => stepRing p q (fun r => r.reorder && r.canFill i.toNat) (·.fill i)
  | .free q n => stepRing p q (fun r => n ≤ r.filled) (·.free n)

/-- Its effect, seen where the gang's scratchpads are reached from the modelled core. -/
def peerStep (s : State) (core : BitVec 4) (x : CoreStep) : State :=
  match mget s.peers core.toNat with
  | some p => { s with peers := mset s.peers core.toNat (coreStep p (gangMask s.unit) x) }
  | none => s

/-- R473: the record of the frame in encoding is written once the bitstream ring has room. payload: the bytes to which the frame codes,
as the die's coder gives them (log 49). -/
def execBitstreamRecordWrite (fr : BitVec 6) (payload : Nat) (s : State) : Host.Outcome State Fault Refusal :=
  .next
    (match s.enc.busy with
    | none => s
    | some b =>
      let w : Who := edgeWho b.ses.slot b.ses.gen
      let stop := fun (s : State) (w : Who) kind va x =>
        match hold s w va kind (.encoder fr) x with
        | (s, .parked h k) => { s with enc := { s.enc with busy := some { b with halt := .parked h k } } }
        | (s, .aborted c) => { s with enc := { s.enc with busy := some { b with halt := .aborted c va } } }
      if b.ses.fr != fr then s
      else
        match b.halt with
        | .parked _ _ => s
        | .aborted _ _ => endEncoding (vwrite s w false (b.ses.rec_ + 60) [0#8]).1 b true
        | .none =>
          match vread s w 0 b.ses.rec_ 64 with
          | (s, .stop va x) => stop s w 0 va x
          | (s, .ok bs) =>
            let x := sessionRec bs
            let key := x.key b.fn
            let full := 16 + ceilDiv payload 16 * 16
            let ovf := x.outlen < full
            let n := if ovf then 0 else payload
            let size := if ovf then 16 else full
            let used := (x.wptr + 2 ^ 64 - x.rptr) % 2 ^ 64
            if x.outlen < used + size then s
            else
              match frameRing s fr with
              | none => s
              | some r =>
                match frameRead s r.reg b.fn with
                | (s, .stop va e) => stop s (regWho s r.reg.slot) 0 va e
                | (s, .ok px) =>
                  let from_ := codedFrom r.reg x key (coderKept s b.ses x) px
                  let body := payloadOf x.codec key from_ n ++ List.replicate (size - 16 - n) 0#8
                  let head := leBytes b.fn.toNat 4 ++ leBytes n 4 ++ leBytes (bit01 key + 2 * bit01 ovf) 1 ++ leBytes 0 3 ++ leBytes b.time 4
                  let runs := wrapRuns x.outbase x.outlen x.wptr (head ++ body)
                  match vcheck s w 1 ((runs.map fun y => (y.1, y.2.length)) ++ [(b.ses.rec_ + 40, 8), (b.ses.rec_ + 56, 5)]) with
                  | (s, .stop va e) => stop s w 1 va e
                  | (s, .ok _) =>
                    let keyfn := if key then b.fn else x.keyfn
                    let kstate := if ovf then 0 else if key then 1 else x.kstate
                    let s := writeRuns (keepCoder s b.ses from_) w runs
                    let s := writeRuns s w
                      [(b.ses.rec_ + 40, leBytes (x.wptr + size) 8), (b.ses.rec_ + 56, leBytes keyfn.toNat 4 ++ leBytes kstate 1)]
                    endEncoding s b false)

end Sys2Proof.Machine
end

