-- ==== Sys2Proof/Machine/Signature.lean ====
section
/-! DEFINITION. The check of an ML-DSA-87 signature under FIPS 204, which R12 and R494 name: pure, with the empty context, since the spec
names no other option. The parameters and the algorithm are the standard's (log 91). -/

namespace Sys2Proof.Machine

/-! ### Polynomials of 256 coefficients modulo q -/

def dsaQ : Nat := 8380417

/-- The powers of 1753, a 512th root of one. -/
def dsaPowers : List Nat := ((upto 0 512).foldl (fun (l, x) _ => (x :: l, x * 1753 % dsaQ)) (([] : List Nat), 1)).1.reverse

/-- The exponent of the root at place i of a transform: 2 BitRev8(i) + 1. -/
def dsaExponent (i : Nat) : Nat := 2 * ((upto 0 8).foldl (fun v k => v + (i / 2 ^ k % 2) * 2 ^ (7 - k)) 0) + 1

/-- The number-theoretic transform: the polynomial's values at the 256 roots. -/
def dsaNtt (w : List Nat) : List Nat :=
  (upto 0 256).map fun i => let x := nth dsaPowers (dsaExponent i) 0; w.foldr (fun c v => (c + v * x) % dsaQ) 0

/-- Its inverse; 8347681 is 1 ÷ 256. -/
def dsaInverse (w : List Nat) : List Nat :=
  let xs := (upto 0 256).zip w
  (upto 0 256).map fun j =>
    xs.foldl (fun v (i, c) => (v + c * nth dsaPowers ((512 - dsaExponent i) * j % 512) 0) % dsaQ) 0 * 8347681 % dsaQ

def dsaMul (a b : List Nat) : List Nat := List.zipWith (fun x y => x * y % dsaQ) a b
def dsaAdd (a b : List Nat) : List Nat := List.zipWith (fun x y => (x + y) % dsaQ) a b
def dsaSub (a b : List Nat) : List Nat := List.zipWith (fun x y => (x + dsaQ - y) % dsaQ) a b

/-- The fields of n bits of a byte string, the low bits first. -/
def bitFields (n count : Nat) (bs : List Byte) : List Nat :=
  let v := leNat bs
  (upto 0 count).map fun i => v / 2 ^ (n * i) % 2 ^ n

/-! ### Sampling -/

/-- RejNTTPoly: 256 coefficients below q, from three bytes each. -/
def dsaReject (seed : List Byte) : Option (List Nat) :=
  let bs := shake128 6 seed
  let l := ((chunks 3 336 bs).map fun t => leNat t % 2 ^ 23).filter (· < dsaQ)
  if l.length < 256 then none else some (l.take 256)

/-- SampleInBall: the places behind the eight bytes of signs; bs: the bytes left. -/
def dsaBall (signs : Nat) (c : List Nat) : Nat → Nat → List Byte → Option (List Nat)
  | _, 0, _ => some c
  | i, n + 1, bs =>
    match bs.dropWhile (fun b => i < b.toNat) with
    | [] => none
    | b :: rest =>
      let j := b.toNat
      let c := (c.set i (nth c j 0)).set j (if signs / 2 ^ (i + 60 - 256) % 2 == 1 then dsaQ - 1 else 1)
      dsaBall signs c (i + 1) n rest

def dsaChallenge (seed : List Byte) : Option (List Nat) :=
  let bs := shake256 2 seed
  dsaBall (leNat (bs.take 8)) (List.replicate 256 0) 196 60 (bs.drop 8)

/-! ### Hints and high bits -/

/-- UseHint: the high bits of r, moved by one where the hint is set; 523776 is 2 γ2. -/
def dsaHigh (hint : Bool) (r : Nat) : Nat :=
  let lo := r % 523776
  let below := 261888 < lo                       -- the low part is negative
  let top := (if below then r + 523776 - lo else r - lo) == dsaQ - 1
  let r1 := if top then 0 else if below then r / 523776 + 1 else r / 523776
  let pos := !below && lo != 0
  if !hint then r1 else if pos then (r1 + 1) % 16 else (r1 + 15) % 16

/-- HintBitUnpack: the places of the hints of eight polynomials; none where the bytes are not canonical. -/
def dsaHints (y : List Byte) : Option (List (List Nat)) :=
  let ends := (y.drop 75).map (·.toNat)
  let firsts := 0 :: ends.dropLast
  let ranges := firsts.zip ends
  let places := ranges.map fun (a, b) => ((y.drop a).take (b - a)).map (·.toNat)
  let rising := fun (l : List Nat) => (l.zip l.tail).all fun (a, b) => a < b
  if y.length == 83 && (ranges.all fun (a, b) => a ≤ b && b ≤ 75) && places.all rising && ((y.take 75).drop (ends.getLast?.getD 0)).all (· == 0#8)
  then some places else none

/-! ### The check -/

/-- The entries of a list of results, where there is one for each. -/
def allSome {α : Type} : List (Option α) → Option (List α)
  | [] => some []
  | none :: _ => none
  | some a :: rest => (allSome rest).map (a :: ·)

/-- Whether a signature holds for a message under a public key. -/
def mldsaVerify (key message sig : List Byte) : Bool :=
  let rho := key.take 32
  let t1 := (chunks 320 8 (key.drop 32)).map (bitFields 10 256)
  let ctilde := sig.take 64
  let zs := (chunks 640 7 (sig.drop 64)).map (bitFields 20 256)          -- coefficient: 2^19 less the field
  let z := zs.map fun l => l.map fun v => (2 ^ 19 + dsaQ - v) % dsaQ
  let short := zs.all fun l => l.all fun v => 120 < v && v < 2 ^ 20 - 120
  let mu := (shake256 1 ((shake256 1 key).take 64 ++ [0x00#8, 0x00#8] ++ message)).take 64
  match dsaHints (sig.drop 4544), dsaChallenge ctilde,
    allSome ((upto 0 8).flatMap fun r => (upto 0 7).map fun c => dsaReject (rho ++ [BitVec.ofNat 8 c, BitVec.ofNat 8 r])) with
  | some hints, some c, some a =>
    let zh := z.map dsaNtt
    let ch := dsaNtt c
    let w1 := (upto 0 8).map fun r =>
      let row := List.zipWith dsaMul ((a.drop (7 * r)).take 7) zh
      let sum := row.foldl dsaAdd (List.replicate 256 0)
      let t := dsaNtt ((nth t1 r []).map fun v => v * 2 ^ 13 % dsaQ)
      let w := dsaInverse (dsaSub sum (dsaMul ch t))
      ((upto 0 256).zip w).map fun (i, x) => dsaHigh ((nth hints r []).contains i) x
    let packed := w1.flatMap fun l => (chunks 2 128 l).map fun p => BitVec.ofNat 8 (nth p 0 0 + 16 * nth p 1 0)
    key.length == 2592 && sig.length == 4627 && short && (shake256 1 (mu ++ packed)).take 64 == ctilde
  | _, _, _ => false

end Sys2Proof.Machine
end

