-- ==== Sys2Proof/Machine/Replies.lean ====
section
/-! DEFINITION. The stages of a reply: UTF-8, stop sequences, reply records and the end of a reply (R450 to R452, R456). -/

namespace Sys2Proof.Machine

/-! ### The UTF-8 stage (R450, RFC 3629) -/

/-- Bytes of the sequence that a first byte begins; 0 where none begins with it. -/
def utf8Len (b : Nat) : Nat :=
  if b < 0x80 then 1
  else if 0xC2 ≤ b && b ≤ 0xDF then 2
  else if 0xE0 ≤ b && b ≤ 0xEF then 3
  else if 0xF0 ≤ b && b ≤ 0xF4 then 4
  else 0

/-- Whether b may follow the first byte a. -/
def utf8Second (a b : Nat) : Bool :=
  if a == 0xE0 then 0xA0 ≤ b && b ≤ 0xBF
  else if a == 0xED then 0x80 ≤ b && b ≤ 0x9F
  else if a == 0xF0 then 0x90 ≤ b && b ≤ 0xBF
  else if a == 0xF4 then 0x80 ≤ b && b ≤ 0x8F
  else 0x80 ≤ b && b ≤ 0xBF

/-- Whether the bytes are a well-formed sequence or the beginning of one. -/
def utf8Prefix (l : List Byte) : Bool :=
  match l.map (·.toNat) with
  | [] => true
  | [a] => utf8Len a != 0
  | a :: b :: rest => l.length ≤ utf8Len a && utf8Second a b && rest.all fun x => 0x80 ≤ x && x ≤ 0xBF

/-- Whether the bytes are one whole well-formed sequence. -/
def utf8Whole (l : List Byte) : Bool :=
  match l with
  | [] => false
  | a :: _ => utf8Prefix l && l.length == utf8Len a.toNat

/-- What stands for an ill-formed subpart: one U+FFFD, or the bytes themselves under RAW. -/
def utf8Bad (raw : Bool) (l : List Byte) : List Byte := if raw || l.isEmpty then l else [0xEF#8, 0xBF#8, 0xBD#8]

/-- One byte into the UTF-8 stage: the bytes that pass, and the bytes held back. -/
def utf8Step (raw : Bool) (held : List Byte) (b : Byte) : List Byte × List Byte :=
  let alone := if utf8Whole [b] then ([b], []) else if utf8Prefix [b] then ([], [b]) else (utf8Bad raw [b], [])
  let l := held ++ [b]
  if utf8Whole l then (l, [])
  else if utf8Prefix l then ([], l)
  else if held.isEmpty then alone
  else (utf8Bad raw held ++ alone.1, alone.2)

/-- A byte string through the UTF-8 stage. -/
def utf8Run (raw : Bool) (held : List Byte) (bs : List Byte) : List Byte × List Byte :=
  bs.foldl (fun (out, held) b => let (o, h) := utf8Step raw held b; (out ++ o, h)) ([], held)

/-- Whether a byte string is well-formed UTF-8 (R455). -/
def utf8Ok (bs : List Byte) : Bool := utf8Run false [] bs == (bs, [])

/-! ### The stop stage (R451) -/

def endsWith (l suffix : List Byte) : Bool := suffix.isSuffixOf l

/-- The longest stop sequence that the bytes end with. -/
def stopMatch (stops : List (List Byte)) (l : List Byte) : Option (List Byte) :=
  stops.foldl (fun best t =>
    if endsWith l t && (match best with | some b => b.length < t.length | none => true) then some t else best) none

/-- Length of the longest suffix of l that is a proper prefix of a stop sequence. -/
def stopHold (stops : List (List Byte)) (l : List Byte) : Nat :=
  (upto 1 31).foldl (fun best k =>
    if k ≤ l.length && stops.any (fun t => k < t.length && t.take k == l.drop (l.length - k)) then k else best) 0

/-- Where the stop stage stands: bytes passed, bytes held back, whether a stop sequence has matched. -/
structure StopRun where
  out     : List Byte
  held    : List Byte
  matched : Bool
deriving DecidableEq, Repr

/-- One byte into the stop stage; nothing follows a match. -/
def stopStep (stops : List (List Byte)) (incl : Bool) (r : StopRun) (b : Byte) : StopRun :=
  if r.matched then r
  else
    let l := r.held ++ [b]
    match stopMatch stops l with
    | some t => ⟨r.out ++ (if incl then l else l.take (l.length - t.length)), [], true⟩
    | none =>
      let k := stopHold stops l
      ⟨r.out ++ l.take (l.length - k), l.drop (l.length - k), false⟩

def stopRun (stops : List (List Byte)) (incl : Bool) (held bs : List Byte) : StopRun :=
  bs.foldl (stopStep stops incl) ⟨[], held, false⟩

/-! ### Reply records and the end of a reply (R452, R456) -/

/-- A reply record. -/
def replyBytes (session : W64) (end_ : Bool) (status seq : Nat) (bs : List Byte) : List Byte :=
  let padded := bs ++ List.replicate ((8 - bs.length % 8) % 8) 0#8
  leBytes 0x5052494D 4 ++ leBytes 1 2 ++ leBytes (bit01 end_) 2 ++ leBytes (32 + padded.length) 4 ++ leBytes status 1 ++ leBytes 0 3
    ++ leBytes session.toNat 8 ++ leBytes seq 4 ++ leBytes bs.length 4 ++ padded

def sendReply (s : State) (flow : Nat) (bytes : List Byte) : State :=
  { s with text := { s.text with replies := s.text.replies ++ [⟨flow, bytes⟩] } }

def mapJob (s : State) (key : Nat) (f : Job → Job) : State :=
  match mget s.jobs key with
  | some j => { s with jobs := mset s.jobs key (f j) }
  | none => s

/-- A context replaced: the one of the same partition, job and session. -/
def putCtx (s : State) (c : DetokCtx) : State :=
  { s with
    text := { s.text with
      ctxs := s.text.ctxs.map fun d => if d.part == c.part && d.job == c.job && d.block == c.block then c else d } }

/-- The end of a reply: the held bytes are released, the final record is sent, the stop word written and OPEN cleared
(R452, R456, R458). passed: the bytes that the ending slot passes. send: the session's flow has not failed (R459). -/
def endReply (s : State) (c : DetokCtx) (status : Nat) (passed : List Byte) (send : Bool) : State :=
  if c.ended then s
  else
    let tail := if status == 1 then [] else c.out ++ utf8Bad c.raw c.held
    let s := if send then sendReply s c.flow (replyBytes c.session true status c.seq (passed ++ tail)) else s
    let s := putCtx s { c with ended := true, held := [], out := [], seq := c.seq + 1 }
    let s := edgeWrite s (regWho s c.slot) none (c.block + 24) (leBytes status 8)
    mapJob s (jobKey c.part c.job) fun j => { j with open_ := false }

/-- The open replies of a job end with a status (R452). -/
def endJobReplies (s : State) (part : BitVec 4) (job : W32) (status : Nat) (send : Bool) : State :=
  (s.text.ctxs.filter fun c => c.part == part && c.job == job).foldl (fun s c => endReply s c status [] send) s

end Sys2Proof.Machine
end

