-- ==== Sys2Proof/Machine/RouteCmds.lean ====
section
/-! DEFINITION. The route engine and the mortar tables (R418 to R433). -/

namespace Sys2Proof.Machine

/-! ### Commands (R418, R420, R422, R426, R427) -/

/-- The causes common to the four commands: C must name G0, and no unit of a paired launch may issue them (R354, R418). -/
def routeCauses (u : Unit) (c : BitVec 6) (bad : Bool) : List Nat :=
  (if u.launch.paired then [0x31] else []) ++ (if c != 0#6 || bad then [0x39] else [])

/-- A local range that must lie in allotted banks. -/
def rangeCause (u : Unit) (a n : Nat) : List Nat := if padOk u.pad.banks a n then [] else [0x17]

/-- DCLASS of the bank of a local address (R156). -/
def bankClass (p : Pad) (a : Nat) : BitVec 4 := BitVec.ofNat 4 (fld (bankFmt p a) 56 4)

/-- A route command enters RQ with the class of its accesses. -/
def issueRoute (s : State) (cls : BitVec 4) (causes : List Nat) (cmd : Cmd) : SlotAnswer :=
  lowestCause causes (fun _ => 0#12) (issueCmd s 4 cls cmd)

/-- Row bytes of a ROUTE. -/
def rtRin (a : W64) : Nat := 32 * (fld a 40 7 + 1)
/-- Rows of a ROUTE. -/
def rtRows (a : W64) : Nat := fld a 32 6 + 1
/-- Ranks per row of a ROUTE. -/
def rtKm (b : W64) : Nat := fld b 32 2 + 1

/-- ROUTE Ga, Gb, G0 (R422). Its reads carry DCLASS of their banks; its entry holds that of the tile. -/
def slotRoute (a b c : BitVec 6) (g : BitVec 4) (s : State) : SlotAnswer :=
  guarded g s fun s =>
    let u := s.unit
    let x := gReg u a
    let y := gReg u b
    let bad := fld x 47 17 != 0 || fld x 38 2 != 0 || fld x 21 11 != 0 || fld x 0 21 % 32 != 0
      || fld y 42 22 != 0 || fld y 38 2 != 0 || fld y 34 2 != 0 || fld y 21 11 != 0 || fld y 0 21 % 32 != 0
    issueRoute s (bankClass u.pad (fld x 0 21)) (routeCauses u c bad ++ rangeCause u (fld x 0 21) (rtRows x * rtRin x) ++ rangeCause u (fld y 0 21) (32 * rtRows x))
      (.route x y (w64 s.time))

def execRoute (a b c : BitVec 6) (g : BitVec 4) (s : State) : Host.Outcome State Fault Refusal :=
  issueOne true false 1 false (slotRoute a b c g) s

/-- RTCFG Ga, Gb, G0 (R420). No class is stated for its read of memory; the model uses 0 (R255, log 13). -/
def slotRtcfg (a b c : BitVec 6) (g : BitVec 4) (s : State) : SlotAnswer :=
  guarded g s fun s =>
    let u := s.unit
    let x := gReg u a
    let y := gReg u b
    issueRoute s 0#4 (routeCauses u c (fld x 16 48 != 0 || fld y 28 36 != 0 || fld y 2 14 != 0)) (.rtcfg x y)

def execRtcfg (a b c : BitVec 6) (g : BitVec 4) (s : State) : Host.Outcome State Fault Refusal :=
  issueOne true false 1 false (slotRtcfg a b c g) s

/-- Return bytes of a mortar table's configuration (R427). -/
def raRout (b : W64) : Nat := 4 * (fld b 32 10 + 1)

/-- RASM Ga, Gb, G0 (R427). -/
def slotRasm (a b c : BitVec 6) (g : BitVec 4) (s : State) : SlotAnswer :=
  guarded g s fun s =>
    let u := s.unit
    let x := gReg u a
    let y := gReg u b
    let bad := fld x 49 15 != 0 || fld x 42 6 != 0 || fld x 38 2 != 0 || fld x 21 11 != 0 || fld x 0 21 % 32 != 0
      || fld y 54 10 != 0 || fld y 42 6 != 0
    issueRoute s 0#4 (routeCauses u c bad ++ rangeCause u (fld x 0 21) (4 * (fld y 48 6 + 1) * raRout y)) (.rasm x y)

def execRasm (a b c : BitVec 6) (g : BitVec 4) (s : State) : Host.Outcome State Fault Refusal :=
  issueOne true false 1 false (slotRasm a b c g) s

/-- RRET Ga, Gb, G0 (R426): engine reads that name no class carry DCLASS of their bank (R156). -/
def slotRret (a b c : BitVec 6) (g : BitVec 4) (s : State) : SlotAnswer :=
  guarded g s fun s =>
    let u := s.unit
    let x := gReg u a
    let y := gReg u b
    issueRoute s (bankClass u.pad x.toNat) (routeCauses u c (x.toNat % 4 != 0 || y.toNat % 32 != 0) ++ rangeCause u y.toNat 32) (.rret x y)

def execRret (a b c : BitVec 6) (g : BitVec 4) (s : State) : Host.Outcome State Fault Refusal :=
  issueOne true false 1 false (slotRret a b c g) s

/-! ### Mortar tables (R427 to R431) -/

def modRa (s : State) (t : Fin 4) (f : Mortar → Mortar) : State :=
  s.mapUnit fun u => { u with rt := { u.rt with ra := u.rt.ra.set t.val (f u.rt.ra[t]) t.isLt } }

/-- The open round of a table changed. -/
def modRound (s : State) (t : Fin 4) (f : Round → Round) : State := modRa s t fun m => { m with open_ := m.open_.map f }

/-- A discarded return (R430). -/
def Mortar.discard (m : Mortar) : Mortar := { m with late := m.late + 1, lateSinceCommit := m.lateSinceCommit + 1 }

/-- Every pending rank times out (R428). -/
def Round.timeOut (r : Round) : Round :=
  { r with
    ranks := r.ranks.map fun row => row.map fun k =>
      if k.st == .pending then { k with st := .timedOut, spill := k.spill && r.slot.isSome } else k
    packets := [] }

/-- Pending ranks time out and packets without a ticket are abandoned, their NT entries returning (R424, R428). -/
def timeOutRound (s : State) (t : Fin 4) : State :=
  match s.unit.rt.ra[t].open_ with
  | none => s
  | some r =>
    let drawn := (r.packets.filter (·.drawn)).length
    modRound (s.mapUnit fun u => { u with nt := u.nt - drawn }) t Round.timeOut

/-- The deadline is applied once the time base has reached it (R428). -/
def expireRound (s : State) (t : Fin 4) : State :=
  match s.unit.rt.ra[t].open_ with
  | some r => if r.deadline.any fun d => d ≤ s.time then timeOutRound s t else s
  | none => s

/-- x ÷ y of FP32, rounded once to nearest even (R429). -/
def div32 (x y : Nat) : Nat :=
  match num32 x, num32 y with
  | .nan _, _ => qnan fp32
  | _, .nan _ => qnan fp32
  | .inf _, .inf _ => qnan fp32
  | .inf a, .fin b _ _ => rne32 (.inf (a != b))
  | .fin a _ _, .inf b => rne32 (.fin (a != b) 0 0)
  | .fin a m e, .fin b n f =>
    if n == 0 then (if m == 0 then qnan fp32 else rne32 (.inf (a != b)))
    else rne32 (.fin (a != b) (2 * (m * 2 ^ 64 / n) + bit01 (m * 2 ^ 64 % n != 0)) (e - f - 65))

/-- Lane l of the return of rank j of row r, as it stands in the buffer (R428). -/
def returnLane (p : Pad) (buf rout r j : Nat) (k : Rank) (l : Nat) : Nat :=
  if 4 * l + 4 ≤ k.len then padRead p (buf + rout * (4 * r + j) + 4 * l) 4 else 0

/-- A done row combined: its lanes and Z (R429). -/
def combineRow (p : Pad) (buf rout : Nat) (norm : Bool) (r : Nat) (ranks : List Rank) : List Nat × Bool :=
  let kept := ((upto 0 ranks.length).zip ranks).filter fun k => k.2.st == .returned
  let wsum := kept.foldl (fun w k => (addF fp32 w k.2.weight.toNat).1) 0
  let zero := (num32 wsum).isZero
  let lanes := (upto 0 (rout / 4)).map fun l =>
    let acc := kept.foldl (fun a (j, k) => fma32 k.weight.toNat (returnLane p buf rout r j k l) a) 0
    if norm && !kept.isEmpty && !zero then div32 acc wsum else acc
  (lanes, kept.isEmpty || (norm && zero))

/-- The ranks of a round in a state. -/
def Round.count (r : Round) (f : Rank → Bool) : Nat := (r.ranks.flatMap fun row => row.filter f).length

/-- The status block of a round (R431). -/
def statusBlock (m : Mortar) (r : Round) : List Byte :=
  let bits := ((upto 0 r.nr).zip (r.ranks.zip r.zbits)).foldl (fun v (i, row, z) =>
    v + 16 ^ i * (bit01 (row.any fun k => k.st == .dropped || k.st == .droppedInvalid) + 2 * bit01 (row.any (·.spill))
      + 4 * bit01 (row.any fun k => k.st == .timedOut) + 8 * bit01 z)) 0
  leBytes r.id.toNat 2 ++ leBytes r.nr 1 ++ leBytes 0 1 ++ leBytes (r.count fun k => k.st == .dropped) 2
    ++ leBytes (r.count fun k => k.st == .droppedInvalid) 2 ++ leBytes (r.count (·.spill)) 2
    ++ leBytes (r.count fun k => k.st == .timedOut) 2 ++ leBytes (min m.lateSinceCommit 65535) 2 ++ leBytes 0 2
    ++ leBytes bits 32 ++ leBytes 0 16

/-- Rows that have become done are combined into the output slot (R429). -/
def combineDone (s : State) (t : Fin 4) : State :=
  match s.unit.rt.ra[t].conf, s.unit.rt.ra[t].open_ with
  | some (a, b), some r =>
    match r.slot with
    | none => s
    | some (out, _) =>
      let rout := raRout b
      (upto 0 r.nr).foldl (fun s i =>
        match s.unit.rt.ra[t].open_ with
        | none => s
        | some r =>
          let row := nth r.ranks i []
          if nth r.rowsDone i true || row.any fun k => k.st == .pending then s
          else
            let (lanes, z) := combineRow s.unit.pad (fld a 0 21) rout (fbit a 48) i row
            let s := s.mapUnit fun u => { u with pad := padPut u.pad (out + 64 + rout * i) (lanes.flatMap fun v => leBytes v 4) }
            modRound s t fun r => { r with rowsDone := r.rowsDone.set i true, zbits := r.zbits.set i z }) s
  | _, _ => s

/-- The round of a table commits once every row is done, every packet is out, and its ROUTE is the head of RQ (R222, R430). -/
def commitRound (s : State) (t : Fin 4) : State :=
  match s.unit.rt.ra[t].conf, s.unit.rt.ra[t].open_ with
  | some (a, _), some r =>
    match r.slot with
    | none => s
    | some (out, x) =>
      if r.rowsDone.all id && r.packets.isEmpty && (s.unit.rq.head?.map (·.ord)) == some r.ord then
        let m := s.unit.rt.ra[t]
        let s := s.mapUnit fun u => { u with pad := padPut u.pad out (statusBlock m r) }
        let s := engCommit s s.unit.cr.lcore.toNat (BitVec.ofNat 6 (fld a 32 6)) x
        let s := modRa s t fun m => { m with open_ := none, round := m.round + 1, lateSinceCommit := 0 }
        finishEntry s 4
      else s
  | _, _ => s

/-- What the tables can do at once: rows combined, and rounds committed in queue order. -/
def settleRounds (s : State) : State :=
  let s := (List.finRange 4).foldl combineDone s
  iter (fun s => (List.finRange 4).foldl commitRound s) 4 s

/-- A return is looked at by its table (R428, R430). -/
def judgeReturn (s : State) (t : Fin 4) (id : W16) (row rank : Nat) (bs : List Byte) : State :=
  let m := s.unit.rt.ra[t]
  match m.conf, m.open_ with
  | some (a, b), some r =>
    match (nth r.ranks row [])[rank]? with
    | some k =>
      if r.id == id && k.st == .pending then
        let rout := raRout b
        let s := s.mapUnit fun u => { u with pad := padPut u.pad (fld a 0 21 + rout * (4 * row + rank)) (bs.take rout) }
        let k := { k with st := .returned, len := min bs.length rout }
        modRound s t fun r => { r with ranks := modAt r.ranks row fun l => modAt l rank fun _ => k }
      else modRa s t Mortar.discard
    | none => modRa s t Mortar.discard
  | _, _ => modRa s t Mortar.discard

/-- A return reaches a mortar table. A round whose deadline has come is timed out, and closes where it can, before the return is looked at, so
that a return after it counts in the next status block (R430, R431). -/
def acceptReturn (s : State) (t : Fin 4) (id : W16) (row rank : Nat) (bs : List Byte) : State :=
  judgeReturn (settleRounds (expireRound s t)) t id row rank bs

/-- R428: a return of another unit reaches a mortar table of this unit. -/
def execReturnAccept (table : BitVec 2) (round : W16) (row : BitVec 6) (rank : BitVec 2) (bytes : List Byte) (s : State) :
    Host.Outcome State Fault Refusal :=
  .next (settleRounds (acceptReturn s table.toFin round row.toNat rank.toNat bytes))

/-- R428: the time base has reached a round's deadline. -/
def execRouteTimeout (table : BitVec 2) (s : State) : Host.Outcome State Fault Refusal :=
  .next (settleRounds (expireRound s table.toFin))

/-! ### Assignments (R421, R423, R424) -/

/-- The launch of the unit on the core, as the dispatcher holds it. -/
def unitLaunch (s : State) : Option Launch :=
  (unitJob s).bind fun j => (j.graphs.find? (·.seq == s.unit.launch.graph)).bind fun g => g.launches[s.unit.launch.launch]?

/-- Whether a unit of this launch is on its core: its gang has been placed and not yet saved, and it has not completed (R204, R424). -/
def unitResident (s : State) (unit : Nat) : Bool :=
  let size := s.unit.launch.nr * s.unit.launch.nc
  let own := unit / size == s.unit.cr.unit.toNat / size
  match unitLaunch s with
  | none => own && coreResident s
  | some l =>
    !(mget l.units unit).elim false (·.done)
      && (match (l.gangs[unit / size]?).elim GangState.waiting (·.st) with
        | .running _ => true
        | .saving _ => true
        | _ => own && coreResident s)

/-- A destination: a logical core of the gang, or 2^32 plus the index of a unit of another gang of the launch. -/
def destCore (u : Unit) (kind dest : Nat) : Option Nat :=
  if kind == 0 then (if inGang u dest then some dest else none)
  else if kind == 1 then
    if dest < u.launch.units.toNat then some (((gangCores u).find? fun c => coreUnit u c == dest).getD (2 ^ 32 + dest)) else none
  else none

/-- Destination and spill target of a valid entry; none where the entry is invalid (R421). -/
def entryDests (u : Unit) (e : RouteEntry) : Option (Nat × Option Nat) :=
  let (x, y) := e
  let spill := fbit x 62
  if !fbit x 63 || fld x 60 2 != 0 || fld x 48 4 != 0 || (spill && (fld y 60 4 != 0 || fld y 32 20 != 0)) then none
  else
    match destCore u (fld x 58 2) (fld x 0 32) with
    | none => none
    | some c =>
      if spill then (destCore u (fld y 58 2) (fld y 0 32)).map fun d => (c, some d) else some (c, none)

/-- Whether a destination can take row packets of rin bytes (R424); of a unit outside the gang that is a free value (log 1). -/
def destUsable (s : State) (core : Nat) (q : BitVec 6) (rin : Nat) : Bool :=
  if 2 ^ 32 ≤ core then
    unitResident s (core - 2 ^ 32) && Config.farUsable (s.freeCtr * 2 ^ 40 + (core - 2 ^ 32) * 64 + q.toNat)
  else
    match (padOf s core).bind fun p => ringAt p q with
    | none => false
    | some r => unitResident s (coreUnit s.unit core) && r.reorder && r.perm.testBit 16 && 32 + rin ≤ r.size

/-- One assignment resolved (R423): the rank, the packet, and the charges. -/
def assign (s : State) (tab : SMap RouteEntry) (rin row rank : Nat) (w : W32) (id : W16) (used : SMap Nat) :
    Rank × Option RowPacket × SMap Nat :=
  let out := fun (st : RankState) => ((⟨st, 0, w, id, false⟩ : Rank), (none : Option RowPacket), used)
  let send := fun (core : Nat) (q : BitVec 6) (sp : Bool) (used : SMap Nat) =>
    ((⟨.pending, 0, w, id, sp⟩ : Rank), some (⟨row, rank, core, q, id, sp, false⟩ : RowPacket), used)
  if 4096 ≤ id.toNat then out .droppedInvalid
  else
    match mget tab id.toNat with
    | none => out .droppedInvalid
    | some e =>
      match entryDests s.unit e with
      | none => out .droppedInvalid
      | some (c, sp) =>
        let q := BitVec.ofNat 6 (fld e.1 52 6)
        let n := (mget used id.toNat).getD 0
        if !destUsable s c q rin then out .droppedInvalid
        else if n < fld e.1 32 16 then send c q false (mset used id.toNat (n + 1))
        else
          match sp with
          | none => out .dropped
          | some d =>
            let q := BitVec.ofNat 6 (fld e.2 52 6)
            if destUsable s d q rin then send d q true used else out .droppedInvalid

/-- Every assignment of a round, in row order and then rank order (R423). -/
def assignAll (s : State) (a b : W64) : List (List Rank) × List RowPacket :=
  let tab := nth s.unit.rt.tables.toList (fld b 40 2) []
  let p := s.unit.pad
  let (rows, pks, _) := (upto 0 (rtRows a)).foldl (fun (rows, pks, used) r =>
    let (row, pks, used) := (upto 0 (rtKm b)).foldl (fun (row, pks, used) j =>
      let at_ := fld b 0 21 + 32 * r + 8 * j
      let (k, pk, used) := assign s tab (rtRin a) r j (w32 (padRead p at_ 4)) (w16 (padRead p (at_ + 4) 2)) used
      (row ++ [k], pks ++ pk.toList, used)) (([] : List Rank), pks, used)
    (rows ++ [row], pks, used)) (([] : List (List Rank)), ([] : List RowPacket), ([] : SMap Nat))
  (rows, pks)

/-- Whether an earlier open round still waits for a slot of the same output ring: slots go to rounds in queue order, as their commits do
(R201, R222, R427). -/
def earlierWaits (u : Unit) (ord : Nat) (q : BitVec 6) : Bool :=
  u.rt.ra.any fun m => match m.conf, m.open_ with
    | some (a, _), some r => r.ord < ord && r.slot.isNone && BitVec.ofNat 6 (fld a 32 6) == q
    | _, _ => false

/-- The round obtains its slot of the output ring (R427). -/
def obtainSlot (s : State) (t : Fin 4) : State :=
  match s.unit.rt.ra[t].conf, s.unit.rt.ra[t].open_ with
  | some (a, _), some r =>
    if r.slot.isSome || earlierWaits s.unit r.ord (BitVec.ofNat 6 (fld a 32 6)) then s
    else
      let own := s.unit.cr.lcore.toNat
      let q := BitVec.ofNat 6 (fld a 32 6)
      match engReserve s own q with
      | none => s
      | some (s, x) => let addr := engAddr s own q x; modRound s t fun r => { r with slot := some (addr, x) }
  | _, _ => s

/-- Packets are generated in order while NT entries can be drawn, once the output slot is held (R218, R424). -/
def drawPackets (s : State) (t : Fin 4) : State :=
  match s.unit.rt.ra[t].open_ with
  | none => s
  | some r =>
    if r.slot.isNone then s
    else
      let (s, pks) := r.packets.foldl (fun (s, out) (p : RowPacket) =>
        if p.drawn then (s, out ++ [p])
        else if canDraw s.unit s.unit.nt 1 then (s.mapUnit fun u => { u with nt := u.nt + 1 }, out ++ [{ p with drawn := true }])
        else (s, out ++ [p])) ((s, []) : State × List RowPacket)
      modRound s t fun r => { r with packets := pks }

/-- Whether a ROUTE can use its mortar table and output ring (R427). -/
def routeUsable (u : Unit) (a b : W64) : Bool :=
  match u.rt.ra[routeTable b].conf with
  | none => false
  | some (x, y) =>
    rtRows a ≤ fld y 48 6 + 1
      && match ringAt u.pad (BitVec.ofNat 6 (fld x 32 6)) with
        | none => false
        | some r => r.perm.testBit 16 && r.cons == 0 && 64 + rtRows a * raRout y ≤ r.size

/-- The mortar table that a command of RQ names, where it may not begin behind an open round of it. -/
def namedTable (c : Cmd) : Option (Fin 4) :=
  match c with
  | .route _ b _ => some (routeTable b)
  | .rasm a _ => some ⟨fld a 40 2, Nat.mod_lt _ (by decide)⟩
  | _ => none

/-- Whether the entries before a command let it begin: they are ROUTEs whose sending half has ended, of other tables than the one it names
(R419). -/
def routeClear (u : Unit) (c : Cmd) (before : List QEntry) : Bool :=
  before.all fun e =>
    match e.cmd, e.stage with
    | .route _ b _, .begun _ _ _ _ =>
      namedTable c != some (routeTable b) && (match u.rt.ra[routeTable b].open_ with
        | some r => r.packets.isEmpty
        | none => true)
    | _, _ => false

/-- The command of RQ that begins next, with its place in the queue: the first that has not begun, where the entries before it and the
fences let it (R222, R223, R419). -/
def nextRoute (u : Unit) : Option (Nat × QEntry) :=
  (((upto 0 u.rq.length).zip u.rq).find? fun x => x.2.stage == .waiting).filter fun (i, e) =>
    routeClear u e.cmd (u.rq.take i) && !qfenceHolds u 4 e.ord && !u.fences.any fun f => fenceHoldsEntry u f e.ord

/-- Entry i of RQ has begun with what it has read; clip: 1 where entries passed the bounds of its handle. -/
def beginEntry (s : State) (i clip kind : Nat) (ws : List W64) : State :=
  s.mapUnit fun u => { u with rq := modAt u.rq i fun e => { e with stage := .begun clip kind [] ws } }

/-- What a stopped access of entry i of RQ does to it (R323). -/
def stopRoute (s : State) (i : Nat) (w : Who) (va : W64) (x : XStop) : State :=
  let halt := fun (s : State) (h : Halt) => s.mapUnit fun u => { u with rq := modAt u.rq i fun e => { e with halt := h } }
  match hold s w va 0 .rq x with
  | (s, .parked h k) => halt s (.parked h k)
  | (s, .aborted c) => halt s (.aborted c va)

/-- The round opens (R422, R423). -/
def openRound (s : State) (i : Nat) (e : QEntry) (a b issued : W64) : State :=
  let t := routeTable b
  let (ranks, pks) := assignAll s a b
  let tile := readBytes s.unit.pad.bytes (fld a 0 21) (rtRows a * rtRin a)
  let timeout := match s.unit.rt.ra[t].conf with
    | some (_, y) => fld y 0 32
    | none => 0
  let r : Round :=
    { ord := e.ord, id := s.unit.rt.ra[t].round, nr := rtRows a, km := rtKm b, rin := rtRin a, tile := tile
      deadline := if timeout == 0 then none else some (issued.toNat + timeout)
      ranks := ranks, rowsDone := List.replicate (rtRows a) false, zbits := List.replicate (rtRows a) false
      slot := none, packets := pks }
  let s := { s with freeCtr := s.freeCtr + 1 }
  let s := beginEntry s i 0 0 []
  let s := modRa s t fun m => { m with open_ := some r }
  settleRounds (drawPackets (obtainSlot (expireRound s t) t) t)

/-- R423: the ROUTE that is next in RQ begins. -/
def execRouteBegin (s : State) : Host.Outcome State Fault Refusal :=
  .next
    (let u := s.unit
    match nextRoute u with
    | none => s
    | some (i, e) =>
      match e.cmd with
      | .route a b issued =>
        if !routeUsable u a b then (if i == 0 then settleRounds (failEntry s 4 e none 0 0x3A 0#4 0#64 none) else s)
        else openRound s i e a b issued
      | _ => s)

/-- R427: a round that waits for its output slot obtains it. -/
def execRouteOqSlot (s : State) : Host.Outcome State Fault Refusal :=
  .next (settleRounds (iter (fun s => (List.finRange 4).foldl (fun s t => drawPackets (obtainSlot (expireRound s t) t) t) s) 4 s))

/-- The header of a row packet (R425). -/
def packetHeader (u : Unit) (t : Fin 4) (r : Round) (p : RowPacket) (rout : Nat) : List Byte :=
  leBytes r.id.toNat 2 ++ leBytes p.row 1 ++ leBytes (p.rank * 64 + t.val * 16 + bit01 p.spill * 8) 1 ++ leBytes p.expert.toNat 2
    ++ leBytes rout 2 ++ leBytes u.cr.unit.toNat 4 ++ leBytes u.cr.lcore.toNat 1 ++ leBytes 0 3 ++ leBytes r.rin 2 ++ leBytes 0 14

/-- A packet takes its ticket, is written and filled; none while its ring has no room or its unit is not resident (R204, R424). A packet to
a unit outside the gang is sent and forgotten (log 1). -/
def fillPacket (s : State) (t : Fin 4) (r : Round) (p : RowPacket) : Option State :=
  let rout := match s.unit.rt.ra[t].conf with
    | some (_, y) => raRout y
    | none => 4
  if !unitResident s (if 2 ^ 32 ≤ p.core then p.core - 2 ^ 32 else coreUnit s.unit p.core) then none
  else if 2 ^ 32 ≤ p.core then some s
  else
    match engReserve s p.core p.q with
    | none => none
    | some (s1, x) =>
      let bs := packetHeader s.unit t r p rout ++ (r.tile.drop (r.rin * p.row)).take r.rin
      some (engCommit (modPad s1 p.core fun d => padPut d (engAddr s1 p.core p.q x) bs) p.core p.q x)

/-- The first packet of a list that can be filled, none before it going to the same ring. -/
def firstFill (s : State) (t : Fin 4) (r : Round) (seen : List (Nat × BitVec 6)) : List RowPacket → Option (State × RowPacket)
  | [] => none
  | p :: rest =>
    if !p.drawn then none
    else if seen.contains (p.core, p.q) then firstFill s t r seen rest
    else
      match fillPacket s t r p with
      | some s => some (s, p)
      | none => firstFill s t r ((p.core, p.q) :: seen) rest

/-- A packet of one table's round is filled; its NT entry returns. -/
def fillOne (s : State) (t : Fin 4) : Option State :=
  match s.unit.rt.ra[t].open_ with
  | none => none
  | some r =>
    (firstFill s t r [] r.packets).map fun (s, p) =>
      drawPackets (modRound (s.mapUnit fun u => { u with nt := u.nt - 1 }) t fun r => { r with packets := r.packets.erase p }) t

/-- R424: the route engine fills one row packet of the unit's rounds; those of another core's engine come as a FarPut. -/
def execRoutePacketFill (s : State) : Host.Outcome State Fault Refusal :=
  .next
    (let s := (List.finRange 4).foldl (fun s t => drawPackets (expireRound s t) t) s
    settleRounds (((List.finRange 4).findSome? (fillOne s)).getD s))

/-! ### RTCFG, RASM and RRET (R420, R426, R427) -/

/-- A route table replaced. -/
def setRouteTable (s : State) (t : Nat) (m : SMap RouteEntry) : State :=
  s.mapUnit fun u => { u with rt := { u.rt with tables := u.rt.tables.setIfInBounds t m } }

/-- A failed RTCFG empties its table and surfaces as a copy's error does (R249, R420). -/
def failRtcfg (s : State) (e : QEntry) (a b : W64) (kind : Nat) (code : BitVec 4) (va : W64) : State :=
  failEntry (setRouteTable s (fld b 0 2) []) 4 e (some 2) (fld a 0 16) kind code va none

/-- The route entries of a table's bytes; beyond them every word is zero. -/
def routeEntries (n : Nat) (bs : List Byte) : SMap RouteEntry :=
  (upto 0 n).map fun j => (j, w64 (leNat ((bs.drop (16 * j)).take 8)), w64 (leNat ((bs.drop (16 * j + 8)).take 8)))

/-- What an RTCFG reads as it begins (R420): the table's words, with 1 where entries pass the handle's bounds (R248), or the KIND of its
error; none where an access stopped, whose state is then that of the halted entry. -/
def rtcfgRead (s : State) (i : Nat) (e : QEntry) (a b : W64) : State × Option (Except Nat (Nat × List W64)) :=
  let w := unitWho s.unit e.cls 3#2
  let n := fld b 16 12 + 1
  match readHandle s w (fld a 0 16) with
  | (s, none) => (s, some (.error 0x24))
  | (s, some (.stop va x)) => (stopRoute s i w va x, none)
  | (s, some (.ok ws)) =>
    let h := Handle.of ws
    let dim := nth h.dims 0 1
    if !h.ok || h.tgt != 0 then (s, some (.error 0x24))
    else if !h.rights.testBit 3 then (s, some (.error 0x25))
    else if h.fault && dim < 4 * n then (s, some (.error 0x26))
    else if h.fmt != 0xC || fld (nth ws 6 0#64) 1 2 != 0 then (s, some (.error 0x27))
    else
      match vread s w 0 (w64 h.base) (4 * min dim (4 * n)) with
      | (s, .stop va x) => (stopRoute s i w va x, none)
      | (s, .ok bs) => (s, some (.ok (bit01 (dim < 4 * n), (chunks 8 (2 * n) bs).map fun l => w64 (leNat l))))

/-- The RTCFG at the head of RQ performs with what it read (R419, R420). -/
def rtcfgPerform (s : State) : State :=
  match readyEntry s.unit 4 with
  | none => s
  | some e =>
    match e.cmd, e.halt, e.stage with
    | .rtcfg a b, .aborted code va, _ => settleRounds (failRtcfg s e a b 0x2D code va)
    | .rtcfg a b, .none, .begun clip kind _ ws =>
      settleRounds
        (if kind != 0 then failRtcfg s e a b kind 0#4 0#64
        else finishEntry (setRouteTable (copyStat s 0#6 (clip == 1)) (fld b 0 2) (routeEntries (fld b 16 12 + 1) (ws.flatMap fun w => leBytes w.toNat 8))) 4)
    | _, _, _ => s

/-- R420: the RTCFG that is next in RQ reads its table, and at the head of RQ it performs. -/
def execRtcfgExec (s : State) : Host.Outcome State Fault Refusal :=
  .next (rtcfgPerform
    (match nextRoute s.unit with
    | none => s
    | some (i, e) =>
      match e.cmd, e.halt with
      | .rtcfg a b, .none =>
        (match rtcfgRead s i e a b with
        | (s, none) => s
        | (s, some (.error k)) => beginEntry s i 0 k []
        | (s, some (.ok (clip, ws))) => beginEntry s i clip 0 ws)
      | _, _ => s))

/-- R427: the RASM at the head of RQ. -/
def execRasmExec (s : State) : Host.Outcome State Fault Refusal :=
  .next
    (match readyEntry s.unit 4 with
    | none => s
    | some e =>
      match e.cmd with
      | .rasm a b => finishEntry (modRa s ⟨fld a 40 2, Nat.mod_lt _ (by decide)⟩ fun m => { m with conf := some (a, b) }) 4
      | _ => s)

/-- What an RRET reads as it begins (R426): its header's 32 bytes and the result row, as words; or KIND 0x3B. -/
def rretRead (u : Unit) (a b : W64) : Except Nat (List W64) :=
  let at_ := fun (o n : Nat) => padRead u.pad (b.toNat + o) n
  let rlen := at_ 6 2
  if at_ 3 1 % 8 != 0 || at_ 13 3 != 0 || at_ 18 14 != 0 || rlen % 4 != 0 || rlen < 4 || 4096 < rlen
      || u.launch.units.toNat ≤ at_ 8 4 || !padOk u.pad.banks a.toNat rlen then .error 0x3B
  else .ok ((chunks 8 (rlen / 8 + 8) (readBytes u.pad.bytes b.toNat 32 ++ readBytes u.pad.bytes a.toNat rlen)).map fun l => w64 (leNat l))

/-- The RRET at the head of RQ delivers what it read, once the origin is resident. The unit's own tables take it here; those of other units
are theirs (log 1). -/
def rretPerform (s : State) : State :=
  match readyEntry s.unit 4 with
  | none => s
  | some e =>
    match e.cmd, e.stage with
    | .rret _ _, .begun _ kind _ ws =>
      let bs := ws.flatMap fun w => leBytes w.toNat 8
      let at_ := fun (o n : Nat) => leNat ((bs.drop o).take n)
      let origin := at_ 8 4
      let t : Fin 4 := ⟨at_ 3 1 / 16 % 4, Nat.mod_lt _ (by decide)⟩
      if kind != 0 then settleRounds (failEntry s 4 e none 0 kind 0#4 0#64 none)
      else if !unitResident s origin then s
      else if origin == s.unit.cr.unit.toNat then
        settleRounds (finishEntry (acceptReturn s t (w16 (at_ 0 2)) (at_ 2 1) (at_ 3 1 / 64) ((bs.drop 32).take (at_ 6 2))) 4)
      else settleRounds (finishEntry s 4)
    | _, _ => s

/-- R426: the RRET that is next in RQ reads, and at the head of RQ it delivers its return. -/
def execRretExec (s : State) : Host.Outcome State Fault Refusal :=
  .next (rretPerform
    (match nextRoute s.unit with
    | none => s
    | some (i, e) =>
      match e.cmd with
      | .rret a b =>
        (match rretRead s.unit a b with
        | .error k => beginEntry s i 0 k []
        | .ok ws => beginEntry s i 0 0 ws)
      | _ => s))

end Sys2Proof.Machine
end

