-- ==== Sys2Proof/Machine/TransCmds.lean ====
section
/-! DEFINITION. The translation commands of system software (R311, R319, R320, R324). -/

namespace Sys2Proof.Machine

/-- Whether a slot lies in a partition's range (R311, R484). -/
def slotInPart (s : State) (part : BitVec 4) (slot : BitVec 12) : Bool :=
  match mget s.pkg.parts part.toNat with
  | some d => d.asidBase ≤ slot.toNat && slot.toNat < d.asidBase + d.asidCount
  | none => false

/-- A status record: 0 done, 1 rejected (R311). -/
def tcmdStatus (s : State) (part : BitVec 4) (st : Nat) : State := { s with tcmds := s.tcmds ++ [⟨part, st⟩] }

/-- A command whose completion waits for the accesses and ladle reads translated before it (R320): at once complete where there are
none. -/
def tcmdPend (s : State) (part : BitVec 4) (accs ladle : List Nat) : State :=
  if accs.isEmpty && ladle.isEmpty then tcmdStatus s part 0 else { s with tpend := s.tpend ++ [⟨part, accs, ladle, []⟩] }

/-- An invalidation of [va, va + bytes) of a slot (R319, R320). -/
def invalidate (s : State) (part : BitVec 4) (slot : BitVec 12) (va bytes : Nat) : State :=
  tcmdPend (purge s slot va bytes) part (translatedAccs s slot va bytes) (translatedLadles s slot)

/-- R311: ASSIGN. -/
def execAssign (part : BitVec 4) (slot : BitVec 12) (root : BitVec 40) (s : State) : Host.Outcome State Fault Refusal :=
  .next
    (let old := (asidOf s slot).getD ⟨false, 0#4, part, 0#40⟩
    if !slotInPart s part slot || old.v then tcmdStatus s part 1
    else
      let gen := old.gen + 1
      let set := fun (s : State) => { s with asids := mset s.asids slot.toNat ⟨true, gen, part, root⟩ }
      if gen == 0#4 then
        tcmdPend (set (purge s slot 0 (2 ^ 57))) part (translatedAccs s slot 0 (2 ^ 57)) (translatedLadles s slot)
      else tcmdStatus (set s) part 0)

/-- R311: RELEASE. -/
def execRelease (part : BitVec 4) (slot : BitVec 12) (s : State) : Host.Outcome State Fault Refusal :=
  .next
    (if !slotInPart s part slot then tcmdStatus s part 1
    else
      let s := match asidOf s slot with
        | some a => { s with asids := mset s.asids slot.toNat { a with v := false } }
        | none => s
      invalidate s part slot 0 (2 ^ 57))

/-- R311: INVAL.RANGE. -/
def execInvalRange (part : BitVec 4) (slot : BitVec 12) (va : W64) (count : Nat) (s : State) : Host.Outcome State Fault Refusal :=
  .next
    (if !slotInPart s part slot then tcmdStatus s part 1
    else invalidate s part slot (va.toNat % 2 ^ 57 / 4096 * 4096) (4096 * count))

/-- R311: INVAL.ASID. -/
def execInvalAsid (part : BitVec 4) (slot : BitVec 12) (s : State) : Host.Outcome State Fault Refusal :=
  .next (if !slotInPart s part slot then tcmdStatus s part 1 else invalidate s part slot 0 (2 ^ 57))

/-- Every translation and L1 line of the slots of a partition removed. -/
def purgePart (s : State) (part : BitVec 4) : State :=
  { s with
    tlb := s.tlb.filter fun e => !slotInPart s part e.slot
    walks := s.walks.filter fun e => !slotInPart s part e.slot
    unit := { s.unit with l1 := s.unit.l1.filter fun l => !slotInPart s part l.slot } }

/-- R311: INVAL.ALL. -/
def execInvalAll (part : BitVec 4) (s : State) : Host.Outcome State Fault Refusal :=
  .next
    (let slot := s.unit.cr.asidSlot
    if slotInPart s part slot then tcmdPend (purgePart s part) part (translatedAccs s slot 0 (2 ^ 57)) (translatedLadles s slot)
    else tcmdPend (purgePart s part) part [] [])

/-- R311: TWRITE, under the key of the commanding partition (R328). It completes with a status record also where its address lies beyond
main memory, where nothing is written. -/
def execTwrite (part : BitVec 4) (pa : Nat) (v : W64) (s : State) : Host.Outcome State Fault Refusal :=
  .next
    (if Config.mainBytes < pa + 8 then tcmdStatus s part 0
    else tcmdStatus (dropZeroed (dramWrite s (keyOf s part) pa (leBytes v.toNat 8)) pa v) part 0)

/-- The queue whose head a park entry holds. -/
def parkQueue (p : Parked) : Option Nat :=
  match p with
  | .copy false => some 0
  | .copy true => some 1
  | .panel north => some (feederQueue north)
  | .rq => some 4
  | .kq => some 5
  | _ => none

/-- The agent of a parked access of an engine: copy 1, feeder 2, other 3. -/
def parkAgent (p : Parked) : BitVec 2 :=
  match p with
  | .access _ _ => 0#2
  | .copy _ => 1#2
  | .panel _ => 2#2
  | _ => 3#2

/-- Who made a parked access. -/
def parkWho (s : State) (p : ParkEntry) : Who :=
  match p.who with
  | .encoder _ => edgeWho p.slot p.gen
  | .job _ => edgeWho p.slot p.gen
  | .ladder _ => edgeWho p.slot p.gen
  | .edge _ _ => edgeWho p.slot p.gen
  | .retry _ => edgeWho p.slot p.gen
  | .chunk c count => if count then countWho s c else chunkWho c
  | .agent q => requestWho s q
  | .access acc _ => { unitWho s.unit ((accAt s.unit acc).elim 0#4 (·.cls)) 0#2 with slot := p.slot, gen := p.gen }
  | w =>
    let cls := ((parkQueue w).bind fun i => (queueOf s.unit i).head?).elim 0#4 (·.cls)
    { unitWho s.unit cls (parkAgent w) with slot := p.slot, gen := p.gen }

/-- The stage of a part of a parked access once it is resumed, parked again or aborted. -/
def haltStage (h : Halt) : PartStage :=
  match h with
  | .none => .waiting
  | .parked slice k => .parked slice k
  | .aborted c _ => .aborted c

/-- Every part of an access that one park entry holds goes on. -/
def setHeld (s : State) (acc : Nat) (slice k : BitVec 6) (st : PartStage) : State :=
  match accAt s.unit acc with
  | some a => setAcc s { a with parts := a.parts.map fun p => if p.stage == .parked slice k then { p with stage := st } else p }
  | none => s

/-- What a parked operation goes on with: nothing holds it any more, it is parked again, or it has been aborted. -/
def setHalt (s : State) (p : ParkEntry) (h : Halt) : State :=
  match p.who with
  | .access acc _ => setHeld s acc p.slice p.index (haltStage h)
  | .encoder _ => { s with enc := { s.enc with busy := s.enc.busy.map fun b => { b with halt := h } } }
  | .job key =>
    match mget s.jobs key with
    | some j => { s with jobs := mset s.jobs key { j with halt := h } }
    | none => s
  | w =>
    match parkQueue w with
    | some i =>
      s.mapUnit fun u => setQueue u i ((queueOf u i).map fun e => if e.halt == .parked p.slice p.index then { e with halt := h } else e)
    | none => s

/-- The first graph of a request's job, as its template gave it when the request was taken (R458). -/
def templateGraph (s : State) (key : Nat) : List LaunchRec :=
  ((s.text.blocks.find? fun b => jobKey b.part b.job == key).map (·.graph)).getD []

/-- The front end submits a job's graph once no write of its request block waits any more (R458). -/
def submitTemplate (s : State) (key : Nat) : State :=
  if s.parks.any (fun p => match p.who with
    | .edge _ (some k) => k == key
    | _ => false) then s
  else { s with agenda := s.agenda ++ [.graphSubmit (BitVec.ofNat 4 (key / 2 ^ 32)) (BitVec.ofNat 32 key) (templateGraph s key)] }

/-- The instantiation of a stream graph ends with the abort of its read. -/
def endInstantiate (s : State) (key : Nat) : State :=
  match mget s.jobs key with
  | some j => { s with jobs := mset s.jobs key { j with due := none } }
  | none => s

/-- What a parked access does once it is resumed or aborted. -/
def unpark (s : State) (p : ParkEntry) (h : Halt) : State :=
  match p.who with
  | .edge bs submit =>
    let s := match h with
      | .none => (vwrite s (parkWho s p) false p.va bs).1
      | _ => s
    match submit with
    | some key => submitTemplate s key
    | none => s
  | .ladder key =>
    match h with
    | .aborted _ _ => endInstantiate s key
    | _ => s
  | .retry i =>
    match h with
    | .none => { s with agenda := i :: s.agenda }
    | _ => s
  | .agent q =>
    match h with
    | .none => agentServe s q
    | _ => s
  | .chunk c count =>
    match h with
    | .none => if count then countArrival s c else chunkArrival s c
    | _ => s
  | _ => setHalt s p h

/-- The park entry of a partition at a slice and index. -/
def parkAt (s : State) (part : BitVec 4) (slice park : BitVec 6) : Option ParkEntry :=
  s.parks.find? fun p => p.slice == slice && p.index == park && p.part == part

/-- Whether the fault record of a parked access is still held by its slice for a full fault ring: the access stays parked until there is
room (R323). -/
def recordHeld (s : State) (p : ParkEntry) : Bool := s.heldFlt.any fun r => r.2.slice == p.slice && r.2.park.toNat == p.index.toNat

/-- RESUME translates the parked access again from level 5 (R324). -/
def resumeParked (s : State) (p : ParkEntry) : State :=
  let s := { s with parks := s.parks.erase p }
  let w := parkWho s p
  let s := match locate s w p.va p.kind false with
    | (s, .ok _) => unpark s p .none
    | (s, .error x) =>
      match hold s w p.va p.kind p.who x with
      | (s, .parked h k) => setHalt s p (.parked h k)
      | (s, .aborted c) => unpark s p (.aborted c p.va)
  tcmdStatus s p.part 0

/-- The access or queue entry of the unit that a parked access belongs to. -/
def parkedOrd (s : State) (p : ParkEntry) : List Nat :=
  match p.who with
  | .access acc _ => [acc]
  | w => match parkQueue w with
    | some i => ((queueOf s.unit i).filter fun e => e.halt == .parked p.slice p.index).map (·.ord)
    | none => []

/-- ABORT completes the parked access with error; the command completes once the abort has come back to the unit (R311, R324). -/
def abortParked (s : State) (p : ParkEntry) : State :=
  let gone := parkedOrd s p
  let s := unpark { s with parks := s.parks.erase p } p (.aborted p.code p.va)
  if gone.isEmpty then tcmdStatus s p.part 0 else { s with tpend := s.tpend ++ [⟨p.part, [], [], gone⟩] }

/-- A RESUME or an ABORT; while the record of the access waits for room in the fault ring, the command waits (R311, R323). -/
def endPark (s : State) (part : BitVec 4) (slice park : BitVec 6) (abort : Bool) : State :=
  match parkAt s part slice park with
  | none => tcmdStatus s part 1
  | some p =>
    if recordHeld s p then { s with twait := s.twait ++ [(part, slice, park, abort)] }
    else if abort then abortParked s p else resumeParked s p

/-- R324. -/
def execResume (part : BitVec 4) (slice park : BitVec 6) (s : State) : Host.Outcome State Fault Refusal :=
  .next (endPark s part slice park false)

/-- R324. -/
def execAbort (part : BitVec 4) (slice park : BitVec 6) (s : State) : Host.Outcome State Fault Refusal :=
  .next (endPark s part slice park true)

/-- Whether everything that a command waits for has performed, no response of it is on its way (R320), and what it aborted has come back
(R311). -/
def tcmdReady (s : State) (t : TcmdPending) : Bool :=
  performed s.unit 0 t.accs && !(s.unit.posted.any fun p => p.package == 32 && t.accs.contains p.id)
    && !(s.unit.accs.any fun a => t.accs.contains a.id && a.parts.any (·.stage == .packet))
    && !(ladleOut s).any t.ladle.contains
    && !(s.unit.accs.any fun a => t.gone.contains a.id)
    && !((upto 0 6).any fun i => (queueOf s.unit i).any fun e => t.gone.contains e.ord)

/-- A waiting RESUME or ABORT of the partition whose access has its record in the fault ring now. -/
def waitingEnd (s : State) (part : BitVec 4) : Option (BitVec 4 × BitVec 6 × BitVec 6 × Bool) :=
  s.twait.find? fun w => w.1 == part && (parkAt s w.1 w.2.1 w.2.2.1).all fun p => !recordHeld s p

/-- R311, R320: the oldest waiting command of the partition that can complete does. -/
def execTranslationCommandComplete (part : BitVec 4) (s : State) : Host.Outcome State Fault Refusal :=
  .next
    (match waitingEnd s part with
    | some w => endPark { s with twait := s.twait.erase w } part w.2.1 w.2.2.1 w.2.2.2
    | none =>
      match s.tpend.find? fun t => t.part == part && tcmdReady s t with
      | none => s
      | some t => tcmdStatus { s with tpend := s.tpend.erase t } part 0)

end Sys2Proof.Machine
end

