-- ==== Sys2Proof/Machine/Dispatcher.lean ====
section
/-! DEFINITION. What the dispatcher keeps and does between its steps: launch records and their checks, placement and order,
phases, boundaries, cancels and completion (R337 to R344, R349 to R360, R364 to R372). -/

namespace Sys2Proof.Machine

/-! ### Launch records (R338) -/

def lrWord (l : LaunchRec) (i : Nat) : W64 := nth l.w.toList i 0#64
def lrImage (l : LaunchRec) : Nat := fld (lrWord l 0) 0 57
def lrSlot (l : LaunchRec) : BitVec 12 := BitVec.ofNat 12 (fld (lrWord l 1) 48 12)
def lrGen (l : LaunchRec) : BitVec 4 := BitVec.ofNat 4 (fld (lrWord l 1) 60 4)
def lrBanks (l : LaunchRec) : BitVec 16 := BitVec.ofNat 16 (fld (lrWord l 1) 32 16)
def lrPrio (l : LaunchRec) : Nat := fld (lrWord l 1) 28 4
def lrSc (l : LaunchRec) : Nat := fld (lrWord l 1) 26 2
def lrPaired (l : LaunchRec) : Bool := fbit (lrWord l 1) 25
def lrFuse (l : LaunchRec) : Bool := fbit (lrWord l 1) 24
def lrPhb (l : LaunchRec) : Bool := fbit (lrWord l 1) 23
def lrPkind (l : LaunchRec) : Nat := fld (lrWord l 1) 21 2
def lrIndep (l : LaunchRec) : Bool := fbit (lrWord l 1) 20
def lrNc (l : LaunchRec) : Nat := fld (lrWord l 1) 2 2 + 1
def lrNr (l : LaunchRec) : Nat := fld (lrWord l 1) 0 2 + 1
def lrUnits (l : LaunchRec) : Nat := fld (lrWord l 2) 32 32
def lrCost (l : LaunchRec) : Nat := fld (lrWord l 2) 0 32
def lrDeps (l : LaunchRec) : W64 := lrWord l 3
def lrPhase (l : LaunchRec) : Nat := fld (lrWord l 5) 32 32
def lrOtlen (l : LaunchRec) : Nat := fld (lrWord l 5) 0 17

/-- Object-table base of a copy: OTBASE of copies 0 and 1, OTB2, OTB3 (R354). -/
def lrOtbase (l : LaunchRec) (copy : Nat) : Nat := fld (lrWord l (if copy == 2 then 6 else if copy == 3 then 7 else 4)) 0 57

/-- Units of a gang. -/
def lrSize (l : LaunchRec) : Nat := lrNr l * lrNc l

/-- Gangs of one copy. -/
def lrGangs (l : LaunchRec) : Nat := lrUnits l / lrSize l

/-- The record with its first phase replaced. -/
def lrSetPhase (l : LaunchRec) (p : Nat) : LaunchRec := ⟨l.w.set 5 (w64 (p * 2 ^ 32 + (lrWord l 5).toNat % 2 ^ 32))⟩

/-- The record phase-bound (R367). -/
def lrSetPhb (l : LaunchRec) : LaunchRec := ⟨l.w.set 1 (lrWord l 1 ||| w64 (2 ^ 23))⟩

/-- Logical cores of a gang of this shape, ascending (R337). -/
def lrCores (l : LaunchRec) : List Nat := (upto 0 16).filter fun c => c / 4 < lrNr l && c % 4 < lrNc l

def lrMask (l : LaunchRec) : Nat := (lrCores l).foldl (fun m c => m + 2 ^ c) 0

/-! ### Checks (R340) -/

/-- A drain table without overlap, its labels in text; an empty range overlaps none (R374). -/
def drainOk (im : Image) : Bool :=
  let lim := 4 * im.text.length
  im.drain.length ≤ 1024
    && (im.drain.all fun d => d.1 ≤ lim && d.2.1 ≤ lim && d.2.2 < lim && d.1 % 4 == 0 && d.2.1 % 4 == 0 && d.2.2 % 4 == 0)
    && (upto 0 im.drain.length).all fun i => (upto 0 i).all fun k =>
      let a := nth im.drain i (0, 0, 0)
      let b := nth im.drain k (0, 0, 0)
      a.2.1 ≤ a.1 || b.2.1 ≤ b.1 || a.2.1 ≤ b.1 || b.2.1 ≤ a.1

/-- PERM word of a ring of the image on logical core c (R46). -/
def selfPerm (w1 : W64) (self : Bool) (c : Nat) : W64 := if self then w1 ||| w64 (2 ^ c) else w1

/-- DETAIL 0x03: whether the image header is valid for a launch. -/
def imageOk (im : Image) (l : LaunchRec) : Bool :=
  im.ok && im.entry.toNat % 4 == 0 && im.entry.toNat < 4 * im.text.length && drainOk im
    && (im.rings.all fun (_, w0, w1, self) => (lrCores l).all fun c => ringValid w0 (selfPerm w1 self c) (lrBanks l) (lrMask l))
    && im.handles.all fun h => (Handle.of h.2).ok

/-- Clusters of a partition. -/
def partClusters (s : State) (part : BitVec 4) : BitVec 24 :=
  match mget s.pkg.parts part.toNat with
  | some d => d.clusters
  | none => 0#24

def clusterCount (s : State) (part : BitVec 4) : Nat := ((upto 0 24).filter fun i => (partClusters s part).getLsbD i).length

/-- DETAIL of a launch of job j, number idx of its graph: the lowest code that applies; 0 for a valid launch (R340). -/
def launchDetail (s : State) (j : Job) (idx : Nat) (l : LaunchRec) : Nat :=
  let w := lrWord l
  let im := mget s.images (lrImage l)
  let onImage := fun (f : Image → Bool) => match im with
    | some m => f m
    | none => false
  let zero := fld (w 0) 57 7 == 0 && fld (w 1) 4 16 == 0 && fld (w 4) 57 7 == 0 && fld (w 5) 17 15 == 0 && fld (w 6) 57 7 == 0
    && fld (w 7) 57 7 == 0
  let asid := match mget s.pkg.parts j.r.part.toNat with
    | some d => d.asidBase ≤ (lrSlot l).toNat && (lrSlot l).toNat < d.asidBase + d.asidCount && asidLive s (lrSlot l) (lrGen l)
    | none => false
  let bad : List (Nat × Bool) :=
    [(0x01, !zero || lrPkind l == 3),
     (0x02, lrUnits l == 0 || lrUnits l % lrSize l != 0),
     (0x03, !(onImage fun m => imageOk m l)),
     (0x04, onImage fun m => Config.storeWords < m.text.length),
     (0x05, onImage fun m => !(m.banks.all fun b => fmtValid b.2)),
     (0x06, onImage fun m => !(m.slots.all fun t => slotTableOk t.1 t.2)),
     (0x07, lrFuse l && !(lrNr l == 4 && lrNc l == 4)),
     (0x08, !asid),
     (0x09, lrOtlen l == 0 || 65536 < lrOtlen l),
     (0x0A, (lrDeps l).toNat / 2 ^ idx != 0),
     (0x0B, lrPkind l != 0 && (!lrPhb l || (j.r.alt && lrPhase l % 2 != lrPkind l - 1))),
     (0x0C, lrPaired l && (lrOtbase l 2 == 0 || lrOtbase l 3 == 0 || lrPhb l || clusterCount s j.r.part < 3))]
  ((bad.find? (·.2)).map (·.1)).getD 0

/-- The record of a job as it is created (R361). -/
def Job.fresh (s : State) (r : JobRec) : Job :=
  { r := r, open_ := true, phase := 0#32, deadline := r.deadline, compTail := 0#32, created := s.time, drawBase := r.drawBase
    rung := r.rung, nextSeq := 0#16, graphs := [], graphsOut := 0#32, launchesOut := 0#32, held := [], climb := 0, due := none
    done := false, failed := false, status := 0#8, slot := r.slot, gen := ((asidOf s r.slot).map (·.gen)).getD 0#4, halt := .none }

/-! ### Launches and gangs of the package -/

def idKey (l : LaunchId) : Nat := jobKey l.part l.job

def launchAt (s : State) (key : Nat) (seq : W16) (i : Nat) : Option Launch :=
  (mget s.jobs key).bind fun j => (j.graphs.find? (·.seq == seq)).bind fun g => g.launches[i]?

def launchOf (s : State) (l : LaunchId) : Option Launch := launchAt s (idKey l) l.graph l.launch

def mapLaunch (s : State) (key : Nat) (seq : W16) (i : Nat) (f : Launch → Launch) : State :=
  mapJob s key fun j =>
    { j with graphs := j.graphs.map fun g => if g.seq == seq then { g with launches := modAt g.launches i f } else g }

def Gang.start : Gang := ⟨.waiting, none, none, 0, false⟩

def mapGang (s : State) (key : Nat) (seq : W16) (i g : Nat) (f : Gang → Gang) : State :=
  mapLaunch s key seq i fun l => { l with gangs := modAt l.gangs g f }

/-- Key of a unit in Launch.units. -/
def unitKeyOf (l : Launch) (g k : Nat) : Nat :=
  let n := lrGangs l.rec_
  2 ^ 32 * (g / n) + (g % n * lrSize l.rec_ + k)

def unitInfo (l : Launch) (k : Nat) : UnitInfo := (mget l.units k).getD .start

/-- Keys of the units of gang g. -/
def gangUnits (l : Launch) (g : Nat) : List Nat := (upto 0 (lrSize l.rec_)).map (unitKeyOf l g)

/-- Gang and place in it of unit u of a copy (0 or 1 for the first). -/
def unitPlace (l : Launch) (copy u : Nat) : Nat × Nat :=
  ((copy - 1) * lrGangs l.rec_ + u / lrSize l.rec_, u % lrSize l.rec_)

/-- Whether the unit on the modelled core belongs to a gang. -/
def ownGang (s : State) (key : Nat) (seq : W16) (i g : Nat) : Bool :=
  let u := s.unit
  u.run != .none && u.run != .completed && jobKey u.cr.part u.cr.job == key && u.launch.graph == seq && u.launch.launch == i
    && u.launch.gang == g

/-- Whether a launch is still to run, and is not invalid. -/
def Launch.open_ (l : Launch) : Bool := l.status.isNone && l.detail == 0#8

/-- Producers of a launch (R343). -/
def producersOf (j : Job) (l : Launch) : List Launch :=
  l.deps.filterMap fun (seq, i) => (j.graphs.find? (·.seq == seq)).bind fun g => g.launches[i]?

/-! ### Placement (R341) -/

/-- P(r, c) of an isometry. -/
def isoPos (iso : Iso) (nr nc r c : Nat) : Nat × Nat :=
  match iso with
  | .id => (r, c)
  | .t90 => (c, nr - 1 - r)
  | .t180 => (nr - 1 - r, nc - 1 - c)
  | .t270 => (nc - 1 - c, r)
  | .mh => (r, nc - 1 - c)
  | .mv => (nr - 1 - r, c)
  | .md => (c, r)
  | .ma => (nc - 1 - c, nr - 1 - r)

/-- The physical core of logical core c; none outside the mesh. -/
def placedCore (l : LaunchRec) (at_ : Placement) (c : Nat) : Option (BitVec 5 × BitVec 4) :=
  let p := isoPos at_.iso (lrNr l) (lrNc l) (c / 4) (c % 4)
  let r := p.1 + at_.dr
  let k := p.2 + at_.dc
  if r < 4 && k < 4 then some (at_.cluster, BitVec.ofNat 4 (4 * r + k)) else none

/-- The physical cores of a gang, by ascending logical core. -/
def placedCores (l : LaunchRec) (at_ : Placement) : List (Option (BitVec 5 × BitVec 4)) := (lrCores l).map (placedCore l at_)

/-- What an isometry makes of a direction, coded as an input of R296: 1 N, 2 E, 3 S, 4 W (R341). -/
def isoDir (iso : Iso) (d : Nat) : Nat :=
  let row := match iso with
    | .id => [1, 2, 3, 4]
    | .t90 => [2, 3, 4, 1]
    | .t180 => [3, 4, 1, 2]
    | .t270 => [4, 1, 2, 3]
    | .mh => [1, 4, 3, 2]
    | .mv => [3, 2, 1, 4]
    | .md => [4, 3, 2, 1]
    | .ma => [2, 1, 4, 3]
  if 1 ≤ d && d ≤ 4 then nth row (d - 1) 0 else d

/-- A slot-table entry as its physical router holds it: each field under its physical output, its input code renamed (R342). -/
def physEntry (iso : Iso) (w : W16) : W16 :=
  w16 ((upto 1 5).foldl (fun v d => v + isoDir iso (w.toNat / 2 ^ (15 - 3 * d) % 8) * 2 ^ (15 - 3 * isoDir iso d)) 0)

/-- The slot tables of a gang in the routers of its physical cores (R342). -/
def physSlots (l : LaunchRec) (at_ : Placement) (slots : SMap (List W16)) : SMap (List W16) :=
  slots.foldl (fun m t => match placedCore l at_ t.1 with
    | some c => mset m c.2.toNat (t.2.map (physEntry at_.iso))
    | none => m) []

/-- Whether gang g of a launch may be placed so, with these cores taken (R341); each copy of a paired launch keeps to a cluster of its
own (R354, log 84). -/
def admits (s : State) (part : BitVec 4) (l : Launch) (g : Nat) (taken : List (BitVec 5 × BitVec 4)) (at_ : Placement) : Bool :=
  let n := lrGangs l.rec_
  (partClusters s part).getLsbD at_.cluster.toNat
    && ((placedCores l.rec_ at_).all fun c => match c with
      | some c => !taken.contains c
      | none => false)
    && (!lrPaired l.rec_ || ((upto 0 l.gangs.length).zip l.gangs).all fun (k, o) =>
      o.cluster.all fun c => (k / n == g / n) == (c == at_.cluster))

def allIsos : List Iso := [.id, .t90, .t180, .t270, .mh, .mv, .md, .ma]

/-- Every placement there is. -/
def allPlacements : List Placement :=
  (upto 0 24).flatMap fun k => allIsos.flatMap fun i => (upto 0 4).flatMap fun r => (upto 0 4).map fun c =>
    ⟨BitVec.ofNat 5 k, i, r, c⟩

/-- The admissible placements of a gang. -/
def placements (s : State) (part : BitVec 4) (l : Launch) (g : Nat) : List Placement :=
  allPlacements.filter (admits s part l g s.cores)

def placeable (s : State) (part : BitVec 4) (l : Launch) (g : Nat) (taken : List (BitVec 5 × BitVec 4)) : Bool :=
  allPlacements.any (admits s part l g taken)

/-! ### Slack (R365) -/

/-- Estimated cost of a launch. -/
def effCost (l : Launch) : Nat := lrCost l.rec_ * l.cscale / 256

/-- Remaining estimate of a started launch. -/
def remaining (s : State) (ncore : Nat) (l : Launch) : Nat :=
  effCost l / min (lrUnits l.rec_) ncore - (s.time - l.started.getD s.time)

def jobLaunches (j : Job) : List Launch := j.graphs.flatMap (·.launches)

/-- Slack of a job in nanoseconds. -/
def jobSlack (s : State) (j : Job) : Int :=
  if j.r.stream then
    let ncore := 16 * clusterCount s j.r.part
    let ls := (jobLaunches j).filter fun l => l.open_ && lrPhase l.rec_ == j.phase.toNat
    let u := (ls.filter (·.started.isNone)).foldl (fun n l => n + effCost l) 0
    let m := (ls.filter (·.started.isSome)).foldl (fun n l => max n (remaining s ncore l)) 0
    (j.deadline.toNat : Int) - s.time - ((u / ncore + m : Nat) : Int)
  else
    let target := if j.r.target != 0#32 then j.r.target.toNat
      else match mget s.pkg.parts j.r.part.toNat with
        | some d => nth d.tl.toList j.r.sc.toNat 0
        | none => 0
    (target : Int) - ((s.time - j.created : Nat) : Int)

/-! ### Order (R371, R372) -/

/-- A gang of the package, with its partition and its launch. -/
structure GangRef where
  part   : BitVec 4
  key    : Nat
  seq    : W16
  launch : Nat
  gang   : Nat
  l      : Launch
  g      : Gang
deriving DecidableEq, Repr

/-- Every gang of a partition's jobs. -/
def partGangs (s : State) (part : BitVec 4) : List GangRef :=
  (s.jobs.filter fun j => j.2.r.part == part).flatMap fun (key, j) => j.graphs.flatMap fun gr =>
    ((upto 0 gr.launches.length).zip gr.launches).flatMap fun (i, l) =>
      if l.open_ then ((upto 0 l.gangs.length).zip l.gangs).map fun (k, g) => ⟨part, key, gr.seq, i, k, l, g⟩ else []

/-- Whether a gang is ready: it waits or has been saved, its phase has come, its producers have been placed (R344, R349). -/
def isReady (s : State) (x : GangRef) : Bool :=
  let waits := x.g.st == .waiting || x.g.st == .saved
  match mget s.jobs x.key with
  | none => false
  | some j =>
    waits && x.l.cancelled.isNone && !x.g.cancelled && lrPhase x.l.rec_ ≤ j.phase.toNat
      && (producersOf j x.l).all fun p => p.status.isSome || p.gangs.all fun g => g.st != .waiting

/-- The keys of R371, lower first. -/
def orderKey (s : State) (x : GangRef) : List Int :=
  let credit : Nat := match x.g.ready with
    | some t => (s.time - t) / Config.tickNs
    | none => 0
  let (slack, created) : Int × Nat := match mget s.jobs x.key with
    | some j => (jobSlack s j, j.created)
    | none => (0, 0)
  [((lrSc x.l.rec_ - credit : Nat) : Int), slack, -(lrPrio x.l.rec_ : Int), created, x.l.order, x.gang]

def lexLt : List Int → List Int → Bool
  | a :: as, b :: bs => a < b || (a == b && lexLt as bs)
  | _, _ => false

/-- Whether every unit of a gang is held in PHASE or WAITDEP (R372). -/
def allHeld (x : GangRef) : Bool :=
  (gangUnits x.l x.gang).all fun k => let i := unitInfo x.l k; i.done || i.arrived.isSome || i.waits

/-- Whether a gang holds its cores: it runs, or its units still drain. -/
def GangRef.placedAt (x : GangRef) : Option Placement :=
  match x.g.st with
  | .running at_ => some at_
  | .saving at_ => some at_
  | _ => none

/-- Whether a unit of gang x has neither completed nor done yet what others wait for. -/
def owes (x : GangRef) (met : UnitInfo → Bool) : Bool :=
  (gangUnits x.l x.gang).any fun k => let i := unitInfo x.l k; !i.done && !met i

/-- Whether units of gang h, which runs and whose units are all held, wait for gang x of their own job (R372). -/
def waitsFor (s : State) (h x : GangRef) : Bool :=
  h.placedAt.isSome && h.key == x.key && allHeld h
    && match mget s.jobs h.key with
      | none => false
      | some j =>
        ((gangUnits h.l h.gang).any (fun k => (unitInfo h.l k).waits) && h.l.deps.contains (x.seq, x.launch) && owes x (·.triggered))
          || ((gangUnits h.l h.gang).any (fun k => (unitInfo h.l k).arrived == some j.phase)
            && lrPhb x.l.rec_ && lrPhase x.l.rec_ ≤ j.phase.toNat && owes x (·.arrived == some j.phase))

/-- Whether gang a comes before gang b in the order. -/
def before (s : State) (a b : GangRef) : Bool :=
  if waitsFor s a b then false else if waitsFor s b a then true else lexLt (orderKey s a) (orderKey s b)

/-- Every ready gang that has not been marked is marked with the time (R371). -/
def markReady (s : State) : State :=
  (s.jobs.flatMap fun j => partGangs s j.2.r.part).foldl (fun s x =>
    if x.g.ready.isNone && isReady s x then mapGang s x.key x.seq x.launch x.gang fun g => { g with ready := some s.time } else s) s

/-- Whether gang x may be placed now: ready, and no gang before it in the order can be placed (R371). -/
def mayPlace (s : State) (part : BitVec 4) (x : GangRef) : Bool :=
  isReady s x
    && (partGangs s part).all fun y =>
      (y.key == x.key && y.seq == x.seq && y.launch == x.launch && y.gang == x.gang) || !isReady s y || !before s y x
        || !placeable s part y.l y.gang s.cores

/-- Cores that the gang of a running or saving reference holds: of its units that have not completed. -/
def coresOf (x : GangRef) (at_ : Placement) : List (BitVec 5 × BitVec 4) :=
  ((lrCores x.l.rec_).zip (gangUnits x.l x.gang)).filterMap fun (c, k) =>
    if (unitInfo x.l k).done then none else placedCore x.l.rec_ at_ c

/-- The gang of a list that is latest in the order, and among equals the one started last. -/
def latestOf (s : State) (l : List GangRef) : Option GangRef :=
  l.foldl (fun (b : Option GangRef) y =>
    match b with
    | none => some y
    | some z => if before s z y || (!before s y z && z.g.started < y.g.started) then some y else b) none

/-- The running gangs behind gang x in the order whose cores, with the free ones, would admit it; one whose units still drain is among them
(R372). -/
def openers (s : State) (part : BitVec 4) (x : GangRef) : List GangRef :=
  (partGangs s part).filter fun y => match y.placedAt with
    | some at_ => before s x y && placeable s part x.l x.gang (s.cores.filter fun c => !(coresOf y at_).contains c)
    | none => false

/-- The gang that is pre-empted for gang x whatever the slack: one whose units wait for it, where there is one that makes room alone, that
one (R372). -/
def waiterFor (s : State) (part : BitVec 4) (x : GangRef) : Option GangRef :=
  let alone := (openers s part x).filter fun y => waitsFor s y x
  latestOf s (if alone.isEmpty then (partGangs s part).filter fun y => waitsFor s y x else alone)

/-- The gang that is pre-empted for gang x, the first that cannot be placed: where its slack is short the latest of those whose cores would
admit it, else one whose units wait for it (R372). -/
def victimFor (s : State) (part : BitVec 4) (x : GangRef) : Option GangRef :=
  let ncore := 16 * clusterCount s part
  let cands := openers s part x
  let slack : Int := match mget s.jobs x.key with
    | some j => jobSlack s j
    | none => 0
  let least := cands.foldl (fun (b : Option Nat) y =>
    let r := remaining s ncore y.l
    match b with
    | none => some r
    | some m => some (min m r)) none
  match least with
  | some w => if slack - (w : Int) < 0 then latestOf s cands else waiterFor s part x
  | none => waiterFor s part x

/-! ### Records and boundaries (R358, R364 to R369) -/

/-- The lowest nonzero status. -/
def minNz (a b : Byte) : Byte := if a == 0#8 then b else if b == 0#8 then a else if a.toNat ≤ b.toNat then a else b

def addRecord (s : State) (key : Nat) (r : CompRecord) : State := mapJob s key fun j => { j with held := j.held ++ [r] }

/-- Who reads and writes on behalf of a job: an agent of the package edge, class 15 (R358). -/
def jobWho (j : Job) : Who := edgeWho j.slot j.gen

/-- Rung entry r as read from the table: GRAPH, COUNT, CSCALE; none where V = 0 (R366), or where the read faults, which parks it (R323). -/
def rungEntry (s : State) (j : Job) (r : Nat) (by_ : Parked) : State × Option (W64 × Nat × Nat) :=
  match vread s (jobWho j) 0 (j.r.ladder + w64 (32 * r)) 32 with
  | (s, .stop va x) => ((hold s (jobWho j) va 0 by_ x).1, none)
  | (s, .ok bs) =>
    let f := fun o n => leNat ((bs.drop o).take n)
    (s, if f 12 1 == 1 then some (w64 (f 0 8), f 8 1, f 10 2) else none)

/-- Whether rung r exists: its entry and every entry below it (R366). -/
def rungExists (s : State) (j : Job) (r : Nat) (by_ : Parked) : State × Bool :=
  if j.r.ladder == 0#64 then (s, r == 0)
  else
    (upto 0 (r + 1)).foldl (fun (s, ok) k =>
      if !ok then (s, false) else match rungEntry s j k by_ with
        | (s, e) => (s, e.isSome)) (s, 7 ≥ r)

/-- A stream status record (R368). -/
def streamRecord (j : Job) (status : Byte) (rung : BitVec 3) (value : Int) (time : Nat) : CompRecord :=
  ⟨j.r.job, j.nextSeq - 1, 0xFF#8, 5#8, status, rung.setWidth 8, 0#8, j.phase, BitVec.ofInt 64 value, time⟩

/-- Steps 4 and 5 of a boundary of a stream: the slack, then a drop or a climb (R368, R369). A next rung that cannot be read counts as one
that does not exist (log 87). -/
def boundary (s : State) (key : Nat) : State :=
  match mget s.jobs key with
  | none => s
  | some j =>
    if !j.r.stream || j.done then s
    else
      let sl := jobSlack s j
      if sl < 0 then
        let (s, ok) := if j.rung == 7#3 then (s, false) else rungExists s j (j.rung.toNat + 1) (.ladder key)
        if ok then
          addRecord (mapJob s key fun j => { j with rung := j.rung + 1, climb := 0 }) key (streamRecord j 0x10#8 (j.rung + 1) sl s.time)
        else if 4 ≤ j.climb then mapJob s key fun j => { j with climb := 0 }
        else s
      else if 4 ≤ j.climb && j.rung != 0#3 then
        addRecord (mapJob s key fun j => { j with rung := j.rung - 1, climb := 0 }) key (streamRecord j 0x11#8 (j.rung - 1) sl s.time)
      else s

/-- The templates of an image copied to the object table of a launch by its submitter, whatever the table's length (R247, log 43). -/
def copyTemplates (s : State) (l : LaunchRec) : State :=
  match mget s.images (lrImage l) with
  | none => s
  | some im =>
    im.handles.foldl (fun s (h, ws) =>
      vpoke s (edgeWho (lrSlot l) (lrGen l)) (w64 (lrOtbase l 0 + 64 * h.toNat))
        (ws.flatMap fun w => leBytes w.toNat 8)) s

/-- A digest of 64 bytes as a register holds it: byte 0 lowest. -/
def digestWord (bs : List Byte) : BitVec 512 := BitVec.ofNat 512 (leNat bs)

/-- A measurement register extended with a component (R494). -/
def measure (s : State) (i : Nat) (component : List Byte) : State :=
  let old := leBytes (nth s.pkg.meas.toList i 0#512).toNat 64
  { s with pkg := { s.pkg with meas := s.pkg.meas.setIfInBounds i (digestWord (sha3_512 (old ++ sha3_512 component))) } }

/-- Firmware registers the image of a launch, the first time that one names it, and extends M2 with its bytes (R494, log 90). -/
def registerImage (s : State) (l : Launch) : State :=
  let va := lrImage l.rec_
  match mget s.images va with
  | none => s
  | some im =>
    if s.pkg.measured.contains va then s
    else measure { s with pkg := { s.pkg with measured := s.pkg.measured ++ [va] } } 2
      (Config.imageBytes (va :: im.entry.toNat :: im.text.map (·.toNat)))

/-- A graph submitted for a job (R343): its launches numbered, checked, and ordered after the previous graph. -/
def submit (s : State) (key : Nat) (ls : List LaunchRec) (rung : BitVec 3) (cscale : Nat) : State :=
  match mget s.jobs key with
  | none => s
  | some j =>
    let seq := j.nextSeq
    let prev := match j.graphs.find? (·.seq == seq - 1) with
      | some g => (upto 0 g.launches.length).map fun k => (seq - 1, k)
      | none => []
    let mk := fun (i : Nat) (l0 : LaunchRec) =>
      let l := lrSetPhase l0 (max (lrPhase l0) j.phase.toNat)
      let d := launchDetail s j i l
      let copies := if lrPaired l then 2 else 1
      ({ rec_ := l, order := s.order + i
         deps := ((upto 0 i).filter fun k => fbit (lrDeps l) k).map (fun k => (seq, k)) ++ (if lrIndep l then [] else prev)
         rung := rung, cscale := cscale, gangs := if d == 0 then List.replicate (copies * lrGangs l) .start else []
         units := [], copies := copies, started := none, status := none, detail := BitVec.ofNat 8 d, result := 0#8
         sig := 0#64, cancelled := none, endPhase := none } : Launch)
    let launches := ((upto 0 ls.length).zip ls).map fun (i, l) => mk i l
    let valid := launches.filter fun l => l.detail == 0#8
    let s := valid.foldl (fun s l => copyTemplates s l.rec_) (valid.foldl registerImage s)
    { mapJob s key fun j =>
        { j with
          nextSeq := seq + 1, graphs := j.graphs.filter (fun g => g.seq != seq) ++ [⟨seq, launches, false, none⟩]
          graphsOut := j.graphsOut + 1, launchesOut := j.launchesOut + w32 ls.length }
      with order := s.order + ls.length }

/-- The dispatcher instantiates the graph of a stream's phase from its current rung (R367). COUNT and CSCALE count as they stand (log 93). -/
def instantiate (s : State) (key : Nat) : State :=
  match mget s.jobs key with
  | none => s
  | some j =>
    match rungEntry s j j.rung.toNat (.ladder key) with
    | (s, none) => mapJob s key fun j => { j with due := if s.parks.any (·.who == .ladder key) then some s.time else none }
    | (s, some (va, count, cscale)) =>
      match vread s (jobWho j) 0 va (128 * count) with
      | (s, .stop a x) =>
        match hold s (jobWho j) a 0 (.ladder key) x with
        | (s, .parked _ _) => mapJob s key fun j => { j with due := some s.time }
        | (s, .aborted _) => mapJob s key fun j => { j with due := none }
      | (s, .ok bs) =>
        let recs := (chunks 128 count bs).map fun r =>
          lrSetPhb (lrSetPhase ⟨Vector.ofFn fun i => w64 (leNat ((r.drop (8 * i.val)).take 8))⟩ j.phase.toNat)
        submit (mapJob s key fun j => { j with due := none }) key recs j.rung cscale

/-! ### Cancel (R288, R359) -/

/-- Whether an engine-queue entry has begun: it has taken its input for good, or made an access. -/
def entryBegun (e : QEntry) : Bool :=
  e.halt != .none || (match e.stage with
    | .begun _ _ _ _ => true
    | .read _ _ => true
    | .sent _ _ _ => true
    | _ => false)

/-- A unit is stopped (R359): it issues no more, its results in flight and the entries that have not begun are discarded,
its parked accesses are aborted, and its open rounds time out (R428). -/
def stopUnit (s : State) : State :=
  if s.unit.run == .none || s.unit.run == .stopped || s.unit.run == .completed then s
  else
    let mine := fun (p : ParkEntry) => match p.who with
      | .job _ => false
      | .ladder _ => false
      | .encoder _ => false
      | .edge _ _ => false
      | .retry _ => false
      | .chunk _ _ => false
      | .agent _ => false
      | _ => true
    let s := (s.parks.filter mine).foldl (fun s p => unpark { s with parks := s.parks.erase p } p (.aborted p.code p.va)) s
    let s := settleRounds ((List.finRange 4).foldl timeOutRound s)
    let s := s.mapUnit fun u =>
      let kept := fun (q : List QEntry) => q.filter entryBegun
      let gone := fun (q : List QEntry) => (q.filter fun e => !entryBegun e).length
      { u with
        run := .stopped, landing := [], ctx := .start
        nc := u.nc - (gone u.cq0 + gone u.cq1 + gone u.rq + gone u.kq), nt := u.nt - (gone u.fqw + gone u.fqn)
        cq0 := kept u.cq0, cq1 := kept u.cq1, fqw := kept u.fqw, fqn := kept u.fqn, rq := kept u.rq, kq := kept u.kq }
    barrierAdvance (pruneFences s)

def cancelGang (s : State) (key : Nat) (seq : W16) (i g : Nat) : State :=
  match launchAt s key seq i with
  | none => s
  | some l =>
    match l.gangs[g]? with
    | none => s
    | some x =>
      let own := ownGang s key seq i g
      let gone := fun (s : State) => mapLaunch s key seq i fun l =>
        { l with
          gangs := modAt l.gangs g fun x => { x with st := .done, cancelled := true }
          units := (gangUnits l g).foldl (fun m k => mset m k { unitInfo l k with done := true }) l.units }
      match x.st with
      | .done => s
      | .waiting => gone s
      | .saved => gone (if own then s.mapUnit fun u => { u with run := .completed } else s)
      | _ =>
        let s := mapGang s key seq i g fun x => { x with cancelled := true }
        if own then stopUnit s else s

/-- A launch that has not completed is cancelled with a status; a second cancel is the first (R359). -/
def cancelLaunch (s : State) (key : Nat) (seq : W16) (i : Nat) (status : Byte) : State :=
  match launchAt s key seq i with
  | none => s
  | some l =>
    if l.status.isSome || l.cancelled.isSome then s
    else
      (upto 0 l.gangs.length).foldl (fun s g => cancelGang s key seq i g)
        (mapLaunch s key seq i fun l => { l with cancelled := some status })

def cancelGraph (s : State) (key : Nat) (seq : W16) (status : Byte) : State :=
  match (mget s.jobs key).bind fun j => j.graphs.find? (·.seq == seq) with
  | none => s
  | some g =>
    if g.done then s
    else
      (upto 0 g.launches.length).foldl (fun s i => cancelLaunch s key seq i status)
        (mapJob s key fun j =>
          { j with graphs := j.graphs.map fun g => if g.seq == seq then { g with cancelled := g.cancelled <|> some status } else g })

/-- Whether an access is a contribution that has no answer yet. -/
def openRed (a : Access) : Bool :=
  match a.kind with
  | .red _ _ _ _ => !a.resolved
  | _ => false

/-- The reduction groups of an address space are discarded without a write, their contributions refused, and with them those that are
still on their way, wait, or are parked (R288). -/
def dropReds (s : State) (slot : BitVec 12) (gen : BitVec 4) : State :=
  let own := s.unit.cr.asidSlot == slot && s.unit.cr.asidGen == gen
  let ids := if own then (s.unit.accs.filter openRed).map (·.id) else []
  ids.foldl (fun s id => setStage s id 0 .refused)
    { s with
      reds := s.reds.filter fun g => !(g.slot == slot && g.gen == gen), redWait := s.redWait.filter fun x => match x.2 with
        | .unit acc => !ids.contains acc
        | .red r _ _ _ _ => !(r.slot == slot && r.gen == gen)
        | _ => false
      parks := s.parks.filter fun p => match p.who with
        | .access acc _ => !ids.contains acc
        | .agent (.red r _ _ _ _) => !(r.slot == slot && r.gen == gen)
        | _ => true }

/-- The encoder's bindings of a job end as by UNBIND, and a ONE of it that waits ends (R471). -/
def dropSessions (s : State) (key : Nat) : State :=
  let frs := ((s.enc.bound ++ s.enc.ones).filter (·.job == key)).map (·.fr)
  let one := s.enc.ones.any fun x => x.job == key && x.own
  let s := { s with enc := { s.enc with
    bound := s.enc.bound.filter (·.job != key), ones := s.enc.ones.filter (·.job != key)
    turn := s.enc.turn.filter fun f => !frs.contains f } }
  if one && !s.unit.kq.isEmpty then finishEntry s 5 else s

/-- The address spaces of a job's launches. -/
def jobSpaces (j : Job) : List (BitVec 12 × BitVec 4) := (jobLaunches j).map fun l => (lrSlot l.rec_, lrGen l.rec_)

/-- A job is cancelled with a status (R359): every part of it, its reductions, bindings and replies; it is closed. -/
def cancelJob (s : State) (key : Nat) (status : Byte) : State :=
  match mget s.jobs key with
  | none => s
  | some j =>
    if j.done then s
    else
      let s := mapJob s key fun j => { j with open_ := false, due := none, status := minNz j.status status }
      let s := j.graphs.foldl (fun s g => cancelGraph s key g.seq status) s
      let s := (jobSpaces j).foldl (fun s x => dropReds s x.1 x.2) s
      endJobReplies (dropSessions s key) j.r.part j.r.job 0x17 true

/-! ### Phases (R349 to R352, R364, R369) -/

/-- Whether every member of the job's phase has arrived, completed or been cancelled. -/
def membersIn (j : Job) : Bool :=
  (jobLaunches j).all fun l =>
    !l.open_ || !lrPhb l.rec_ || j.phase.toNat < lrPhase l.rec_ || l.cancelled.isSome
      || ((upto 0 l.gangs.length).zip l.gangs).all fun (g, x) =>
        x.cancelled || (gangUnits l g).all fun k => let i := unitInfo l k; i.done || i.arrived == some j.phase

/-- Whether the phase has had a member of its own: a unit of a launch of that PHASE, or one that has arrived in it by PHASE
(R349, R350). Units that ended the phase before by PHASE and then only exit do not end this one too (R415, R481; log 23). -/
def phaseHasMember (j : Job) : Bool :=
  (jobLaunches j).any fun l =>
    lrPhb l.rec_ && l.detail == 0#8
      && ((lrPhase l.rec_ == j.phase.toNat && (l.status.isNone || l.endPhase == some j.phase))
        || l.units.any fun u => u.2.arrived == some j.phase)

/-- STATUS of the phase that completes: the lowest nonzero one among the launches of the phase that have completed (R358). -/
def phaseStatus (j : Job) : Byte :=
  (jobLaunches j).foldl (fun b l =>
    if lrPhb l.rec_ && lrPhase l.rec_ ≤ j.phase.toNat && l.endPhase == some j.phase then minNz b (l.status.getD 0#8) else b) 0#8

/-- The steps of R369 as phase P of a stream completes. -/
def streamBoundary (s : State) (key : Nat) : State :=
  match mget s.jobs key with
  | none => s
  | some j =>
    if !j.r.stream || j.r.period == 0#64 then s
    else
      let spare : Int := (j.deadline.toNat : Int) - s.time
      let s := mapJob s key fun j => { j with deadline := j.deadline + j.r.period }
      let s := if spare < 0 then addRecord s key { streamRecord j 0x12#8 j.rung spare s.time with phase := j.phase - 1 } else s
      let s := mapJob s key fun j => { j with climb := if (j.r.raise.toNat : Int) < spare then j.climb + 1 else 0 }
      let s := if !j.open_ then s
        else if spare ≤ 0 then instantiate s key
        else mapJob s key fun k => { k with due := some j.deadline.toNat }
      boundary s key

/-- Whether the job's phase completes now (R350). -/
def phaseEnds (s : State) (key : Nat) : Bool := (mget s.jobs key).any fun j => !j.done && phaseHasMember j && membersIn j

/-- The phase completes where it can: its number rises, its record is written, arrivals are released (R350, R352). -/
def phaseCheck (s : State) (key : Nat) : State :=
  match mget s.jobs key with
  | none => s
  | some j =>
    if !phaseEnds s key then s
    else
      let p := j.phase
      let s := { mapJob s key fun j =>
          { j with
            phase := p + 1
            graphs := j.graphs.map fun g =>
              { g with
                launches := g.launches.map fun l =>
                  { l with units := l.units.map fun u => if u.2.arrived == some p then (u.1, { u.2 with arrived := none }) else u } } }
        with freeCtr := s.freeCtr + 1 }
      streamBoundary
        (addRecord s key ⟨j.r.job, Config.recordGraph s.freeCtr, 0xFF#8, 3#8, phaseStatus j, 0#8, 0#8, p, 0#64, s.time⟩) key

/-! ### Completion (R356, R357, R360) -/

/-- A launch completes with a status: its record is written (R357, R358). -/
def finishLaunch (s : State) (key : Nat) (seq : W16) (i : Nat) (status detail result : Byte) (sig : W64) : State :=
  match mget s.jobs key with
  | none => s
  | some j =>
    addRecord
      (mapLaunch (mapJob s key fun j => { j with launchesOut := j.launchesOut - 1 }) key seq i fun l =>
        { l with status := some status, detail := detail, result := result, sig := sig, endPhase := some j.phase })
      key ⟨j.r.job, seq, BitVec.ofNat 8 i, 1#8, status, detail, result, j.phase, sig, s.time⟩

/-- The lowest nonzero status of a launch's units, with its detail; a gang cancelled alone does not fail its launch (R347, log 41). -/
def unitsStatus (l : Launch) : Byte × Byte :=
  l.units.foldl (fun (st, d) u =>
    if u.2.status != 0#8 && (st == 0#8 || u.2.status.toNat < st.toNat) then (u.2.status, u.2.detail) else (st, d)) (0#8, 0#8)

/-- The signature of a copy (R355). -/
def copySignature (l : Launch) (copy : Nat) : W64 :=
  crc64 ((upto 0 (lrUnits l.rec_)).flatMap fun u => leBytes (unitInfo l (2 ^ 32 * (copy - 1) + u)).sig.toNat 8)

/-- The copies of a paired launch that have completed are compared (R356). -/
def settlePaired (s : State) (key : Nat) (seq : W16) (i : Nat) (l : Launch) : State :=
  let c := copySignature l
  if l.copies == 2 then
    if c 1 == c 2 then finishLaunch s key seq i 0#8 0#8 1#8 (c 1)
    else mapLaunch s key seq i fun l => { l with copies := 3, gangs := l.gangs ++ List.replicate (lrGangs l.rec_) .start }
  else if c 3 == c 1 then finishLaunch s key seq i 0#8 0#8 1#8 (c 1)
  else if c 3 == c 2 then finishLaunch s key seq i 0#8 0#8 2#8 (c 2)
  else cancelJob (finishLaunch s key seq i 4#8 0#8 0#8 0#64) key 1#8

/-- A launch that can complete does; one whose producer has failed is cancelled (R360). -/
def settleLaunch (s : State) (key : Nat) (seq : W16) (i : Nat) : State :=
  match mget s.jobs key, launchAt s key seq i with
  | some j, some l =>
    if l.status.isSome then s
    else if l.detail != 0#8 then finishLaunch s key seq i 2#8 l.detail 0#8 0#64
    else
      let failed := (producersOf j l).any fun p => p.status.any (· != 0#8)
      let s := if failed then cancelLaunch s key seq i 3#8 else s
      match launchAt s key seq i with
      | none => s
      | some l =>
        if l.gangs.any (fun g => g.st != .done) then s
        else
          match l.cancelled with
          | some c => finishLaunch s key seq i c 0#8 0#8 0#64
          | none =>
            if lrPaired l.rec_ then settlePaired s key seq i l
            else finishLaunch s key seq i (unitsStatus l).1 (unitsStatus l).2 0#8 0#64
  | _, _ => s

/-- A graph whose launches have all completed completes; a failed one ends the job's replies (R357, R452). -/
def settleGraph (s : State) (key : Nat) (seq : W16) : State :=
  match mget s.jobs key with
  | none => s
  | some j =>
    match j.graphs.find? (·.seq == seq) with
    | none => s
    | some g =>
      if g.done || g.launches.any (fun l => l.status.isNone) then s
      else
        let st := g.launches.foldl (fun b l => minNz b (l.status.getD 0#8)) (g.cancelled.getD 0#8)
        let s := mapJob s key fun j =>
          { j with
            status := minNz j.status st, graphs := j.graphs.map fun g => if g.seq == seq then { g with done := true } else g
            graphsOut := j.graphsOut - 1 }
        let s := addRecord s key ⟨j.r.job, seq, 0xFF#8, 2#8, st, 0#8, 0#8, j.phase, 0#64, s.time⟩
        if st == 0#8 then s else endJobReplies s j.r.part j.r.job 0x16 true

/-- A closed job without an outstanding graph completes (R357); its request block is free and its ended replies are gone. -/
def settleEnd (s : State) (key : Nat) : State :=
  match mget s.jobs key with
  | none => s
  | some j =>
    if j.done || j.open_ || j.graphs.any (fun g => !g.done) then s
    else
      let st := minNz j.status (if j.failed then Config.failedStatus else 0#8)
      let s := { mapJob s key fun j => { j with done := true } with
        freeCtr := s.freeCtr + 1
        text := { s.text with
          blocks := s.text.blocks.filter fun b => !(b.part == j.r.part && b.job == j.r.job)
          ctxs := s.text.ctxs.filter fun c => !(c.part == j.r.part && c.job == j.r.job && c.ended) } }
      addRecord s key ⟨j.r.job, Config.recordGraph s.freeCtr, 0xFF#8, 4#8, st, 0#8, 0#8, j.phase, 0#64, s.time⟩

/-- The graphs of a job in order. -/
def graphsOf (s : State) (key : Nat) : List Graph := (mget s.jobs key).elim [] (·.graphs)

/-- One pass over the launches of a job. -/
def launchPass (key : Nat) (s : State) : State :=
  (graphsOf s key).foldl (fun s g => (upto 0 g.launches.length).foldl (fun s i => settleLaunch s key g.seq i) s) s

/-- The boundary of the graphs that have completed at this moment: with the phase's completion it is one (R368, R369). -/
def phaseOrBoundary (s : State) (key : Nat) (some_ : Bool) : State :=
  if phaseEnds s key then phaseCheck s key else if some_ then boundary s key else s

/-- One round over a job: its launches complete, failures passing on to dependents, then its graphs, the phase, the job. -/
def settlePass (key : Nat) (s : State) : State :=
  let s1 := iter (launchPass key) ((graphsOf s key).flatMap (·.launches)).length s
  let s2 := (graphsOf s1 key).foldl (fun s g => settleGraph s key g.seq) s1
  let done := fun (s : State) => ((graphsOf s key).filter (·.done)).length
  settleEnd (phaseOrBoundary s2 key (done s1 < done s2)) key

/-- Every completion that can come about in a job does; then the gangs that have become ready are marked. A graph that the end of a
phase instantiates may complete at once, so a job takes a second and a third round. -/
def settle (s : State) (key : Nat) : State := markReady (iter (settlePass key) 3 s)

/-! ### Scheduling points (R371 to R373) -/

/-- Where a gang stands. -/
def gangAt (g : Gang) : Option Placement :=
  match g.st with
  | .running at_ => some at_
  | .saving at_ => some at_
  | _ => none

/-- A gang has been saved: its cores are free and it is ready again (R373). -/
def saveGang (s : State) (key : Nat) (seq : W16) (i g : Nat) : State :=
  match launchAt s key seq i with
  | none => s
  | some l =>
    match l.gangs[g]?.bind gangAt with
    | none => s
    | some at_ =>
      let held := ((lrCores l.rec_).zip (gangUnits l g)).filterMap fun (c, k) =>
        if (unitInfo l k).done then none else placedCore l.rec_ at_ c
      markReady
        (mapGang { s with cores := s.cores.filter fun c => !held.contains c } key seq i g fun x => { x with st := .saved, ready := none })

/-- A pre-emption request reaches every unit of a gang (R373). A gang without the modelled unit is saved at once (log 1). -/
def preempt (s : State) (x : GangRef) : State :=
  match x.g.st with
  | .running at_ =>
    let s := mapGang s x.key x.seq x.launch x.gang fun g => { g with st := .saving at_ }
    if ownGang s x.key x.seq x.launch x.gang then
      if s.unit.run == .exited || s.unit.run == .stopped then s
      else s.mapUnit fun u => { u with request := some u.cyc }
    else saveGang s x.key x.seq x.launch x.gang
  | _ => s

/-- The first gang of a list in the order of R371. -/
def firstOf (s : State) (l : List GangRef) : Option GangRef :=
  l.foldl (fun b x => match b with
    | none => some x
    | some y => if before s x y then some x else b) none

/-- The ready gangs of a partition that cannot be placed. -/
def stuckGangs (s : State) (part : BitVec 4) : List GangRef :=
  (partGangs s part).filter fun x => isReady s x && !placeable s part x.l x.gang s.cores

/-- The first ready gang of a partition that cannot be placed, once every gang before it that can be placed has been (R371, R372). -/
def firstStuck (s : State) (part : BitVec 4) : Option GangRef :=
  (firstOf s (stuckGangs s part)).filter fun x =>
    !((partGangs s part).filter (isReady s)).any fun y => before s y x && placeable s part y.l y.gang s.cores

/-- The gang that a scheduling point pre-empts: for the first that cannot be placed, else, for another that cannot be, one whose units wait for
it (R372). -/
def chosenVictim (s : State) (part : BitVec 4) : Option GangRef :=
  match firstStuck s part with
  | none => none
  | some x => (victimFor s part x).or ((stuckGangs s part).findSome? (waiterFor s part))

/-- A partition's part of a scheduling point: a gang is pre-empted, once for all; one whose units drain gets no new request (R372). -/
def schedulePart (s : State) (part : BitVec 4) : State :=
  match chosenVictim s part with
  | some y => preempt s y
  | none => s

/-- A scheduling point of every partition (R371). -/
def schedule (s : State) : State := s.pkg.parts.foldl (fun s p => schedulePart s p.2.part) (markReady s)

/-- What a scheduling point can be seen by: the states of gangs, and the graphs with their completions. -/
def workView (s : State) : List (Nat × List (W16 × Bool × List (List Gang))) :=
  s.jobs.map fun j => (j.1, j.2.graphs.map fun g => (g.seq, g.done, g.launches.map (·.gangs)))

/-- What a step of the dispatcher makes of a state, with the scheduling point that it may be: a gang that has become ready, completed
or been saved, or a graph boundary (R371). -/
def point (s s' : State) : State := if workView s == workView s' then s' else schedule s'

end Sys2Proof.Machine
end

