-- ==== Sys2Proof/Machine/Work.lean ====
section
/-! DEFINITION. The steps of the dispatcher: submission, start, completion, cancel, ticks (R47, R80, R153, R337 to R373), and the
TRIGGER, WAITDEP and PHASE slots. -/

namespace Sys2Proof.Machine

/-! ### Jobs and graphs -/

/-- R361, R366: a job is created, unless its number is in use, its partition does not exist, or its rung does not. -/
def execJobCreate (r : JobRec) (s : State) : Host.Outcome State Fault Refusal :=
  .next
    (let key := jobKey r.part r.job
    let used := match mget s.jobs key with
      | some j => !j.done
      | none => false
    let j := Job.fresh s r
    if used || (mget s.pkg.parts r.part.toNat).isNone then s
    else
      match rungExists s j r.rung.toNat (.retry (.jobCreate r)) with
      | (s, false) => s
      | (s, true) =>
        let s := { s with jobs := mset s.jobs key j }
        if r.stream && r.period != 0#64 then point s (settle (boundary (instantiate s key) key) key) else s)

/-- R343: a graph of 1 to 64 launches is submitted for an open job; a boundary of it (R365). -/
def execGraphSubmit (part : BitVec 4) (job : W32) (launches : List LaunchRec) (s : State) : Host.Outcome State Fault Refusal :=
  .next
    (let key := jobKey part job
    match mget s.jobs key with
    | none => s
    | some j =>
      if !j.open_ || j.done || launches.isEmpty || 64 < launches.length then s
      else point s (settle (boundary (submit s key launches j.rung 256) key) key))

/-- R357: the job is closed. -/
def execJobClose (part : BitVec 4) (job : W32) (s : State) : Host.Outcome State Fault Refusal :=
  .next
    (let key := jobKey part job
    point s (settle (mapJob s key fun j => { j with open_ := false, due := none }) key))

/-- R364, R369: the graph of a stream's phase is instantiated once it is due; a boundary of its own. -/
def execStreamGraphInstantiate (part : BitVec 4) (job : W32) (s : State) : Host.Outcome State Fault Refusal :=
  .next
    (let key := jobKey part job
    let waits := s.parks.any fun p => p.who == .ladder key
    match mget s.jobs key with
    | none => s
    | some j =>
      match j.due with
      | none => s
      | some t => if s.time < t || waits || !j.open_ then s else point s (settle (boundary (instantiate s key) key) key))

/-- R359: a cancel named by system software. -/
def execCancel (level : CancelLevel) (s : State) : Host.Outcome State Fault Refusal :=
  .next
    (point s
      (match level with
      | .gang l g => settle (cancelGang s (idKey l) l.graph l.launch g) (idKey l)
      | .launch l => settle (cancelLaunch s (idKey l) l.graph l.launch 1#8) (idKey l)
      | .graph part job seq => settle (cancelGraph s (jobKey part job) seq 1#8) (jobKey part job)
      | .job part job => settle (cancelJob s (jobKey part job) 1#8) (jobKey part job)))

/-! ### Completion records (R358) -/

/-- The bytes of a record; phase: the number its offset 12 carries. -/
def recordBytes (r : CompRecord) (phase : W32) : List Byte :=
  leBytes r.job.toNat 4 ++ leBytes r.graph.toNat 2 ++ [r.launch, r.level, r.status, r.detail, r.result, 0#8] ++ leBytes phase.toNat 4
    ++ leBytes r.sig.toNat 8 ++ leBytes r.time 8

/-! ### Records of a partition (R323, R383, R489) -/

/-- A value of four bits over one of four bits. -/
def nibbles (hi lo : Nat) : Byte := BitVec.ofNat 8 (hi % 16 * 16 + lo % 16)

/-- The 32 bytes of a fault record (R323). -/
def faultBytes (r : FaultRecord) : List Byte :=
  leBytes (r.va.toNat % 2 ^ 57) 8 ++ leBytes r.entry.toNat 8 ++ leBytes (r.gen.toNat * 2 ^ 12 + r.slot.toNat) 2
    ++ [nibbles r.code.toNat r.level, nibbles (bit01 r.peer * 8 + bit01 r.full * 4) r.kind, nibbles 0 r.cls.toNat,
        r.slice.setWidth 8, r.park, 0#8]
    ++ leBytes (r.package.toNat * 2 ^ 11 + r.cluster.toNat * 2 ^ 6 + r.pcore.toNat * 4 + r.agent.toNat) 2 ++ leBytes 0 2
    ++ leBytes r.unit.toNat 4

/-- The 32 bytes of a unit-event record (R383). -/
def eventBytes (e : UnitEvent) : List Byte :=
  leBytes (e.part.toNat * 2 ^ 60 + e.job.toNat) 8 ++ leBytes e.unit.toNat 4 ++ [e.lcore.setWidth 8, BitVec.ofNat 8 e.reason, 0#8, 0#8]
    ++ leBytes e.info.toNat 8 ++ leBytes e.area.toNat 8

/-- The 32 bytes of a machine-check record (R489). -/
def mcBytes (r : McRecord) : List Byte :=
  leBytes r.addr.toNat 8 ++ leBytes r.source 1 ++ leBytes 0 1 ++ leBytes r.place.toNat 2 ++ leBytes 0 4 ++ leBytes r.jobid.toNat 8
    ++ leBytes r.time 8

/-- The next record of one of a partition's rings that memory does not hold yet: its number, its VA and its bytes. Records follow each other
round the ring (log 66). -/
def ringRecord (s : State) (d : PartDesc) (ring : Nat) : Option (Nat × W64 × List Byte) :=
  let (base, len, recs, gone) : W64 × Nat × List (List Byte) × Nat := match ring with
    | 0 => (d.evRing, d.evLen, (s.events.filter fun e => e.part == d.part).map eventBytes, 0)
    | 1 => (d.mcRing, d.mcLen, (s.pkg.mchecks.filter fun r => r.part == d.part).map mcBytes, 0)
    | _ => (d.faultRing, d.faultLen, (s.faults.filter fun r => r.1 == d.part).map fun r => faultBytes r.2,
        (mget s.ringOut d.part.toNat).getD 0)
  let k := max gone ((mget s.ringPos (16 * ring + d.part.toNat)).getD 0)
  recs[k - gone]?.map fun bs => (k, base + w64 (32 * (k % len)), bs)

/-- A record of a partition is written to its ring, under the first of the partition's slots; while that is not valid it waits (log 66). -/
def recordOut (s : State) (part : BitVec 4) : State :=
  match mget s.pkg.parts part.toNat with
  | none => s
  | some d =>
    let slot := BitVec.ofNat 12 d.asidBase
    match asidOf s slot, (upto 0 3).findSome? fun ring => (ringRecord s d ring).map fun r => (ring, r) with
    | some e, some (ring, k, va, bs) =>
      if e.v then { (vwrite s (edgeWho slot e.gen) false va bs).1 with ringPos := mset s.ringPos (16 * ring + part.toNat) (k + 1) } else s
    | _, _ => s

/-- R358: the oldest held record of a job is written once its slot's byte 7 reads 0. With none, a record of the partition is. -/
def execCompletionRecordWrite (part : BitVec 4) (job : W32) (s : State) : Host.Outcome State Fault Refusal :=
  .next
    (let key := jobKey part job
    match mget s.jobs key with
    | none => recordOut s part
    | some j =>
      match j.held, j.halt with
      | r :: rest, .none =>
        let w := jobWho j
        let at_ := j.r.compRing + w64 (32 * j.compTail.toNat)
        let stop := fun (s : State) kind va x =>
          match hold s w va kind (.job key) x with
          | (s, .parked h k) => mapJob s key fun j => { j with halt := .parked h k }
          | (s, .aborted c) => mapJob s key fun j => { j with halt := .aborted c va }
        match vread s w 0 (at_ + 7) 1 with
        | (s, .stop va x) => stop s 0 va x
        | (s, .ok bs) =>
          if bs != [0#8] then s
          else
            let phase := if r.level == 3#8 || r.level == 5#8 then r.phase else j.phase
            match vcheck s w 1 [(at_, 32)] with
            | (s, .stop va x) => stop s 1 va x
            | (s, .ok _) =>
              mapJob (vwrite s w false at_ (recordBytes r phase)).1 key fun j =>
                { j with held := rest, compTail := w32 ((j.compTail.toNat + 1) % j.r.compLen.toNat) }
      | _ :: rest, .aborted _ _ => mapJob s key fun j => { j with held := rest, halt := .none }
      | [], _ => recordOut s part
      | _, _ => s)

/-! ### Starting a gang (R47, R48, R153, R189, R197, R337) -/

/-- The scratchpad of a unit as it starts: zeroed banks, format registers and rings of its image (R153, R197). -/
def startPad (im : Image) (banks : BitVec 16) (core : Nat) : Pad :=
  { banks := banks
    fmt := Vector.ofFn fun b =>
      if banks.getLsbD b.val then ((im.banks.find? fun x => x.1.toNat == b.val).map (·.2)).getD 0#64 else 0#64
    bytes := []
    rings := Vector.ofFn fun q =>
      (im.rings.find? fun x => x.1.toNat == q.val).map fun (_, w0, w1, self) => Ring.fresh w0 (selfPerm w1 self core) }

/-- The registers of a unit as it starts on logical core c of gang g (R47, R53, R404). -/
def startCregs (s : State) (j : Job) (l : Launch) (g c : Nat) (at_ : BitVec 5 × BitVec 4) : Cregs :=
  let r := l.rec_
  let n := lrGangs r
  { Cregs.start with
    cluster := at_.1, pcore := at_.2, lcore := BitVec.ofNat 4 c
    unit := w32 (g % n * lrSize r + coreRank (lrNc r) c)
    part := j.r.part, job := j.r.job, rung := l.rung, livebanks := lrBanks r
    otbase := w64 (lrOtbase r (if lrPaired r then g / n + 1 else 0)), otlen := BitVec.ofNat 17 (lrOtlen r)
    asidSlot := lrSlot r, asidGen := lrGen r
    drawlo := j.drawBase.setWidth 64, drawhi := (j.drawBase >>> 64).setWidth 64, drawkey := j.r.drawKey
    ctxbase := (Config.areaVa s.freeCtr).setWidth 57 |>.setWidth 64 }

/-- The unit on logical core c of gang g, as it starts (R47, R48, R121, R189). -/
def startUnit (s : State) (j : Job) (seq : W16) (i : Nat) (l : Launch) (g c : Nat) (at_ : BitVec 5 × BitVec 4) (im : Image) : Unit :=
  let r := l.rec_
  { Unit.start with
    run := .running
    pc := im.entry.setWidth 19
    istore := (upto 0 im.text.length).zip im.text
    g := Vector.ofFn fun k => if 1 ≤ k.val && k.val ≤ 8 then lrWord r (7 + k.val) else 0#64
    cr := startCregs s j l g c at_
    pad := startPad im (lrBanks r) c
    launch :=
      { graph := seq, launch := i, gang := g, phb := lrPhb r, paired := lrPaired r, units := w32 (lrUnits r), nr := lrNr r, nc := lrNc r
        fuse := lrFuse r, copy := if lrPaired r then g / lrGangs r + 1 else 0, arrived := none
        drain := im.drain.map fun d => (BitVec.ofNat 19 d.1, BitVec.ofNat 19 d.2.1, BitVec.ofNat 19 d.2.2), slots := im.slots, routers := [] } }

/-- The logical core of a gang that a placement puts on the modelled core. -/
def modelledCore (here : BitVec 5 × BitVec 4) (l : LaunchRec) (at_ : Placement) : Option Nat :=
  (lrCores l).find? fun c => placedCore l at_ c == some here

/-- Whether the modelled unit still has a core (log 1). -/
def coreHeld (s : State) : Bool := s.unit.run != .none && s.unit.run != .completed && s.unit.run != .saved

/-- Whether a chunk that waits goes to a ring of the modelled gang. -/
def chunkHere (s : State) (c : Chunk) : Bool := c.land != 0#16 && ((landingOf s c).bind (landingCore s)).isSome

/-- A saved unit leaves the modelled core to another, with what its context holds and what waits for it (R204, R224, R373). -/
def putAside (s : State) : State :=
  if s.unit.run == .saved then
    { s with
      aside := s.aside ++ [⟨s.unit, s.peers, s.area, s.inbound, s.pkg.heldChunks.filter (chunkHere s)⟩]
      inbound := []
      pkg := { s.pkg with heldChunks := s.pkg.heldChunks.filter fun c => !chunkHere s c } }
  else s

/-- A unit set aside is the modelled one again, and what waited for it is tried again. -/
def takeBack (s : State) (a : Aside) : State :=
  { s with
    unit := a.unit, peers := a.peers, area := a.area, inbound := s.inbound ++ a.inbound
    pkg := { s.pkg with heldChunks := s.pkg.heldChunks ++ a.chunks } }

/-- The unit on the modelled core, and the scratchpads of the others of its gang, as the gang starts. -/
def loadGang (s : State) (j : Job) (seq : W16) (i : Nat) (l : Launch) (g : Nat) (at_ : Placement) : State :=
  match modelledCore s.here l.rec_ at_, mget s.images (lrImage l.rec_) with
  | some c, some im =>
    if coreHeld s then s
    else
      let u := startUnit s j seq i l g c s.here im
      { putAside s with
        unit := { u with launch := { u.launch with routers := physSlots l.rec_ at_ im.slots } }
        peers := ((lrCores l.rec_).filter (· != c)).map fun k => (k, startPad im (lrBanks l.rec_) k)
        area := none }
  | _, _ => s

/-- The gang of a reference. -/
def gangRef (s : State) (l : LaunchId) (g : Nat) : Option GangRef :=
  (partGangs s l.part).find? fun x => x.key == idKey l && x.seq == l.graph && x.launch == l.launch && x.gang == g

/-- A gang has been placed at a scheduling point, which goes on to the pre-emption for the first that cannot be (R371, R372). -/
def afterPlacing (s : State) (x : GangRef) : State := schedulePart (markReady s) x.part

/-- R337, R341, R371: a ready gang is placed, and all its units start. -/
def execGangStart (l : LaunchId) (gang : Nat) (at_ : Placement) (s : State) : Host.Outcome State Fault Refusal :=
  .next
    (let s := markReady s
    match gangRef s l gang, mget s.jobs (idKey l) with
    | some x, some j =>
      if x.g.st != .waiting || !mayPlace s l.part x || !admits s l.part x.l gang s.cores at_ then s
      else
        let s := loadGang s j l.graph l.launch x.l gang at_
        let s := mapLaunch s (idKey l) l.graph l.launch fun l =>
          { l with
            started := some (l.started.getD s.time)
            gangs := modAt l.gangs gang fun g => { g with st := .running at_, cluster := some at_.cluster, ready := none, started := s.time } }
        afterPlacing { s with cores := s.cores ++ (placedCores x.l.rec_ at_).filterMap id, freeCtr := s.freeCtr + 1 } x
    | _, _ => s)

/-! ### Completing a unit (R80, R348, R357) -/

/-- Unit k of gang g has completed: it is done and its core free; the gang completes with its last unit. -/
def completeUnit (s : State) (key : Nat) (seq : W16) (i g k : Nat) (status detail : Byte) (sig : W64) : State :=
  match launchAt s key seq i with
  | none => s
  | some l =>
    match l.gangs[g]?.bind gangAt with
    | none => s
    | some at_ =>
      let uk := unitKeyOf l g k
      let core := placedCore l.rec_ at_ (nth (lrCores l.rec_) k 0)
      let units := mset l.units uk
        { unitInfo l uk with
          done := true, waits := false, arrived := none, status := status, detail := detail, sig := sig }
      let all := (gangUnits l g).all fun k => (unitInfo { l with units := units } k).done
      mapLaunch { s with cores := s.cores.filter fun c => some c != core } key seq i fun l =>
        { l with units := units, gangs := modAt l.gangs g fun x => if all then { x with st := .done } else x }

/-- Whether the modelled unit is unit u of a launch. -/
def ownUnit (s : State) (l : LaunchId) (u : W32) : Bool :=
  ownGang s (idKey l) l.graph l.launch s.unit.launch.gang && s.unit.cr.unit == u

/-- The signature of the unit: CRC-64 over its events (R355). -/
def unitSignature (u : Unit) : W64 := crc64 (u.sig.flatMap fun e => leBytes e.addr.toNat 8 ++ leBytes e.data.toNat 8)

/-- The modelled unit, exited or stopped, completes once everything it issued has performed (R80). -/
def completeOwn (s : State) (l : LaunchId) : State :=
  let u := s.unit
  if !(u.run == .exited || u.run == .stopped) || !unitQuiet u || !u.accs.isEmpty || !u.triggers.isEmpty then s
  else
    let err := if u.run == .exited then oldestDeferred u fun _ => true else none
    let s := match err with
      | some d => unitEvent s 4 (faultInfo u.pc 0#12 0 d.cause.toNat)
      | none => s
    let s := completeUnit s (idKey l) l.graph l.launch u.launch.gang (coreRank u.launch.nc u.cr.lcore.toNat)
      (if err.isSome then 6#8 else 0#8) (err.elim 0#8 (·.cause)) (unitSignature u)
    let s := s.mapUnit fun u => { u with run := .completed, deferred := [], l1 := if u.launch.fuse then [] else u.l1 }
    match (launchOf s l).bind fun x => x.gangs[u.launch.gang]? with
    | some x => (match x.st with
      | .saving _ => if x.cancelled then s else saveGang s (idKey l) l.graph l.launch u.launch.gang
      | _ => s)
    | none => s

/-- The copy whose unit u completes: the first whose gang runs, whose unit has not completed and is not the modelled one. -/
def copyRunning (s : State) (id : LaunchId) (l : Launch) (u : Nat) : Option (Nat × Nat) :=
  ((upto 1 l.copies).map fun c => unitPlace l c u).find? fun (g, k) =>
    (l.gangs[g]?.bind gangAt).isSome && !(unitInfo l (unitKeyOf l g k)).done
      && !(ownUnit s id (w32 u) && s.unit.launch.gang == g)

/-- R80: an exited unit completes. Of the modelled unit the step finds the status; of another unit it is given: 0x00 or 0x06. -/
def execUnitComplete (l : LaunchId) (unit : W32) (status detail : Byte) (s : State) : Host.Outcome State Fault Refusal :=
  .next
    (match launchOf s l with
    | none => s
    | some x =>
      if ownUnit s l unit && (s.unit.run == .exited || s.unit.run == .stopped) then point s (settle (barrierAdvance (completeOwn s l)) (idKey l))
      else
        match copyRunning s l x unit.toNat with
        | none => s
        | some (g, k) =>
          let st := if status == 6#8 then 6#8 else 0#8
          let s' := completeUnit s (idKey l) l.graph l.launch g k st (if st == 0#8 then 0#8 else detail) (Config.peerSig s.freeCtr)
          point s (settle (barrierAdvance { s' with freeCtr := s.freeCtr + 1 }) (idKey l)))

/-! ### TRIGGER, WAITDEP, PHASE (R345 to R352) -/

/-- The unit of the modelled core among those of its launch. -/
def ownUnitKey (s : State) (l : Launch) : Nat := unitKeyOf l s.unit.launch.gang (coreRank s.unit.launch.nc s.unit.cr.lcore.toNat)

/-- What the dispatcher knows of the modelled unit, changed. -/
def mapOwnInfo (s : State) (f : UnitInfo → UnitInfo) : State :=
  let u := s.unit
  mapLaunch s (jobKey u.cr.part u.cr.job) u.launch.graph u.launch.launch fun l =>
    let k := ownUnitKey s l
    { l with units := mset l.units k (f (unitInfo l k)) }

/-- TRIGGER (R346): a release of every access issued before it; the mark follows by TRIGGER_MARK. -/
def slotTrigger (g : BitVec 4) (s : State) : SlotAnswer :=
  guarded g s fun s => .go (s.mapUnit fun u => { u with triggers := u.triggers ++ [u.nextAcc] })

def execTrigger (g : BitVec 4) (s : State) : Host.Outcome State Fault Refusal := issueOne false false 1 false (slotTrigger g) s

/-- R346: a unit is marked triggered once a TRIGGER's release has performed; a paired launch marks nothing (R356). -/
def execTriggerMark (l : LaunchId) (unit : W32) (s : State) : Host.Outcome State Fault Refusal :=
  .next
    (match launchOf s l with
    | none => s
    | some x =>
      if ownUnit s l unit then
        match s.unit.triggers.find? fun t => s.unit.accs.all fun a => t ≤ a.id || a.performed with
        | none => s
        | some t =>
          let s := s.mapUnit fun u => { u with triggers := u.triggers.erase t }
          if lrPaired x.rec_ then s else mapOwnInfo s fun i => { i with triggered := true }
      else
        let (g, k) := unitPlace x 0 unit.toNat
        if lrPaired x.rec_ || (x.gangs[g]?.bind gangAt).isNone then s
        else mapLaunch s (idKey l) l.graph l.launch fun x =>
          let uk := unitKeyOf x g k
          { x with units := mset x.units uk { unitInfo x uk with triggered := true } })

/-- Whether a producer lets a WAITDEP go (R347). -/
def producerMet (p : Launch) : Bool :=
  p.status.isSome
    || (!lrPaired p.rec_ && p.detail == 0#8
      && ((upto 0 p.gangs.length).zip p.gangs).all fun (g, x) =>
        (x.cancelled && p.cancelled.isNone) || (gangUnits p g).all fun k => let i := unitInfo p k; i.triggered || i.done)

/-- WAITDEP (R347). -/
def slotWaitdep (g : BitVec 4) (s : State) : SlotAnswer :=
  guarded g s fun s =>
    let met := match unitJob s, unitLaunch s with
      | some j, some l => (producersOf j l).all producerMet
      | _, _ => true
    if s.unit.wdheld || met then
      .go (acquire ((mapOwnInfo s fun i => { i with waits := false }).mapUnit fun u => { u with wdheld := true }) 2)
    else .hold fun s => mapOwnInfo s fun i => { i with waits := true }

def execWaitdep (g : BitVec 4) (s : State) : Host.Outcome State Fault Refusal := issueOne false false 1 true (slotWaitdep g) s

/-- The other units of the unit's job that run as members of its phase and have not arrived: graph, launch, unit (R349). -/
def othersOut (s : State) (j : Job) : List (W16 × Nat × Nat) :=
  j.graphs.flatMap fun gr => ((upto 0 gr.launches.length).zip gr.launches).flatMap fun (i, l) =>
    if !l.open_ || !lrPhb l.rec_ || j.phase.toNat < lrPhase l.rec_ then []
    else ((upto 0 l.gangs.length).zip l.gangs).flatMap fun (g, x) =>
      if (gangAt x).isNone then []
      else ((gangUnits l g).filter fun k =>
        let o := unitInfo l k
        !o.done && o.arrived != some j.phase
          && !(jobKey j.r.part j.r.job == jobKey s.unit.cr.part s.unit.cr.job && gr.seq == s.unit.launch.graph && i == s.unit.launch.launch && k == ownUnitKey s l)).map fun k => (gr.seq, i, k)

/-- Unit k of launch i of a graph arrives at its job's phase. -/
def arriveAt (s : State) (key : Nat) (j : Job) (seq : W16) (i k : Nat) : State :=
  mapLaunch s key seq i fun l => { l with units := mset l.units k { unitInfo l k with arrived := some j.phase } }

/-- Those of them arrive of which a free value says so (R350, log 1). -/
def othersArrive (s : State) : State :=
  match unitJob s with
  | none => s
  | some j =>
    (othersOut s j).foldl (fun s x =>
      let s' := { s with freeCtr := s.freeCtr + 1 }
      if Config.peerArrives s.freeCtr then arriveAt s' (jobKey s.unit.cr.part s.unit.cr.job) j x.1 x.2.1 x.2.2 else s') s

/-- The phase of the unit's job completes where it can, other units arriving (R350). -/
def phaseWait (s : State) : State :=
  let s := othersArrive s
  point s (settle s (jobKey s.unit.cr.part s.unit.cr.job))

/-- The modelled unit arrives at its job's phase, and the phase completes where it can (R350). -/
def arrivePhase (s : State) : State :=
  match unitJob s with
  | none => s
  | some j =>
    phaseWait (mapOwnInfo (s.mapUnit fun u => { u with launch := { u.launch with arrived := some j.phase } }) fun i =>
      { i with arrived := some j.phase })

/-- PHASE (R350, R351): the arrival waits for the accesses its release covers; the bundle issues once the phase in which the
unit has arrived has completed. -/
def slotPhase (g : BitVec 4) (s : State) : SlotAnswer :=
  guarded g s fun s =>
    let u := s.unit
    if !u.launch.phb then .trap 0x32 0#12
    else
      match u.launch.arrived, unitJob s with
      | some p, some j =>
        if p == j.phase then (if (othersOut s j).isEmpty then .block else .hold phaseWait)
        else .go (acquire (s.mapUnit fun u => { u with launch := { u.launch with arrived := none } }) 2)
      | none, some _ => if u.accs.all Access.performed then .hold arrivePhase else .block
      | _, none => .block

def execPhase (g : BitVec 4) (s : State) : Host.Outcome State Fault Refusal := issueOne false false 1 true (slotPhase g) s

/-- A unit on another core arrives at its job's phase, as a member that runs and has not arrived; the phase completes where it can (R349,
R350). -/
def unitArrives (s : State) (l : LaunchId) (unit : W32) : State :=
  match mget s.jobs (idKey l) with
  | none => s
  | some j =>
    if (othersOut s j).contains (l.graph, l.launch, unit.toNat) then
      point s (settle (arriveAt s (idKey l) j l.graph l.launch unit.toNat) (idKey l))
    else s

/-- R302: a response packet arrives at the cluster stop; packets of one slice arrive in the order in which they were sent (R294), so
the event takes the oldest. Or a core of the gang receives what another core's engine sends, a ladle read's tile or a row packet; a unit on
another core has done something in its own scratchpad, or arrives at its phase; or its media command comes to its turn. -/
def execClusterStopDelivery (what : Delivery) (s : State) : Host.Outcome State Fault Refusal :=
  .next
    (match what with
    | .far x => farPut s x
    | .step core x => peerStep s core x
    | .arrive l unit => unitArrives s l unit
    | .tile part cluster b c x y => farTile s what part cluster b c x y
    | .encfrm part job q b => farEncfrm s what part job q b
    | .packet packet =>
      match mget s.packets packet with
      | none => s
      | some k =>
        if s.packets.any fun e => e.1 < packet && e.2.slice == k.slice then s
        else
          let s := { s with packets := mdel s.packets packet }
          k.members.foldl (fun s m => packetRead s k m) (k.puts.foldl (fun s p => ladleWrite s k.data p) s))

/-! ### The tick (R371, R372) -/

/-- R371, R372: ready gangs are ordered anew, and a gang is pre-empted for the first that cannot be placed. -/
def execSchedulingTick (s : State) : Host.Outcome State Fault Refusal := .next (schedule s)

end Sys2Proof.Machine
end

