-- ==== Sys2Proof/Machine/Preempt.lean ====
section
/-! DEFINITION. Diverts, saves, freezes and resumes (R154, R195, R224, R275, R373 to R385). -/

namespace Sys2Proof.Machine

/-- The stub of the drain-table entry that covers an address (R374). -/
def coveringStub (u : Unit) (pc : BitVec 19) : Option (BitVec 19) :=
  (u.launch.drain.find? fun d => d.1.toNat ≤ pc.toNat && pc.toNat < d.2.1.toNat).map (·.2.2)

/-- Whether the unit runs outside a stub with a request that it has not met. -/
def requested (u : Unit) : Bool := u.run == .running && u.request.isSome && !u.cr.pending

/-- The divert that the bundle at the program counter meets (R375). -/
def divertDue (s : State) : Option (BitVec 19) := if requested s.unit then coveringStub s.unit s.unit.pc else none

/-- R375: the unit diverts to its stub; results in flight become snapshot entries. -/
def execDrainDivert (s : State) : Host.Outcome State Fault Refusal :=
  .next
    (match divertDue s with
    | none => s
    | some stub =>
      let u := s.unit
      { s with
        area := some { CtxArea.start u with savepc := u.pc, kind := 1, snapshot := snapshotOf u, before := u.nextAcc }
        unit := { u with
          landing := [], pc := stub, stub := some u.cyc, stubpc := none, ctx := .start
          cr := { u.cr with savepc := u.pc, pending := true, restore := false } } })

/-- The context area of a unit as it stands: while the unit is frozen, what performs changes it (R379). In a stub the scalar copy is the
diverted program's. -/
def liveArea (u : Unit) (a : CtxArea) : CtxArea :=
  match u.run with
  | .frozen _ =>
    { a with scalar := if u.cr.pending then a.scalar else scalarOf u, v := u.v, mx := u.mx, rings := u.pad.rings, pad := u.pad.bytes }
  | _ => a

/-- Bytes of the banks of a mask. -/
def bankBytes (m : Memory) (banks : BitVec 16) : Memory := m.filter fun e => banks.getLsbD (e.1 / Config.bankBytes)

/-- R376, R224: the save half has ended, or a frozen unit's gang moves: the context is saved and the core released. -/
def saveContext (s : State) : State :=
    (let u := s.unit
    let key := jobKey u.cr.part u.cr.job
    let leave := fun (a : CtxArea) => point s <|
      saveGang { s with area := some a, unit := { u with run := .saved, request := none, stubpc := if u.run == .yielded then none else u.stubpc } }
        key u.launch.graph u.launch.launch u.launch.gang
    if !unitQuiet u then s
    else
      match u.run, s.area with
      | .yielded, some a =>
        leave { a with
          kind := 1, reason := 0, banks := u.cr.livebanks, time := s.time, issued := u.cr.issued, rings := u.pad.rings, mx := u.mx, stubpc := none
          pad := bankBytes u.pad.bytes u.cr.livebanks }
      | .frozen _, some a =>
        if u.request.isNone then s
        else leave (liveArea u a)
      | _, _ => s)

/-- R378: a half of a stub that runs too long, or stalls in a counted block, raises CAUSE 0x33. -/
def execStubOverrun (s : State) : Host.Outcome State Fault Refusal :=
  .next
    (let u := s.unit
    let long := match u.stub with
      | some c => Config.stubCycles ≤ u.cyc - c
      | none => false
    if u.run == .running && u.cr.pending && (long || u.ctx.since.isSome) then
      trapHere { s with freeCtr := s.freeCtr + 1 } (Config.trapSlot s.freeCtr) 0x33 0#12
    else s)

/-- R379: a debugger halt freezes the unit before its next bundle. -/
def execDebugHalt (s : State) : Host.Outcome State Fault Refusal :=
  .next (if s.unit.run == .running then freeze s .halt s.unit.pc else s)

/-- Resuming acts as a FENCE.pkg on all classes and as an acquire at package scope (R275). -/
def resumeOrder (s : State) : State :=
  pruneFences (acquire (s.mapUnit fun u => { u with fences := u.fences ++ [⟨0xFFFF#16, 2#3, u.nextAcc⟩] }) 2)

/-- A frozen unit goes on: a frozen stub at its own program counter, its half's count of issue cycles as it stood (log 53), else at SAVEPC
with the snapshot re-landing (R381, R382). -/
def thaw (s : State) : State :=
  resumeOrder
    (match s.unit.stubpc, s.area with
    | some pc, _ => s.mapUnit fun u => { u with run := .running, pc := pc, ctx := .start }
    | none, some a =>
      s.mapUnit fun u => { u with run := .running, pc := u.cr.savepc, landing := relandFrom u a.snapshot, ctx := { IssueCtx.start with landed := a.landed } }
    | none, none => s.mapUnit fun u => { u with run := .running, ctx := .start })

/-- The fields of an error record of a copy, a KV or a route command that are not reserved (R219, R331, R432). -/
def errorFields (v : W64) : W64 := v &&& 0xFFFF_00FF_FFFF_FFFF#64

/-- The image of a control register rewritten (R382, R384): what it assigns, reserved bits discarded (R8); registers that act or
clear on a write take the value as it is. A value that no write of the register takes leaves its image as it was (log 52). -/
def pokeImage (u : Unit) (n : Nat) (v : W64) : Unit :=
  if n == 0x002 then { u with cr.fflags := v.setWidth 6 }
  else if 0x050 ≤ n && n < 0x060 then (if fmtValid v then crPoke u n v else u)
  else if n == 0x083 then pokeQidx u v
  else if n == 0x084 then { u with cr.qerr := v.setWidth 6 }
  else if n == 0x090 then { u with cr.cpystat := v &&& 0x11F#64 }
  else if 0x094 ≤ n && n < 0x098 then { u with cr.cpyerr := u.cr.cpyerr.setIfInBounds (n - 0x094) (errorFields v) }
  else if n == 0x0A0 then (if gxValid v then crPoke u n v else u)
  else if n == 0x0A1 then { u with cr.redref := fbit v 0 }
  else if n == 0x0B2 then { u with cr.kverr := errorFields v }
  else if n == 0x0E4 then { u with cr.rterr := errorFields v }
  else crPoke u n v

/-- A rewrite of an image (R382). While a stub is frozen the area's images are those of the diverted program (R378), and
CR.SAVEPC keeps the value of the divert. -/
def rewriteOne (s : State) (w : AreaWrite) : State :=
  let inStub := s.unit.stubpc.isSome
  let scalar := fun (f : Unit → Unit) =>
    if inStub then { s with area := s.area.map fun a => { a with scalar := scalarOf (f (restoreScalar s.unit a.scalar)) } }
    else s.mapUnit f
  match w with
  | .g r v => scalar fun u => setG u r v
  | .cr n v =>
    if inStub && n == 0x83#8 then { s with area := s.area.map fun a => { a with qidx := some v } }
    else scalar fun u => pokeImage u n.toNat v
  | .v r v =>
    if inStub then { s with area := s.area.map fun a => { a with v := a.v.set r.toNat v } }
    else s.mapUnit fun u => setV u r (BitVec.allOnes 2048) v
  | .savepc v =>
    let s := { s with area := s.area.map fun a => { a with savepc := v.setWidth 19 } }
    if inStub then s else s.mapCr fun c => { c with savepc := v.setWidth 19 }

/-- The rewrites before a resume. A loop stack that they leave improper under R78 stays as it was (log 52). -/
def rewrite (s : State) (ws : List AreaWrite) : State :=
  let s1 := ws.foldl rewriteOne s
  let s2 := if loopsOk s1.unit.loops then s1 else s1.mapUnit fun u => { u with loops := s.unit.loops }
  { s2 with area := s2.area.map fun a =>
      if loopsOk a.scalar.loops then a
      else { a with scalar := { a.scalar with loops := s.area.elim s.unit.loops (·.scalar.loops) } } }

/-- Whether the last rewrite of SAVEPC names a word of the instruction store. -/
def savepcOk (ws : List AreaWrite) : Bool :=
  ws.foldl (fun ok w => match w with
    | .savepc v => v.toNat < storeBytes && v.toNat % 4 == 0
    | _ => ok) true

/-- A resumed unit goes on; a SAVEPC outside the instruction store raises CAUSE 0x12 (R382). -/
def goOn (s : State) (ok : Bool) : State :=
  let s' := thaw s
  if ok || s.unit.stubpc.isSome then s'
  else trapHere { s' with freeCtr := s'.freeCtr + 1 } (Config.trapSlot s'.freeCtr) 0x12 0#12

/-- Whether a saved unit is frozen and has not been resumed since. -/
def frozenArea (u : Unit) (a : Option CtxArea) : Bool := u.run == .saved && a.any fun a => a.kind == 2 && a.resumed.isNone

/-- A unit frozen off its core is resumed: its images are rewritten, and it goes on once its gang is placed again. -/
def resumeLater (s : State) (ws : List AreaWrite) : State :=
  let s' := rewrite s ws
  { s' with area := s'.area.map fun a => { a with resumed := some (savepcOk ws) } }

/-- R382: system software resumes a frozen unit; where its gang has been moved off its core it goes on once it is placed again. Where the
modelled unit is not frozen it is the first frozen one of those set aside (log 1). -/
def execUnitResume (ws : List AreaWrite) (s : State) : Host.Outcome State Fault Refusal :=
  .next
    (match s.unit.run with
    | .frozen _ => goOn (rewrite s ws) (savepcOk ws)
    | _ =>
      if frozenArea s.unit s.area then resumeLater s ws
      else
        match s.aside.find? fun a => frozenArea a.unit a.area with
        | none => s
        | some a =>
          let t := resumeLater { s with unit := a.unit, area := a.area } ws
          { s with aside := s.aside.map fun b => if b == a then { a with unit := t.unit, area := t.area } else b })

/-- The registers that a restore half finds: V, M and the array as at unit start; G, P and the loop counters hold nothing
that the manual gives (R377). -/
def restoreStart (s : State) (u : Unit) (a : CtxArea) : Unit :=
  let free := fun (i : Nat) => Config.resumeWord (s.freeCtr * 1000 + i)
  { u with
    run := .running
    g := Vector.ofFn fun i => free i.val
    p := (free 64).setWidth 8 ||| 1#8
    v := Vector.replicate 32 0#2048
    m := Vector.replicate 8 0#64
    loops := { LoopState.empty with lc := Vector.ofFn fun i => (free (65 + i.val)).setWidth 32 }
    landing := []
    pad := { u.pad with bytes := a.pad, rings := a.rings }
    mx := .start
    l1 := []
    stub := some u.cyc
    ctx := .start
    cr := { u.cr with restore := true } }

/-- Why a freeze was made, from its record (R383). -/
def freezeReason (n : Nat) : FreezeReason := if n == 1 then .trap else if n == 2 then .halt else .preempt

/-- The modelled unit as its gang is placed again: its restore half begins, or it is frozen still; a freeze made for the
pre-emption alone ends (R377, R379, R382). -/
def resumeOwn (s : State) (at_ : BitVec 5 × BitVec 4) : State :=
  let s := s.mapUnit fun u => { u with cr := { u.cr with cluster := at_.1, pcore := at_.2 } }
  match s.area with
  | none => s
  | some a =>
    if a.kind == 1 then resumeOrder { s with unit := restoreStart s s.unit a, freeCtr := s.freeCtr + 1 }
    else
      let s := { s with
        area := some { a with resumed := none }
        unit := { s.unit with run := .frozen (freezeReason a.reason), l1 := [] } }
      match a.resumed with
      | some ok => goOn s ok
      | none => if a.reason == 3 then thaw s else s

/-- Whether a saved unit set aside is of a gang. -/
def Aside.of (a : Aside) (l : LaunchId) (gang : Nat) : Bool :=
  jobKey a.unit.cr.part a.unit.cr.job == idKey l && a.unit.launch.graph == l.graph && a.unit.launch.launch == l.launch
    && a.unit.launch.gang == gang

/-- A gang that is placed again takes up its unit where that has been set aside: as the modelled unit, unless another one has a core,
beside which the model does not follow it (log 1). -/
def swapIn (s : State) (l : LaunchId) (gang : Nat) : State :=
  match s.aside.find? fun a => a.of l gang with
  | none => s
  | some a =>
    let s := { s with aside := s.aside.erase a }
    if coreHeld s then s else takeBack (putAside s) a

/-- R373, R377: a saved gang is placed again. -/
def execGangResume (l : LaunchId) (gang : Nat) (at_ : Placement) (s : State) : Host.Outcome State Fault Refusal :=
  .next
    (let s := markReady s
    match gangRef s l gang with
    | none => s
    | some x =>
      if x.g.st != .saved || !mayPlace s l.part x || !admits s l.part x.l gang s.cores at_ then s
      else
        let s := swapIn s l gang
        let own := ownGang s (idKey l) l.graph l.launch gang && s.unit.run == .saved
        let s := mapGang { s with cores := s.cores ++ coresOf x at_ } (idKey l) l.graph l.launch gang fun g =>
          { g with st := .running at_, cluster := some at_.cluster, ready := none, started := s.time }
        let s := if own then
          match placedCore x.l.rec_ at_ s.unit.cr.lcore.toNat with
          | some c => resumeOwn (s.mapUnit fun u =>
              { u with launch := { u.launch with routers := physSlots x.l.rec_ at_ u.launch.slots } }) c
          | none => s
        else s
        afterPlacing s x)

end Sys2Proof.Machine
end

