-- ==== Sys2Proof/Machine/Text.lean ====
section
/-! DEFINITION. The request front end, tokenisers and detokenisers (R405, R441 to R460). -/

namespace Sys2Proof.Machine

/-! ### Vocabularies (R442, R443) -/

/-- A field of n bytes at o of a byte string. -/
def byteField (bs : List Byte) (o n : Nat) : Nat := leNat ((bs.drop o).take n)

/-- The header of a vocabulary image. -/
structure VocabHead where
  options  : Nat
  ntok     : Nat
  nmerge   : Nat
  nspec    : Nat
  poollen  : Nat
  mergeoff : Nat
  tboff    : Nat
  specoff  : Nat
  pooloff  : Nat
  ok       : Bool
deriving DecidableEq, Repr

/-- Bytes of the header with its three tables of bytes. -/
def vocabHeadBytes : Nat := 1376

def vocabHead (bs : List Byte) : VocabHead :=
  let f := byteField bs
  { options := f 6 2, ntok := f 8 4, nmerge := f 12 4, nspec := f 16 2, poollen := f 20 4, mergeoff := f 24 8, tboff := f 32 8
    specoff := f 40 8, pooloff := f 48 8
    ok := f 0 4 == 0x434F564E && f 4 2 == 1 && f 6 2 < 2 && f 18 2 == 0 && f 56 8 == 0 && 256 ≤ f 8 4 && f 8 4 ≤ 1048576
      && f 12 4 + 256 ≤ f 8 4 && f 16 2 ≤ 256 && f 24 8 % 8 == 0 && f 32 8 % 8 == 0 && f 40 8 % 8 == 0 && f 48 8 % 8 == 0
      && ((upto 0 256).all fun b => f (64 + 4 * b) 4 < f 8 4) && (upto 0 256).all fun b => f (1088 + b) 1 < 16 }

/-- Whether merge entries ascend strictly by LEFT ∥ RIGHT (R443). -/
def mergesRise : List (W32 × W32 × W32 × W32) → Bool
  | a :: b :: rest => a.1.toNat * 2 ^ 32 + a.2.1.toNat < b.1.toNat * 2 ^ 32 + b.2.1.toNat && mergesRise (b :: rest)
  | _ => true

/-- The vocabulary of an image: its header and the bytes of its merge table, token table, special table and pool; none
where it fails to load (R443). -/
def parseVocab (part : BitVec 4) (head merges tb spec pool : List Byte) : Option Vocab :=
  let h := vocabHead head
  let ms := (chunks 16 h.nmerge merges).map fun e =>
    (w32 (byteField e 0 4), w32 (byteField e 4 4), w32 (byteField e 8 4), w32 (byteField e 12 4))
  let ts := (chunks 8 h.ntok tb).map fun e => (byteField e 0 4, byteField e 4 1, byteField e 5 3)
  let ss := (chunks 72 h.nspec spec).map fun e => (byteField e 0 4, byteField e 4 1, byteField e 5 3, (e.drop 8).take (byteField e 4 1))
  let ok := h.ok && mergesRise ms
    && (ms.all fun m => m.1.toNat < h.ntok && m.2.1.toNat < h.ntok && m.2.2.2.toNat < h.ntok)
    && (ts.all fun t => t.2.1 ≤ 64 && t.2.2 == 0 && t.1 + t.2.1 ≤ h.poollen)
    && ss.all fun t => t.1 < h.ntok && 1 ≤ t.2.1 && t.2.1 ≤ 64 && t.2.2.1 == 0
  if !ok then none
  else some
    { part := part, skip := h.options == 1, ntok := h.ntok, merges := ms
      tokens := (upto 0 h.ntok).zip (ts.map fun t => (pool.drop t.1).take t.2.1)
      special := ss.map fun t => (w32 t.1, t.2.2.2)
      byteTab := (upto 0 256).map fun b => w32 (byteField head (64 + 4 * b) 4)
      cls := (upto 0 256).map fun b => BitVec.ofNat 4 (byteField head (1088 + b) 1)
      join := (upto 0 16).map fun c => w16 (byteField head (1344 + 2 * c) 2)
      bytes := vocabHeadBytes + merges.length + tb.length + spec.length + pool.length }

/-- PINQ of a partition in bytes (R484). -/
def pinQuota (s : State) (part : BitVec 4) : Nat :=
  match mget s.pkg.parts part.toNat with
  | some d => d.pinQ * 2 ^ 20
  | none => 0

/-- Several ranges read one after another. -/
def readRanges (s : State) (w : Who) : List (W64 × Nat) → State × Xfer (List (List Byte))
  | [] => (s, .ok [])
  | (va, n) :: rest =>
    match vread s w 0 va n with
    | (s, .stop a x) => (s, .stop a x)
    | (s, .ok bs) =>
      match readRanges s w rest with
      | (s, .stop a x) => (s, .stop a x)
      | (s, .ok l) => (s, .ok (bs :: l))

/-- R442, R443: a vocabulary image is loaded into a free slot, or nothing is; firmware extends M2 with it (R494). A read that
faults is parked, and the load is tried again as it is resumed (R323). -/
def execVocabLoad (slot part : BitVec 4) (asid : BitVec 12) (va : W64) (s : State) : Host.Outcome State Fault Refusal :=
  .next
    (let w := regWho s asid
    if (mget s.text.vocabs slot.toNat).isSome then s
    else
      let again := fun (s : State) a x => (hold s w a 0 (.retry (.vocabLoad slot part asid va)) x).1
      match vread s w 0 va vocabHeadBytes with
      | (s, .stop a x) => again s a x
      | (s1, .ok head) =>
        let h := vocabHead head
        if !h.ok then s1
        else
          let at_ := fun o => va + w64 o
          match readRanges s1 w [(at_ h.mergeoff, 16 * h.nmerge), (at_ h.tboff, 8 * h.ntok), (at_ h.specoff, 72 * h.nspec), (at_ h.pooloff, h.poollen)] with
          | (s2, .ok [ms, tb, sp, pool]) =>
            match parseVocab part head ms tb sp pool with
            | none => s2
            | some v =>
              if pinQuota s2 part < pinnedBytes s2 part + v.bytes then s2
              else measure { s2 with text := { s2.text with vocabs := mset s2.text.vocabs slot.toNat v } } 2 (head ++ ms ++ tb ++ sp ++ pool)
          | (s2, .stop a x) => again s2 a x
          | (s2, _) => s2)

/-- R442: a vocabulary is unloaded once no job references it. -/
def execVocabUnload (slot : BitVec 4) (s : State) : Host.Outcome State Fault Refusal :=
  .next
    (if s.text.blocks.any (·.vocab == slot) then s else { s with text := { s.text with vocabs := mdel s.text.vocabs slot.toNat } })

/-! ### Tokenising (R445 to R447) -/

/-- The longest special token that the bytes begin with, the first of the table among equals. -/
def specialAt (v : Vocab) (bs : List Byte) : Option (W32 × List Byte) :=
  v.special.foldl (fun best t =>
    if t.2.isPrefixOf bs && (match best with | some b => b.2.length < t.2.length | none => true) then some t else best) none

/-- Whether a boundary stands between bytes a and b of a span (R446). -/
def boundaryAt (v : Vocab) (a b : Byte) : Bool :=
  let ca := nth v.cls a.toNat 0#4
  let cb := nth v.cls b.toNat 0#4
  !(0x80 ≤ b.toNat && b.toNat ≤ 0xBF) && ca != cb && !(nth v.join ca.toNat 0#16).getLsbD cb.toNat

/-- A span cut at its boundaries; cur: the piece so far. -/
def cutPieces (v : Vocab) (cur : List Byte) : List Byte → List (List Byte)
  | [] => if cur.isEmpty then [] else [cur]
  | b :: rest =>
    match cur.getLast? with
    | some a => if boundaryAt v a b then cur :: cutPieces v [b] rest else cutPieces v (cur ++ [b]) rest
    | none => cutPieces v [b] rest

/-- A merge entry for a pair. -/
def mergeOf (v : Vocab) (a b : W32) : Option (W32 × W32) :=
  (v.merges.find? fun m => m.1 == a && m.2.1 == b).map fun m => (m.2.2.1, m.2.2.2)

/-- The pair of least rank, then least place: its place and result (R447). -/
def bestMerge (v : Vocab) (t : List W32) : Option (Nat × W32) :=
  (((upto 0 (t.length - 1)).zip (t.zip t.tail)).foldl (fun (best : Option (Nat × W32 × W32)) x =>
    match mergeOf v x.2.1 x.2.2 with
    | none => best
    | some (rank, res) =>
      match best with
      | none => some (x.1, rank, res)
      | some b => if rank.toNat < b.2.1.toNat then some (x.1, rank, res) else best) none).map fun b => (b.1, b.2.2)

/-- A piece merged (R447); fuel: its bytes. -/
def mergePiece (v : Vocab) : Nat → List W32 → List W32
  | 0, t => t
  | fuel + 1, t =>
    match bestMerge v t with
    | none => t
    | some (j, res) => mergePiece v fuel (t.take j ++ res :: t.drop (j + 2))

/-- The tokens of a span (R446, R447). -/
def spanTokens (v : Vocab) (bs : List Byte) : List W32 :=
  (cutPieces v [] bs).flatMap fun p => (chunks 256 (p.length / 256 + 1) p).flatMap fun q =>
    mergePiece v q.length (q.map fun b => nth v.byteTab b.toNat 0#32)

/-- The tokens of a body: special tokens and the spans between them (R445); fuel: its bytes. -/
def scanBody (v : Vocab) (special : Bool) : Nat → List Byte → List Byte → List W32
  | 0, span, _ => spanTokens v span
  | _ + 1, span, [] => spanTokens v span
  | fuel + 1, span, b :: rest =>
    match if special then specialAt v (b :: rest) else none with
    | some (id, bs) => spanTokens v span ++ id :: scanBody v special fuel [] ((b :: rest).drop bs.length)
    | none => scanBody v special fuel (span ++ [b]) rest

def bodyTokens (v : Vocab) (special : Bool) (body : List Byte) : List W32 := scanBody v special (body.length + 1) [] body

/-- The requests of the queue that come first: the oldest of each class and partition (R441). -/
def queueHeads (s : State) : List TokReq :=
  s.text.queue.filter fun r => (s.text.queue.find? fun o => o.sc == r.sc && o.part == r.part) == some r

/-- Whether a request's class has not yet had its share of the present round; classes 1 to 3 share as 4 : 2 : 1 (R486). -/
def classDue (s : State) (r : TokReq) : Bool :=
  (mget s.text.shares (64 + r.sc.toNat)).getD 0 < (if r.sc == 1#2 then 4 else if r.sc == 2#2 then 2 else 1)

/-- Whether its partition has not yet had WEIGHTn of its class's present round (R486). -/
def partDue (s : State) (r : TokReq) : Bool :=
  (mget s.text.shares (16 * r.sc.toNat + r.part.toNat)).getD 0
    < ((mget s.pkg.parts r.part.toNat).map fun d => nth d.weight.toList r.sc.toNat 1).getD 1

/-- The requests that a tokeniser may take next: of class 0 where one waits, else of classes that have not had their share of the round,
and of each class those of partitions that have not had theirs. A round ends once no class, or no partition of the class, that waits has
anything left of it (R441, R486, log 45). -/
def nextRequests (s : State) : List TokReq :=
  let first := queueHeads s
  let urgent := first.filter (·.sc == 0#2)
  let pool := if !urgent.isEmpty then urgent else if first.any (classDue s) then first.filter (classDue s) else first
  pool.filter fun r => partDue s r || !(first.any fun o => o.sc == r.sc && partDue s o)

/-- One more request taken in a round; a round without anything left begins again. -/
def takeShare (m : SMap Nat) (key : Nat) (mine : Nat → Bool) (left : Bool) : SMap Nat :=
  let m := if left then m else m.filter fun e => !mine e.1
  mset m key ((mget m key).getD 0 + 1)

/-- The shares once a request is taken. -/
def sharesAfter (s : State) (r : TokReq) : SMap Nat :=
  let first := queueHeads s
  let m := takeShare s.text.shares (16 * r.sc.toNat + r.part.toNat) (fun k => k < 64 && k / 16 == r.sc.toNat)
    (first.any fun o => o.sc == r.sc && partDue s o)
  if r.sc == 0#2 then m else takeShare m (64 + r.sc.toNat) (64 ≤ ·) (first.any fun o => o.sc != 0#2 && classDue s o)

/-- R441, R445: an idle tokeniser takes a request. -/
def execTokenise (engine : BitVec 3) (s : State) : Host.Outcome State Fault Refusal :=
  .next
    (let e : Tokeniser := s.text.toks[engine.toNat]'engine.isLt
    let cands := nextRequests s
    match e.req, cands[Config.tokChoice s.freeCtr % cands.length]? with
    | none, some r =>
      match mget s.text.vocabs r.vocab.toNat with
      | none => s
      | some v =>
        let e : Tokeniser := ⟨some r, bodyTokens v r.special r.body, 0, false, r.replay.map fun _ => 0⟩
        { s with
          freeCtr := s.freeCtr + 1
          text := { s.text with
            queue := s.text.queue.erase r, shares := sharesAfter s r, toks := s.text.toks.set engine.toNat e engine.isLt } }
    | _, _ => s)

/-! ### Token slots (R444, R448, R405) -/

/-- The core of the modelled gang on which unit u of a job's first launch is resident. -/
def ringCore (s : State) (part : BitVec 4) (job unit : W32) : Option Nat :=
  let u := s.unit
  let runs := u.run == .running || u.run == .exited || u.run == .yielded || (match u.run with
    | .frozen _ => true
    | _ => false)
  if runs && u.cr.part == part && u.cr.job == job && u.launch.graph == 0#16 && u.launch.launch == 0 then
    (gangCores u).find? fun c => coreUnit u c == unit.toNat
  else none

/-- One slot of values written into a ring: the state and the values that remain; none while the unit is not resident or the
ring has no room, or does not permit the tokenisers (R201 to R204, R444, log 81). -/
def putSlot (s : State) (part : BitVec 4) (job : W32) (r : RingRef) (pos : Nat) (vals : List W32) : Option (State × List W32) :=
  (ringCore s part job r.unit).bind fun c => ((engRing s c r.q).filter (ringPermits · 20)).bind fun ring =>
    (engReserve s c r.q).map fun (s, x) =>
      let cap := (ring.size - 8) / 4
      let now := vals.take cap
      let rest := vals.drop cap
      let bs := leBytes now.length 2 ++ leBytes (bit01 rest.isEmpty) 1 ++ leBytes 0 1 ++ leBytes pos 4 ++ now.flatMap fun v => leBytes v.toNat 4
      (engCommit (modPad s c fun d => padPut d (ring.addr (w16 x)) bs) c r.q x, rest)

def setTok (s : State) (engine : BitVec 3) (e : Tokeniser) : State :=
  { s with text := { s.text with toks := s.text.toks.set engine.toNat (if e.ended && e.rpos.isNone then .idle else e) engine.isLt } }

/-- R448, R405: a tokeniser commits its next slot: of the input ring, then of the replay ring. -/
def execTokeniserSlotCommit (engine : BitVec 3) (s : State) : Host.Outcome State Fault Refusal :=
  .next
    (let e : Tokeniser := s.text.toks[engine.toNat]'engine.isLt
    match e.req with
    | none => s
    | some r =>
      if !e.ended then
        match putSlot s r.part r.job r.inRing e.pos e.tokens with
        | none => s
        | some (s, rest) =>
          setTok s engine { e with tokens := rest, pos := e.pos + (e.tokens.length - rest.length), ended := rest.isEmpty }
      else
        match e.rpos with
        | none => s
        | some k =>
          let vals := (r.replay.getD []).drop k
          match putSlot s r.part r.job r.rpRing k vals with
          | none => s
          | some (s, rest) =>
            setTok s engine { e with rpos := if rest.isEmpty then none else some (k + (vals.length - rest.length)) })

/-! ### Detokenising (R449 to R452) -/

/-- The bytes of a token (R449). -/
def tokenBytes (v : Vocab) (id : W32) : List Byte :=
  if v.ntok ≤ id.toNat then [0xEF#8, 0xBF#8, 0xBD#8]
  else if v.skip && v.special.any (·.1 == id) then []
  else (mget v.tokens id.toNat).getD []

/-- One token through the stages: the context, the bytes passed, and the status that ends the reply. -/
def detokStep (v : Vocab) (x : DetokCtx × List Byte × Option Nat) (id : W32) : DetokCtx × List Byte × Option Nat :=
  let (c, out, status) := x
  if status.isSome then x
  else
    let (passed, held) := utf8Run c.raw c.held (tokenBytes v id)
    let r := stopRun c.stops c.incl c.out passed
    let n := c.ntok + 1
    ({ c with held := held, out := r.held, ntok := n }, out ++ r.out,
      if r.matched then some 1 else if c.maxTok != 0 && n == c.maxTok then some 2 else none)

/-- A slot that ends no reply sends a record of the bytes it passes, if any (R456). -/
def passBytes (s : State) (c : DetokCtx) (bs : List Byte) : State :=
  if bs.isEmpty then putCtx s c
  else putCtx (sendReply s c.flow (replyBytes c.session false 0 c.seq bs)) { c with seq := c.seq + 1 }

/-- A context whose ring has given its END slot after the end of its reply is free (R441, R452). -/
def dropCtx (s : State) (c : DetokCtx) : State :=
  { s with text := { s.text with ctxs := s.text.ctxs.filter fun d => !(d.part == c.part && d.job == c.job && d.block == c.block) } }

/-- R449: a context fires on the head slot of its output ring, whose consumer must be an engine (R205). -/
def execDetokeniseSlot (ctx : Nat) (s : State) : Host.Outcome State Fault Refusal :=
  .next
    (match s.text.ctxs[ctx]? with
    | none => s
    | some c =>
      match ringCore s c.part c.job c.ring.unit with
      | none => s
      | some core =>
        match (fireAt s core c.ring.q 1).filter (·.1.cons == 1), padOf s core with
        | some (ring, x), some pad =>
            let a := ring.addr x
            let count := padRead pad a 2
            let end_ := padRead pad (a + 2) 1 % 2 == 1
            let ids := (upto 0 count).map fun i => w32 (padRead pad (a + 8 + 4 * i) 4)
            let s := engFree s core c.ring.q x 1
            let s := if c.ended then s
              else if (ring.size - 8) / 4 < count then endReply s c 0x18 [] true
              else
                match mget s.text.vocabs c.vocab.toNat with
                | none => s
                | some v =>
                  let (c, out, status) := ids.foldl (detokStep v) (c, [], none)
                  match status with
                  | some st => endReply s c st out true
                  | none => if end_ then endReply s c 3 out true else passBytes s c out
            point s (settle (if end_ then dropCtx s c else s) (jobKey c.part c.job))
        | _, _ => s)

/-! ### Requests (R453 to R458) -/

/-- Whether a word is a negative FP32 value or a NaN (R455). -/
def tempBad (t : Nat) : Bool := (0x7F800000 < t % 2 ^ 31) || (2 ^ 31 < t)

/-- The status with which a request is refused; 0 for a valid one (R455, R487). -/
def requestStatus (s : State) (part : BitVec 4) (bs : List Byte) : Nat :=
  let f := byteField bs
  let flags := f 6 2
  let body := f 68 4
  let nrep := f 36 4
  let pad := (4 - body % 4) % 4
  let nstop := f 27 1
  let stops := (upto 0 4).all fun k =>
    if k < nstop then 1 ≤ f (64 + k) 1 && f (64 + k) 1 ≤ 32 else f (64 + k) 1 == 0 && f (72 + 32 * k) 32 == 0
  let fields := f 8 4 == bs.length && f 8 4 == 200 + body + pad + 4 * nrep && flags < 16 && f (200 + body) pad == 0 && nstop ≤ 4 && stops
    && (flags % 2 == 1 || nrep == 0) && !tempBad (f 28 4)
  let tmpl := s.text.templates.find? fun t => t.part == part && t.template.toNat == f 24 2
  if (mget s.pkg.resets part.toNat).isSome then 0x15
  else if f 0 4 != 0x5152494D || f 4 2 != 1 then 0x10
  else if !fields then 0x11
  else
    match tmpl with
    | none => 0x12
    | some t =>
      if f 12 4 != t.model.toNat || f 26 1 != t.vocab.toNat then 0x12
      else if !utf8Ok ((bs.drop 200).take body) then 0x13
      else if s.text.blocks.any fun b =>
          b.part == part && b.session.toNat == f 16 8 && (mget s.jobs (jobKey part b.job)).any (·.open_) then 0x14
      else if 4096 ≤ s.text.ctxs.length
          || t.nblocks ≤ (s.text.blocks.filter fun b => b.part == part && b.template == t.template).length then 0x15
      else 0

/-- A job number of a partition that is not in use (R458). -/
def freshJob (s : State) (part : BitVec 4) : W32 :=
  let base := Config.jobNumber s.freeCtr
  ((upto 0 (s.jobs.length + 1)).map fun k => base + w32 k).find? (fun n => (mget s.jobs (jobKey part n)).isNone) |>.getD base

/-- A free request block of a template. -/
def freeBlock (s : State) (t : TemplateReg) : Nat :=
  ((upto 0 t.nblocks).find? fun i => !s.text.blocks.any fun b => b.part == t.part && b.template == t.template && b.index == i).getD 0

/-- The bytes of a request block (R458). -/
def blockBytes (bs : List Byte) : List Byte :=
  let f := byteField bs
  leBytes (f 16 8) 8 ++ leBytes (f 28 4) 4 ++ leBytes (f 32 4) 4 ++ leBytes (f 36 4) 4 ++ leBytes (f 6 2) 4 ++ leBytes 0 40

/-- The job of a request: a copy of the job record template with the request's own fields; GRAPHS and LAUNCHES count nothing yet
(R361, R458). -/
def requestJob (s : State) (t : TemplateReg) (rec_ : List Byte) (job : W32) (bs : List Byte) : Job :=
  let f := byteField rec_
  let r : JobRec :=
    { part := t.part, job := job, stream := false, sc := BitVec.ofNat 2 (f 9 1), alt := f 10 1 % 2 == 1, rung := BitVec.ofNat 3 (f 11 1)
      kvBase := w64 (f 16 8), kvLen := w64 (f 24 8), pool := w64 (f 32 8), compRing := w64 (f 40 8), compLen := w32 (f 48 4)
      drawBase := BitVec.ofNat 128 (byteField bs 48 16), drawKey := w64 (byteField bs 40 8), period := w64 (f 80 8)
      deadline := w64 (f 88 8), ladder := w64 (f 96 8), raise := w32 (f 104 4), target := w32 (f 108 4), slot := t.slot }
  { Job.fresh s r with phase := w32 (f 12 4), compTail := w32 (f 52 4) }

/-- A valid request becomes a job: its record, context, request block, graph and place in the queue (R441, R458). rec_: the bytes of the
template's job record. -/
def acceptRequest (s : State) (part : BitVec 4) (flow : Nat) (bs : List Byte) (t : TemplateReg) (rec_ : List Byte) : State :=
  let f := byteField bs
  let num := freshJob s part
  let key := jobKey part num
  let i := freeBlock s t
  let block := t.blocks + w64 (64 * i)
  let flags := f 6 2
  let body := (bs.drop 200).take (f 68 4)
  let reps := (chunks 4 (f 36 4) (bs.drop (f 8 4 - 4 * f 36 4))).map fun l => w32 (leNat l)
  let j := requestJob s t rec_ num bs
  let c : DetokCtx :=
    { part := part, job := num, flow := flow, session := w64 (f 16 8), vocab := t.vocab, raw := flags / 4 % 2 == 1
      incl := flags / 8 % 2 == 1, stops := (upto 0 (f 27 1)).map fun k => (bs.drop (72 + 32 * k)).take (f (64 + k) 1)
      maxTok := f 32 4, held := [], out := [], ntok := 0, seq := 0, ended := false, ring := t.outRing, block := block, slot := t.slot }
  let q : TokReq :=
    { part := part, job := num, vocab := t.vocab, special := flags / 2 % 2 == 1, body := body
      replay := if flags % 2 == 1 then some reps else none, inRing := t.inRing, rpRing := t.rpRing, sc := j.r.sc }
  let b : ReqBlock :=
    { part := part, template := t.template, index := i, job := num, vocab := t.vocab, flow := flow, session := w64 (f 16 8)
      graph := t.graph.map fun l => ⟨l.w.set 15 block⟩ }
  let s := { s with
    freeCtr := s.freeCtr + 1
    jobs := mset s.jobs key j
    text := { s.text with
      blocks := s.text.blocks ++ [b], ctxs := s.text.ctxs ++ [c], queue := s.text.queue ++ [q] } }
  let s := edgeWrite s (regWho s t.slot) (some key) block (blockBytes bs)
  let waits := s.parks.any fun p => match p.who with
    | .edge _ (some k) => k == key
    | _ => false
  if waits then s else point s (settle (submit s key (templateGraph s key) j.rung 256) key)

/-- R453 to R458: a Mirot request record has arrived. A fault at the job record template parks the read, and the request is taken up again as
that is resumed (R323). -/
def execMirotRequest (part : BitVec 4) (flow : Nat) (record : List Byte) (s : State) : Host.Outcome State Fault Refusal :=
  .next
    (match requestStatus s part record with
    | 0 =>
      match s.text.templates.find? fun t => t.part == part && t.template.toNat == byteField record 24 2 with
      | some t =>
        let w := regWho s t.slot
        match vread s w 0 t.jobRec 128 with
        | (s, .stop va x) => (hold s w va 0 (.retry (.mirotRequest part flow record)) x).1
        | (s, .ok rec_) => acceptRequest s part flow record t rec_
      | none => s
    | st => sendReply s flow (replyBytes (w64 (byteField record 16 8)) true st 0 []))

/-- Whether a ring of a template is one of its image that satisfies R199 on the core of its unit, and f (R457). -/
def templateRing (s : State) (t : TemplateReg) (r : RingRef) (f : Ring → Bool) : Bool :=
  match t.graph with
  | [] => false
  | l :: _ =>
    match mget s.images (lrImage l) with
    | none => false
    | some im =>
      match im.rings.find? fun x => x.1 == r.q with
      | none => false
      | some (_, w0, w1, self) =>
        let w1 := selfPerm w1 self (nth (lrCores l) (r.unit.toNat % lrSize l) 0)
        r.unit.toNat < lrUnits l && ringValid w0 w1 (lrBanks l) (lrMask l) && f (Ring.fresh w0 w1)

/-- R457: a job template is registered unless its rings do not serve. -/
def execTemplateRegister (t : TemplateReg) (s : State) : Host.Outcome State Fault Refusal :=
  .next
    (let feeds := fun (r : Ring) => r.perm.testBit 20
    if t.graph.length ≤ 64 && templateRing s t t.inRing feeds && templateRing s t t.rpRing feeds
        && templateRing s t t.outRing (fun r => r.cons == 1) then
      { s with text := { s.text with
        templates := s.text.templates.filter (fun o => !(o.part == t.part && o.template == t.template)) ++ [t] } }
    else s)

/-- R459: the flow of a session fails: its job is cancelled, where it has not completed, and nothing more of it is sent. -/
def execUetFlowFail (part : BitVec 4) (flow : Nat) (s : State) : Host.Outcome State Fault Refusal :=
  .next
    ((s.text.blocks.filter fun b => b.part == part && b.flow == flow).foldl (fun s b =>
      let key := jobKey part b.job
      point s (settle (cancelJob (endJobReplies s part b.job 0x17 false) key 1#8) key)) s)

end Sys2Proof.Machine
end

