-- ==== Sys2Proof/Machine/Package.lean ====
section
/-! DEFINITION. Partitions, machine checks, links, boot, attestation and power (R280, R281, R484 to R497). -/

namespace Sys2Proof.Machine

/-! ### Partitions (R484, R485) -/

/-- Whether the fields of a descriptor keep their limits. -/
def descLimits (d : PartDesc) : Bool :=
  let ring := fun n => isPow2 n && 64 ≤ n && n ≤ 65536
  d.clusters != 0#24 && 1 ≤ d.asidCount && d.asidBase + d.asidCount ≤ 4096 && d.pinQ ≤ d.llcQ
    && (d.weight.toList.all fun w => 1 ≤ w && w ≤ 255) && (d.tl.toList.all fun t => 1 ≤ t && t < 2 ^ 32)
    && ring d.mcLen && ring d.faultLen && ring d.evLen

/-- Whether a descriptor shares nothing with the others, and every quota stays within the package. -/
def descFits (s : State) (d : PartDesc) : Bool :=
  let others := (s.pkg.parts.filter fun p => p.1 != d.part.toNat).map (·.2)
  let sum := fun (f : PartDesc → Nat) => others.foldl (fun n o => n + f o) (f d)
  (others.all fun o => o.clusters &&& d.clusters == 0#24 && !overlap o.asidBase o.asidCount d.asidBase d.asidCount)
    && sum (·.memQ) ≤ 384 * 2 ^ 14 && sum (·.llcQ) ≤ 8192 && sum (·.pinQ) ≤ 4096

def putPart (s : State) (d : PartDesc) : State := { s with pkg := { s.pkg with parts := mset s.pkg.parts d.part.toNat d } }

/-- A fresh key for a partition (R487). -/
def freshKey (s : State) (part : BitVec 4) : State :=
  { s with pkg := { s.pkg with keys := mset s.pkg.keys part.toNat s.pkg.nextKey, nextKey := s.pkg.nextKey + 1 } }

/-- R484: firmware creates a partition whole or not at all, with a key of its own; it measures the supervisor (R494). -/
def execPartitionCreate (d : PartDesc) (s : State) : Host.Outcome State Fault Refusal :=
  .next
    (if s.pkg.boot != .running || (mget s.pkg.parts d.part.toNat).isSome || !descLimits d || !descFits s d then s
    else measure (freshKey (putPart { s with freeCtr := s.freeCtr + 1 } d) d.part) 1 (Config.supervisor s.freeCtr))

/-- Whether a partition has an open job. -/
def hasOpenJob (s : State) (part : BitVec 4) : Bool := s.jobs.any fun j => j.2.r.part == part && !j.2.done

/-- R484: a change of a descriptor, whole or not at all. -/
def execPartitionChange (d : PartDesc) (s : State) : Host.Outcome State Fault Refusal :=
  .next
    (match mget s.pkg.parts d.part.toNat with
    | none => s
    | some o =>
      let moved := o.clusters != d.clusters || o.asidBase != d.asidBase || o.asidCount != d.asidCount
      if !descLimits d || !descFits s d || (moved && hasOpenJob s d.part) then s else putPart s d)

/-! ### Pinned frames (R280) -/

/-- The LLC lines of a frame written back under the key of the partition that holds them. -/
def flushFrame (s : State) (f : Nat) : State :=
  let key := match mget s.owners f with
    | some p => keyOf s p
    | none => 0
  ((s.llc.filter fun e => e.1 / 128 == f).map (·.1)).foldl (fun s i => writeBack s key i) s

/-- Frames of a range of bytes. -/
def framesOf (pa bytes : Nat) : List Nat := if bytes == 0 then [] else upto (pa / 4096) ((pa + bytes - 1) / 4096 - pa / 4096 + 1)

/-- The 32 lines of a pinned frame take their places at its pin slice, for which lines of the partition are evicted (R280, R485). -/
def roomForFrame (part : BitVec 4) (s : State) (f : Nat) : State := evictLines (homeSlice (4096 * f)) part 32 s

/-- R280: a range is pinned, every byte 0x00, or nothing of it: beyond main memory or the quota, over pinned frames, or more
than 64 MiB at one pin slice. What was in error there is gone (log 89). -/
def execPinRange (part : BitVec 4) (pa bytes : Nat) (s : State) : Host.Outcome State Fault Refusal :=
  .next
    (let fs := framesOf pa bytes
    let s1 := { s with pinned := fs.foldl (fun m f => mset m f part) s.pinned }
    if fs.isEmpty || (fs.any fun f => Config.mainFrames ≤ f || (mget s.pinned f).isSome) || pinQuota s part < pinnedBytes s part + 4096 * fs.length
        || (upto 0 64).any fun h => 16384 < pinnedAtSlice s1 (BitVec.ofNat 6 h) then s
    else fs.foldl (roomForFrame part) { fs.foldl flushFrame s with pinned := s1.pinned, bad := s.bad.filter fun i => !fs.contains (i / 128) })

/-- A frame unpinned: its contents are discarded. -/
def unpinFrame (s : State) (f : Nat) : State :=
  { s with pinned := mdel s.pinned f, llc := mclear s.llc (128 * f) (128 * f + 128) }

/-- R280: the frames of a range that the partition has pinned are unpinned. -/
def execUnpinRange (part : BitVec 4) (pa bytes : Nat) (s : State) : Host.Outcome State Fault Refusal :=
  .next (((framesOf pa bytes).filter fun f => mget s.pinned f == some part).foldl unpinFrame s)

/-- R281: the counters of a slice are cleared. -/
def execSliceStatsClear (slice : BitVec 6) (s : State) : Host.Outcome State Fault Refusal := .next (addStats s slice fun _ => .zero)

/-! ### Partition reset (R487, R488) -/

def setReset (s : State) (part : BitVec 4) (n : Nat) : State :=
  { s with pkg := { s.pkg with resets := mset s.pkg.resets part.toNat n } }

/-- Step 1: every open job of the partition is cancelled. -/
def resetJobs (s : State) (part : BitVec 4) : State :=
  ((s.jobs.filter fun j => j.2.r.part == part && !j.2.done).map (·.1)).foldl (fun s k => point s (settle (cancelJob s k 1#8) k)) s

/-- Step 2: text engines, decoders and the encoder discard what is the partition's (R487). -/
def resetEngines (s : State) (part : BitVec 4) : State :=
  let mine := fun (x : Session) => x.job / 2 ^ 32 == part.toNat
  let frs := ((s.enc.bound ++ s.enc.ones).filter mine).map (·.fr)
  { s with
    enc := { s.enc with
      bound := s.enc.bound.filter fun x => !mine x, ones := s.enc.ones.filter fun x => !mine x
      turn := s.enc.turn.filter fun f => !frs.contains f }
    text := { s.text with
      queue := s.text.queue.filter (·.part != part), ctxs := s.text.ctxs.filter (·.part != part)
      toks := s.text.toks.map fun t => match t.req with
        | some r => if r.part == part then .idle else t
        | none => t } }

/-- Step 3: every slot of the partition is invalidated. -/
def resetSlots (s : State) (part : BitVec 4) : State :=
  let s := purgePart s part
  { s with asids := s.asids.map fun (k, a) => if slotInPart s part (BitVec.ofNat 12 k) then (k, { a with v := false }) else (k, a) }

/-- Step 4: its lines are written back and invalidated, its pins, frame rings and vocabularies are gone. -/
def resetLines (s : State) (part : BitVec 4) : State :=
  let s := ((s.pinned.filter (·.2 == part)).map (·.1)).foldl unpinFrame s
  let s := ((s.owners.filter (·.2 == part)).map (·.1)).foldl (fun s f => if isPinned s (4096 * f) then s else flushFrame s f) s
  { s with
    frames := s.frames.filter (·.2.reg.part != part)
    text := { s.text with vocabs := s.text.vocabs.filter (·.2.part != part) } }

/-- Each vector once, in the order of its first interrupt. -/
def firstOnly (l : List (BitVec 4 × BitVec 6)) : List (BitVec 4 × BitVec 6) :=
  l.foldl (fun acc v => if acc.contains v then acc else acc ++ [v]) []

/-- Step 6: the acknowledgement, then the interrupts held (R488). -/
def resetAck (s : State) (part : BitVec 4) : State :=
  { s with pkg := { s.pkg with
    acks := s.pkg.acks ++ [part], resets := mdel s.pkg.resets part.toNat
    sentIrq := s.pkg.sentIrq ++ firstOnly (s.pkg.heldIrq.filter (·.1 == part))
    heldIrq := s.pkg.heldIrq.filter (·.1 != part) } }

/-- Whether an encoder frame of the partition is still in encoding. -/
def encodes (s : State) (part : BitVec 4) : Bool := s.enc.busy.any fun b => b.ses.job / 2 ^ 32 == part.toNat

/-- The reset goes on as far as it can: each step once the one before it has completed. -/
def advanceReset (s : State) (part : BitVec 4) : State :=
  if (mget s.pkg.resets part.toNat).isNone || hasOpenJob s part then s
  else
    let s := resetEngines (setReset s part 2) part
    if encodes s part then s else resetAck (freshKey (resetLines (resetSlots s part) part) part) part

/-- R487: a reset begins, or one that is under way goes on; a second request is merged with the first (R488). -/
def startReset (s : State) (part : BitVec 4) : State :=
  if (mget s.pkg.parts part.toNat).isNone then s
  else if (mget s.pkg.resets part.toNat).isSome then advanceReset s part
  else advanceReset (resetJobs (setReset s part 1) part) part

def execPartitionReset (part : BitVec 4) (s : State) : Host.Outcome State Fault Refusal := .next (startReset s part)

/-! ### Machine checks (R489) -/

/-- SOURCE of R489. -/
def mcCode : McSource → Nat
  | .gddr => 0
  | .llc => 1
  | .tag => 2
  | .scratchpad => 3
  | .istore => 4
  | .link => 5

/-- The address field of a record. -/
def mcAddr (src : McSource) (a : W64) : W64 :=
  match src with
  | .gddr => w64 (fld a 5 47 * 32)
  | .llc => w64 (fld a 5 47 * 32)
  | .tag => w64 (fld a 5 47 * 32)
  | .scratchpad => w64 (fld a 0 21)
  | .istore => w64 (fld a 0 21)
  | .link => 0#64

/-- The job that a machine check cancels: of the unit on the core at place, for a scratchpad or an instruction store. -/
def mcJob (s : State) (src : McSource) (place : W16) (job : Option W32) : Option W32 :=
  let u := s.unit
  let onCore := u.run != .none && u.run != .completed && u.run != .saved && place.toNat == 16 * u.cr.cluster.toNat + u.cr.pcore.toNat
  match src with
  | .scratchpad => if onCore then some u.cr.job else job
  | .istore => if onCore then some u.cr.job else job
  | _ => job

/-- The sector in error, of an error in the bytes of memory. -/
def mcSector (src : McSource) (a : W64) : Option Nat :=
  match src with
  | .gddr => some (fld a 5 47)
  | .llc => some (fld a 5 47)
  | .tag => some (fld a 5 47)
  | _ => none

/-- Its bytes are lost from now on: no agent receives them (R489). -/
def markBad (s : State) (src : McSource) (a : W64) : State :=
  match mcSector src a with
  | some i => { s with bad := if s.bad.contains i then s.bad else s.bad ++ [i] }
  | none => s

/-- R489: a new error has a record, and raises the partition's vector; the job that met it, or that meets it later, is cancelled with status
0x05. -/
def execMachineCheck (src : McSource) (part : Option (BitVec 4)) (addr : W64) (place : W16) (job : Option W32) (s : State) :
    Host.Outcome State Fault Refusal :=
  .next
    (let known := (mcSector src addr).any s.bad.contains
    let s := { markBad s src addr with owed := s.owed.filter fun o => some (some o.1, some o.2.1, o.2.2) != some (part, job, fld addr 5 47) }
    match part with
    | none => { s with pkg := { s.pkg with logged := s.pkg.logged + 1 } }
    | some p =>
      let j := (mcJob s src place job).filter fun n => (mget s.jobs (jobKey p n)).isSome
      let id := match j with
        | some n => w64 (p.toNat * 2 ^ 60 + n.toNat)
        | none => 0#64
      let r : McRecord := ⟨p, mcAddr src addr, mcCode src, place, id, s.time⟩
      let s := if known then s else raiseIrq { s with pkg := { s.pkg with mchecks := s.pkg.mchecks ++ [r] } } p Config.mcVector
      match j with
      | some n => point s (settle (cancelJob s (jobKey p n) 5#8) (jobKey p n))
      | none => s)

/-- R489: corrected errors are counted per source. -/
def execCorrectedError (src : McSource) (s : State) : Host.Outcome State Fault Refusal :=
  .next { s with pkg := { s.pkg with corrected := s.pkg.corrected.setIfInBounds (mcCode src) (nth s.pkg.corrected.toList (mcCode src) 0 + 1) } }

/-! ### Landings, endpoints, links, domain (R491 to R493, R323) -/

/-- R492: a landing of an index from 1 on is registered. -/
def execLandingRegister (l : LandingReg) (s : State) : Host.Outcome State Fault Refusal :=
  .next
    (if l.index == 0#16 then s
    else { s with pkg := { s.pkg with
      landings := s.pkg.landings.filter (fun x => !(x.1.part == l.part && x.1.index == l.index)) ++ [(l, 0, false)] } })

/-- R493: the supervisor writes an entry of its endpoint table. -/
def execEndpointTableWrite (part : BitVec 4) (epid : W16) (peer : Nat) (s : State) : Host.Outcome State Fault Refusal :=
  .next { s with pkg := { s.pkg with
    endpoints := s.pkg.endpoints.filter (fun e => !(e.1 == part && e.2.1 == epid)) ++ [(part, epid, peer)] } }

/-- R491: firmware forms a domain and numbers this package. -/
def execDomainForm (self : BitVec 5) (members : BitVec 32) (s : State) : Host.Outcome State Fault Refusal :=
  .next (if members.getLsbD self.toNat then { s with pkg := { s.pkg with number := self, members := members } } else s)

/-- R491: a package leaves; accesses to its numbers abort from now on, and flush reads to it end. Where it is this package, those to
every peer end. -/
def execPackageLeaveDomain (package : BitVec 5) (s : State) : Host.Outcome State Fault Refusal :=
  .next
    (if package == s.pkg.number then
      pruneFences ({ s with pkg := { s.pkg with number := 0#5, members := 0#32 } }.mapUnit fun u =>
        { u with posted := u.posted.filter (32 ≤ ·.package) })
    else
      pruneFences
        ({ s with pkg := { s.pkg with members := s.pkg.members &&& ~~~BitVec.ofNat 32 (2 ^ package.toNat) } }.mapUnit fun u =>
          { u with posted := u.posted.filter (·.package != package.toNat) }))

/-- R323: the host port's link goes down. -/
def execLinkDown (s : State) : Host.Outcome State Fault Refusal := .next { s with pkg := { s.pkg with link := false } }

/-- R323: the host port's link comes up. -/
def execLinkUp (s : State) : Host.Outcome State Fault Refusal := .next { s with pkg := { s.pkg with link := true } }

/-! ### Boot, attestation, power (R494 to R497) -/

/-- R494: a firmware image whose signature holds against the public key whose digest is fused. -/
def firmwareOk (firmware : List Byte) (x : Signed) : Bool :=
  sha3_512 x.key == Config.fusedKeyDigest && mldsaVerify x.key firmware x.sig

/-- R494: at power-on the boot ROM verifies and measures the firmware and runs it, or the device stays in recovery. -/
def execBoot (firmware : List Byte) (version : Nat) (signature : Signed) (s : State) : Host.Outcome State Fault Refusal :=
  .next
    (if s.pkg.boot != .off then s
    else if firmwareOk firmware signature && Config.fusedVersion ≤ version then
      measure { s with pkg := { s.pkg with boot := .running } } 0 firmware
    else { s with pkg := { s.pkg with boot := .recovery } })

/-- The fields of a descriptor in their order (R484). -/
def descFields (d : PartDesc) : List Nat :=
  [d.part.toNat, d.clusters.toNat, d.memQ, d.llcQ, d.pinQ, d.asidBase, d.asidCount] ++ d.weight.toList ++ d.tl.toList
    ++ [d.mcRing.toNat, d.mcLen, d.faultRing.toNat, d.faultLen, d.evRing.toNat, d.evLen]

/-- R495: a signed report; its parts in the order of the rule. -/
def execAttestationRequest (nonce : BitVec 512) (part : BitVec 4) (s : State) : Host.Outcome State Fault Refusal :=
  .next
    (match s.pkg.boot, mget s.pkg.parts part.toNat with
    | .running, some d =>
      let body := leBytes nonce.toNat 64 ++ (s.pkg.meas.toList.flatMap fun m => leBytes m.toNat 64) ++ [s.unit.cr.stepping]
        ++ leBytes Config.fusedVersion 8 ++ sha3_512 (Config.descBytes (descFields d))
      { s with pkg := { s.pkg with reports := s.pkg.reports ++ [body ++ Config.attestSign body] } }
    | _, _ => s)

/-- R496: firmware, where it runs, sets a package power limit from 600 W to 1,400 W. -/
def execPowerLimitSet (watts : Nat) (s : State) : Host.Outcome State Fault Refusal :=
  .next (if s.pkg.boot == .running && 600 ≤ watts && watts ≤ 1400 then { s with pkg := { s.pkg with power := watts } } else s)

/-- R497: all issue stops, and every partition's reset begins. -/
def execThermalTrip (s : State) : Host.Outcome State Fault Refusal :=
  .next (s.pkg.parts.foldl (fun s p => startReset s p.2.part) { s with pkg := { s.pkg with tripped := true } })

/-- R496: without main power nothing of the state stays; images and coming events are the world's, and a free value is used
once only. -/
def execMainPowerLoss (s : State) : Host.Outcome State Fault Refusal :=
  .next { State.reset with images := s.images, agenda := s.agenda, freeCtr := s.freeCtr }

end Sys2Proof.Machine
end

