-- ==== Sys2Proof/Machine/Scalar.lean ====
section
/-! DEFINITION. The integer, compare, predicate and move instructions of the scalar slot (R60 to R68). Each slot meaning
says what its slot does in a bundle; each exec meaning issues the slot alone, as a bundle of its own. -/

namespace Sys2Proof.Machine

/-- D := A + B (R60). -/
def slotAdd (d a b : BitVec 6) (g : BitVec 4) (s : State) : SlotAnswer :=
  alu g d 1 a b (fun x y => x + y) s

def execAdd (d a b : BitVec 6) (g : BitVec 4) (s : State) : Host.Outcome State Fault Refusal :=
  issueOne false false 1 false (slotAdd d a b g) s

/-- D := A − B (R60). -/
def slotSub (d a b : BitVec 6) (g : BitVec 4) (s : State) : SlotAnswer :=
  alu g d 1 a b (fun x y => x - y) s

def execSub (d a b : BitVec 6) (g : BitVec 4) (s : State) : Host.Outcome State Fault Refusal :=
  issueOne false false 1 false (slotSub d a b g) s

/-- D := A AND B (R60). -/
def slotAnd (d a b : BitVec 6) (g : BitVec 4) (s : State) : SlotAnswer :=
  alu g d 1 a b (fun x y => x &&& y) s

def execAnd (d a b : BitVec 6) (g : BitVec 4) (s : State) : Host.Outcome State Fault Refusal :=
  issueOne false false 1 false (slotAnd d a b g) s

/-- D := A OR B (R60). -/
def slotOr (d a b : BitVec 6) (g : BitVec 4) (s : State) : SlotAnswer :=
  alu g d 1 a b (fun x y => x ||| y) s

def execOr (d a b : BitVec 6) (g : BitVec 4) (s : State) : Host.Outcome State Fault Refusal :=
  issueOne false false 1 false (slotOr d a b g) s

/-- D := A XOR B (R60). -/
def slotXor (d a b : BitVec 6) (g : BitVec 4) (s : State) : SlotAnswer :=
  alu g d 1 a b (fun x y => x ^^^ y) s

def execXor (d a b : BitVec 6) (g : BitVec 4) (s : State) : Host.Outcome State Fault Refusal :=
  issueOne false false 1 false (slotXor d a b g) s

/-- D := A AND NOT B (R60). -/
def slotAndn (d a b : BitVec 6) (g : BitVec 4) (s : State) : SlotAnswer :=
  alu g d 1 a b (fun x y => x &&& ~~~y) s

def execAndn (d a b : BitVec 6) (g : BitVec 4) (s : State) : Host.Outcome State Fault Refusal :=
  issueOne false false 1 false (slotAndn d a b g) s

/-- D := A shifted left by B[5:0] (R60). -/
def slotShl (d a b : BitVec 6) (g : BitVec 4) (s : State) : SlotAnswer :=
  alu g d 1 a b (fun x y => x <<< (y.toNat % 64)) s

def execShl (d a b : BitVec 6) (g : BitVec 4) (s : State) : Host.Outcome State Fault Refusal :=
  issueOne false false 1 false (slotShl d a b g) s

/-- D := A shifted logically right by B[5:0] (R60). -/
def slotShr (d a b : BitVec 6) (g : BitVec 4) (s : State) : SlotAnswer :=
  alu g d 1 a b (fun x y => x >>> (y.toNat % 64)) s

def execShr (d a b : BitVec 6) (g : BitVec 4) (s : State) : Host.Outcome State Fault Refusal :=
  issueOne false false 1 false (slotShr d a b g) s

/-- D := A shifted arithmetically right by B[5:0] (R60). -/
def slotSar (d a b : BitVec 6) (g : BitVec 4) (s : State) : SlotAnswer :=
  alu g d 1 a b (fun x y => x.sshiftRight (y.toNat % 64)) s

def execSar (d a b : BitVec 6) (g : BitVec 4) (s : State) : Host.Outcome State Fault Refusal :=
  issueOne false false 1 false (slotSar d a b g) s

/-- D := A rotated left by B[5:0] (R60). -/
def slotRotl (d a b : BitVec 6) (g : BitVec 4) (s : State) : SlotAnswer :=
  alu g d 1 a b (fun x y => x.rotateLeft (y.toNat % 64)) s

def execRotl (d a b : BitVec 6) (g : BitVec 4) (s : State) : Host.Outcome State Fault Refusal :=
  issueOne false false 1 false (slotRotl d a b g) s

/-- D := (A × B)[63:0] (R60). -/
def slotMul (d a b : BitVec 6) (g : BitVec 4) (s : State) : SlotAnswer :=
  alu g d 3 a b (fun x y => x * y) s

def execMul (d a b : BitVec 6) (g : BitVec 4) (s : State) : Host.Outcome State Fault Refusal :=
  issueOne false false 1 false (slotMul d a b g) s

/-- D := (A × B)[127:64], signed (R60). -/
def slotMulh (d a b : BitVec 6) (g : BitVec 4) (s : State) : SlotAnswer :=
  alu g d 3 a b (fun x y => BitVec.ofInt 64 (x.toInt * y.toInt / 2 ^ 64)) s

def execMulh (d a b : BitVec 6) (g : BitVec 4) (s : State) : Host.Outcome State Fault Refusal :=
  issueOne false false 1 false (slotMulh d a b g) s

/-- D := (A × B)[127:64], unsigned (R60). -/
def slotMulhu (d a b : BitVec 6) (g : BitVec 4) (s : State) : SlotAnswer :=
  alu g d 3 a b (fun x y => w64 (x.toNat * y.toNat / 2 ^ 64)) s

def execMulhu (d a b : BitVec 6) (g : BitVec 4) (s : State) : Host.Outcome State Fault Refusal :=
  issueOne false false 1 false (slotMulhu d a b g) s

/-- Signed quotient (R61). -/
def slotDiv (d a b : BitVec 6) (g : BitVec 4) (s : State) : SlotAnswer :=
  alu g d 12 a b (fun x y => divS x y) s

def execDiv (d a b : BitVec 6) (g : BitVec 4) (s : State) : Host.Outcome State Fault Refusal :=
  issueOne false false 1 false (slotDiv d a b g) s

/-- Unsigned quotient (R61). -/
def slotDivu (d a b : BitVec 6) (g : BitVec 4) (s : State) : SlotAnswer :=
  alu g d 12 a b (fun x y => divU x y) s

def execDivu (d a b : BitVec 6) (g : BitVec 4) (s : State) : Host.Outcome State Fault Refusal :=
  issueOne false false 1 false (slotDivu d a b g) s

/-- Signed remainder (R61). -/
def slotRem (d a b : BitVec 6) (g : BitVec 4) (s : State) : SlotAnswer :=
  alu g d 12 a b (fun x y => remS x y) s

def execRem (d a b : BitVec 6) (g : BitVec 4) (s : State) : Host.Outcome State Fault Refusal :=
  issueOne false false 1 false (slotRem d a b g) s

/-- Unsigned remainder (R61). -/
def slotRemu (d a b : BitVec 6) (g : BitVec 4) (s : State) : SlotAnswer :=
  alu g d 12 a b (fun x y => remU x y) s

def execRemu (d a b : BitVec 6) (g : BitVec 4) (s : State) : Host.Outcome State Fault Refusal :=
  issueOne false false 1 false (slotRemu d a b g) s

/-- Signed minimum (R60). -/
def slotMin (d a b : BitVec 6) (g : BitVec 4) (s : State) : SlotAnswer :=
  alu g d 1 a b (fun x y => if x.toInt ≤ y.toInt then x else y) s

def execMin (d a b : BitVec 6) (g : BitVec 4) (s : State) : Host.Outcome State Fault Refusal :=
  issueOne false false 1 false (slotMin d a b g) s

/-- Signed maximum (R60). -/
def slotMax (d a b : BitVec 6) (g : BitVec 4) (s : State) : SlotAnswer :=
  alu g d 1 a b (fun x y => if x.toInt ≤ y.toInt then y else x) s

def execMax (d a b : BitVec 6) (g : BitVec 4) (s : State) : Host.Outcome State Fault Refusal :=
  issueOne false false 1 false (slotMax d a b g) s

/-- Unsigned minimum (R60). -/
def slotMinu (d a b : BitVec 6) (g : BitVec 4) (s : State) : SlotAnswer :=
  alu g d 1 a b (fun x y => if x.toNat ≤ y.toNat then x else y) s

def execMinu (d a b : BitVec 6) (g : BitVec 4) (s : State) : Host.Outcome State Fault Refusal :=
  issueOne false false 1 false (slotMinu d a b g) s

/-- Unsigned maximum (R60). -/
def slotMaxu (d a b : BitVec 6) (g : BitVec 4) (s : State) : SlotAnswer :=
  alu g d 1 a b (fun x y => if x.toNat ≤ y.toNat then y else x) s

def execMaxu (d a b : BitVec 6) (g : BitVec 4) (s : State) : Host.Outcome State Fault Refusal :=
  issueOne false false 1 false (slotMaxu d a b g) s

/-- R62, with the value of R22 or R28. -/
def slotAddi (d a i : BitVec 6) (g : BitVec 4) (x : Option Limm) (s : State) : SlotAnswer :=
  aluImm g d a (immValue i x) (fun v w => v + w) s

def execAddi (d a i : BitVec 6) (g : BitVec 4) (x : Option Limm) (s : State) : Host.Outcome State Fault Refusal :=
  issueOne false false (wordsOf x) false (slotAddi d a i g x) s

/-- R62, with the value of R22 or R28. -/
def slotAndi (d a i : BitVec 6) (g : BitVec 4) (x : Option Limm) (s : State) : SlotAnswer :=
  aluImm g d a (immValue i x) (fun v w => v &&& w) s

def execAndi (d a i : BitVec 6) (g : BitVec 4) (x : Option Limm) (s : State) : Host.Outcome State Fault Refusal :=
  issueOne false false (wordsOf x) false (slotAndi d a i g x) s

/-- R62, with the value of R22 or R28. -/
def slotOri (d a i : BitVec 6) (g : BitVec 4) (x : Option Limm) (s : State) : SlotAnswer :=
  aluImm g d a (immValue i x) (fun v w => v ||| w) s

def execOri (d a i : BitVec 6) (g : BitVec 4) (x : Option Limm) (s : State) : Host.Outcome State Fault Refusal :=
  issueOne false false (wordsOf x) false (slotOri d a i g x) s

/-- R62, with the value of R22 or R28. -/
def slotXori (d a i : BitVec 6) (g : BitVec 4) (x : Option Limm) (s : State) : SlotAnswer :=
  aluImm g d a (immValue i x) (fun v w => v ^^^ w) s

def execXori (d a i : BitVec 6) (g : BitVec 4) (x : Option Limm) (s : State) : Host.Outcome State Fault Refusal :=
  issueOne false false (wordsOf x) false (slotXori d a i g x) s

/-- A shifted left by n (R62). -/
def slotShli (d a i : BitVec 6) (g : BitVec 4) (s : State) : SlotAnswer :=
  alu1 g d a (fun v => v <<< (i.toNat)) s

def execShli (d a i : BitVec 6) (g : BitVec 4) (s : State) : Host.Outcome State Fault Refusal :=
  issueOne false false 1 false (slotShli d a i g) s

/-- A shifted logically right by n (R62). -/
def slotShri (d a i : BitVec 6) (g : BitVec 4) (s : State) : SlotAnswer :=
  alu1 g d a (fun v => v >>> (i.toNat)) s

def execShri (d a i : BitVec 6) (g : BitVec 4) (s : State) : Host.Outcome State Fault Refusal :=
  issueOne false false 1 false (slotShri d a i g) s

/-- A shifted arithmetically right by n (R62). -/
def slotSari (d a i : BitVec 6) (g : BitVec 4) (s : State) : SlotAnswer :=
  alu1 g d a (fun v => v.sshiftRight i.toNat) s

def execSari (d a i : BitVec 6) (g : BitVec 4) (s : State) : Host.Outcome State Fault Refusal :=
  issueOne false false 1 false (slotSari d a i g) s

/-- Leading zeros; 64 for 0 (R63). -/
def slotClz (d a : BitVec 6) (g : BitVec 4) (s : State) : SlotAnswer :=
  alu1 g d a (fun v => w64 (leadingZeros v)) s

def execClz (d a : BitVec 6) (g : BitVec 4) (s : State) : Host.Outcome State Fault Refusal :=
  issueOne false false 1 false (slotClz d a g) s

/-- Trailing zeros; 64 for 0 (R63). -/
def slotCtz (d a : BitVec 6) (g : BitVec 4) (s : State) : SlotAnswer :=
  alu1 g d a (fun v => w64 (trailingZeros v)) s

def execCtz (d a : BitVec 6) (g : BitVec 4) (s : State) : Host.Outcome State Fault Refusal :=
  issueOne false false 1 false (slotCtz d a g) s

/-- One bits (R63). -/
def slotPopc (d a : BitVec 6) (g : BitVec 4) (s : State) : SlotAnswer :=
  alu1 g d a (fun v => w64 (onesOf v)) s

def execPopc (d a : BitVec 6) (g : BitVec 4) (s : State) : Host.Outcome State Fault Refusal :=
  issueOne false false 1 false (slotPopc d a g) s

/-- A[w − 1:0] sign-extended, w − 1 in imm6 (R63). -/
def slotSext (d a w : BitVec 6) (g : BitVec 4) (s : State) : SlotAnswer :=
  alu1 g d a (fun v => signExt64 v.toNat (w.toNat + 1)) s

def execSext (d a w : BitVec 6) (g : BitVec 4) (s : State) : Host.Outcome State Fault Refusal :=
  issueOne false false 1 false (slotSext d a w g) s

/-- A[w − 1:0] zero-extended, w − 1 in imm6 (R63). -/
def slotZext (d a w : BitVec 6) (g : BitVec 4) (s : State) : SlotAnswer :=
  alu1 g d a (fun v => w64 (v.toNat % 2 ^ (w.toNat + 1))) s

def execZext (d a w : BitVec 6) (g : BitVec 4) (s : State) : Host.Outcome State Fault Refusal :=
  issueOne false false 1 false (slotZext d a w g) s

/-- R63. -/
def slotBext (d a b : BitVec 6) (g : BitVec 4) (s : State) : SlotAnswer :=
  alu g d 1 a b extractField s

def execBext (d a b : BitVec 6) (g : BitVec 4) (s : State) : Host.Outcome State Fault Refusal :=
  issueOne false false 1 false (slotBext d a b g) s

/-- R63: D is a source too. -/
def slotBins (d a b : BitVec 6) (g : BitVec 4) (s : State) : SlotAnswer :=
  guarded g s fun s => .go (pushG s 1 d (insertField (gReg s.unit d) (gReg s.unit a) (gReg s.unit b)))

def execBins (d a b : BitVec 6) (g : BitVec 4) (s : State) : Host.Outcome State Fault Refusal :=
  issueOne false false 1 false (slotBins d a b g) s

/-- D := A + (B << 0) (R64). -/
def slotAdds0 (d a b : BitVec 6) (g : BitVec 4) (s : State) : SlotAnswer :=
  alu g d 1 a b (fun x y => x + (y <<< (0 : Nat))) s

def execAdds0 (d a b : BitVec 6) (g : BitVec 4) (s : State) : Host.Outcome State Fault Refusal :=
  issueOne false false 1 false (slotAdds0 d a b g) s

/-- D := A + (B << 1) (R64). -/
def slotAdds1 (d a b : BitVec 6) (g : BitVec 4) (s : State) : SlotAnswer :=
  alu g d 1 a b (fun x y => x + (y <<< (1 : Nat))) s

def execAdds1 (d a b : BitVec 6) (g : BitVec 4) (s : State) : Host.Outcome State Fault Refusal :=
  issueOne false false 1 false (slotAdds1 d a b g) s

/-- D := A + (B << 2) (R64). -/
def slotAdds2 (d a b : BitVec 6) (g : BitVec 4) (s : State) : SlotAnswer :=
  alu g d 1 a b (fun x y => x + (y <<< (2 : Nat))) s

def execAdds2 (d a b : BitVec 6) (g : BitVec 4) (s : State) : Host.Outcome State Fault Refusal :=
  issueOne false false 1 false (slotAdds2 d a b g) s

/-- D := A + (B << 3) (R64). -/
def slotAdds3 (d a b : BitVec 6) (g : BitVec 4) (s : State) : SlotAnswer :=
  alu g d 1 a b (fun x y => x + (y <<< (3 : Nat))) s

def execAdds3 (d a b : BitVec 6) (g : BitVec 4) (s : State) : Host.Outcome State Fault Refusal :=
  issueOne false false 1 false (slotAdds3 d a b g) s

/-- R65. -/
def slotCmp (c p : BitVec 3) (a b : BitVec 6) (g : BitVec 4) (s : State) : SlotAnswer :=
  guarded g s fun s => .go (pushP s p (condHolds c (gReg s.unit a) (gReg s.unit b)))

def execCmp (c p : BitVec 3) (a b : BitVec 6) (g : BitVec 4) (s : State) : Host.Outcome State Fault Refusal :=
  issueOne false false 1 false (slotCmp c p a b g) s

/-- R65. -/
def slotCmpi (c p : BitVec 3) (a i : BitVec 6) (g : BitVec 4) (x : Option Limm) (s : State) : SlotAnswer :=
  guarded g s fun s => .go (pushP s p (condHolds c (gReg s.unit a) (immValue i x)))

def execCmpi (c p : BitVec 3) (a i : BitVec 6) (g : BitVec 4) (x : Option Limm) (s : State) : Host.Outcome State Fault Refusal :=
  issueOne false false (wordsOf x) false (slotCmpi c p a i g x) s

/-- Pd := F[2 × Pa + Pb] (R67). -/
def slotPlog (d : BitVec 3) (f : BitVec 4) (a b : BitVec 3) (g : BitVec 4) (s : State) : SlotAnswer :=
  guarded g s fun s => .go (pushP s d (f.getLsbD (2 * bit01 (pReg s.unit a) + bit01 (pReg s.unit b))))

def execPlog (d : BitVec 3) (f : BitVec 4) (a b : BitVec 3) (g : BitVec 4) (s : State) : Host.Outcome State Fault Refusal :=
  issueOne false false 1 false (slotPlog d f a b g) s

/-- D := (Pp = 1) ? A : B, B one of G0 to G7 (R68). -/
def slotSel (d a : BitVec 6) (p b : BitVec 3) (g : BitVec 4) (s : State) : SlotAnswer :=
  guarded g s fun s => .go (pushG s 1 d (if pReg s.unit p then gReg s.unit a else gReg s.unit (b.setWidth 6)))

def execSel (d a : BitVec 6) (p b : BitVec 3) (g : BitVec 4) (s : State) : Host.Outcome State Fault Refusal :=
  issueOne false false 1 false (slotSel d a p b g) s

/-- D := SEXT64(imm12) (R64). -/
def slotMovw (d : BitVec 6) (i : BitVec 12) (g : BitVec 4) (s : State) : SlotAnswer :=
  guarded g s fun s => .go (pushG s 1 d (i.signExtend 64))

def execMovw (d : BitVec 6) (i : BitVec 12) (g : BitVec 4) (s : State) : Host.Outcome State Fault Refusal :=
  issueOne false false 1 false (slotMovw d i g) s

end Sys2Proof.Machine
end

