-- ==== Sys2Proof/Machine/Vector.lean ====
section
/-! DEFINITION. The vector instructions that reach no memory (R124 to R144, R148, R149). -/

namespace Sys2Proof.Machine

/-- R130. -/
def slotVadd (d a b : BitVec 5) (m : BitVec 3) (z : Bool) (t : BitVec 2) (s : State) : SlotAnswer :=
  float2 d a b m z t 3 (fun f x y => addF f x y) s

def execVadd (d a b : BitVec 5) (m : BitVec 3) (z : Bool) (t : BitVec 2) (s : State) : Host.Outcome State Fault Refusal :=
  issueOne false false 1 false (slotVadd d a b m z t) s

/-- R130. -/
def slotVsub (d a b : BitVec 5) (m : BitVec 3) (z : Bool) (t : BitVec 2) (s : State) : SlotAnswer :=
  float2 d a b m z t 3 (fun f x y => subF f x y) s

def execVsub (d a b : BitVec 5) (m : BitVec 3) (z : Bool) (t : BitVec 2) (s : State) : Host.Outcome State Fault Refusal :=
  issueOne false false 1 false (slotVsub d a b m z t) s

/-- R130. -/
def slotVmul (d a b : BitVec 5) (m : BitVec 3) (z : Bool) (t : BitVec 2) (s : State) : SlotAnswer :=
  float2 d a b m z t 3 (fun f x y => mulF f x y) s

def execVmul (d a b : BitVec 5) (m : BitVec 3) (z : Bool) (t : BitVec 2) (s : State) : Host.Outcome State Fault Refusal :=
  issueOne false false 1 false (slotVmul d a b m z t) s

/-- RNE_F(x × y + d), one rounding (R130). -/
def slotVfma (d a b : BitVec 5) (m : BitVec 3) (z : Bool) (t : BitVec 2) (s : State) : SlotAnswer :=
  float3 d a b m z t s

def execVfma (d a b : BitVec 5) (m : BitVec 3) (z : Bool) (t : BitVec 2) (s : State) : Host.Outcome State Fault Refusal :=
  issueOne false false 1 false (slotVfma d a b m z t) s

/-- R130. -/
def slotVmax (d a b : BitVec 5) (m : BitVec 3) (z : Bool) (t : BitVec 2) (s : State) : SlotAnswer :=
  float2 d a b m z t 3 (fun f x y => minmaxF f true x y) s

def execVmax (d a b : BitVec 5) (m : BitVec 3) (z : Bool) (t : BitVec 2) (s : State) : Host.Outcome State Fault Refusal :=
  issueOne false false 1 false (slotVmax d a b m z t) s

/-- R130. -/
def slotVmin (d a b : BitVec 5) (m : BitVec 3) (z : Bool) (t : BitVec 2) (s : State) : SlotAnswer :=
  float2 d a b m z t 3 (fun f x y => minmaxF f false x y) s

def execVmin (d a b : BitVec 5) (m : BitVec 3) (z : Bool) (t : BitVec 2) (s : State) : Host.Outcome State Fault Refusal :=
  issueOne false false 1 false (slotVmin d a b m z t) s

/-- R130. -/
def slotVabs (d a : BitVec 5) (m : BitVec 3) (z : Bool) (t : BitVec 2) (s : State) : SlotAnswer :=
  float1 d a m z t (fun f x => x % f.signBit) s

def execVabs (d a : BitVec 5) (m : BitVec 3) (z : Bool) (t : BitVec 2) (s : State) : Host.Outcome State Fault Refusal :=
  issueOne false false 1 false (slotVabs d a m z t) s

/-- R130. -/
def slotVneg (d a : BitVec 5) (m : BitVec 3) (z : Bool) (t : BitVec 2) (s : State) : SlotAnswer :=
  float1 d a m z t negF s

def execVneg (d a : BitVec 5) (m : BitVec 3) (z : Bool) (t : BitVec 2) (s : State) : Host.Outcome State Fault Refusal :=
  issueOne false false 1 false (slotVneg d a m z t) s

/-- R131. -/
def slotVcmp (c : BitVec 2) (k : BitVec 3) (a b : BitVec 5) (m : BitVec 3) (z : Bool) (s : State) : SlotAnswer :=
  compareLanes c k a b m z 3 vcmpHolds s

def execVcmp (c : BitVec 2) (k : BitVec 3) (a b : BitVec 5) (m : BitVec 3) (z : Bool) (s : State) : Host.Outcome State Fault Refusal :=
  issueOne false false 1 false (slotVcmp c k a b m z) s

/-- R134. -/
def slotViadd (d a b : BitVec 5) (m : BitVec 3) (z : Bool) (t : BitVec 2) (s : State) : SlotAnswer :=
  int2 d a b m z t (fun w x y => (x + y) % 2 ^ w) s

def execViadd (d a b : BitVec 5) (m : BitVec 3) (z : Bool) (t : BitVec 2) (s : State) : Host.Outcome State Fault Refusal :=
  issueOne false false 1 false (slotViadd d a b m z t) s

/-- R134. -/
def slotVisub (d a b : BitVec 5) (m : BitVec 3) (z : Bool) (t : BitVec 2) (s : State) : SlotAnswer :=
  int2 d a b m z t (fun w x y => (x + 2 ^ w - y) % 2 ^ w) s

def execVisub (d a b : BitVec 5) (m : BitVec 3) (z : Bool) (t : BitVec 2) (s : State) : Host.Outcome State Fault Refusal :=
  issueOne false false 1 false (slotVisub d a b m z t) s

/-- R134. -/
def slotVimul (d a b : BitVec 5) (m : BitVec 3) (z : Bool) (t : BitVec 2) (s : State) : SlotAnswer :=
  int2 d a b m z t (fun w x y => x * y % 2 ^ w) s

def execVimul (d a b : BitVec 5) (m : BitVec 3) (z : Bool) (t : BitVec 2) (s : State) : Host.Outcome State Fault Refusal :=
  issueOne false false 1 false (slotVimul d a b m z t) s

/-- R134. -/
def slotVimulh (d a b : BitVec 5) (m : BitVec 3) (z : Bool) (t : BitVec 2) (s : State) : SlotAnswer :=
  int2 d a b m z t (fun w x y => loBits (sint w x * sint w y / 2 ^ w) w) s

def execVimulh (d a b : BitVec 5) (m : BitVec 3) (z : Bool) (t : BitVec 2) (s : State) : Host.Outcome State Fault Refusal :=
  issueOne false false 1 false (slotVimulh d a b m z t) s

/-- R134. -/
def slotVand (d a b : BitVec 5) (m : BitVec 3) (z : Bool) (t : BitVec 2) (s : State) : SlotAnswer :=
  int2 d a b m z t (fun _ x y => x &&& y) s

def execVand (d a b : BitVec 5) (m : BitVec 3) (z : Bool) (t : BitVec 2) (s : State) : Host.Outcome State Fault Refusal :=
  issueOne false false 1 false (slotVand d a b m z t) s

/-- R134. -/
def slotVor (d a b : BitVec 5) (m : BitVec 3) (z : Bool) (t : BitVec 2) (s : State) : SlotAnswer :=
  int2 d a b m z t (fun _ x y => x ||| y) s

def execVor (d a b : BitVec 5) (m : BitVec 3) (z : Bool) (t : BitVec 2) (s : State) : Host.Outcome State Fault Refusal :=
  issueOne false false 1 false (slotVor d a b m z t) s

/-- R134. -/
def slotVxor (d a b : BitVec 5) (m : BitVec 3) (z : Bool) (t : BitVec 2) (s : State) : SlotAnswer :=
  int2 d a b m z t (fun _ x y => x ^^^ y) s

def execVxor (d a b : BitVec 5) (m : BitVec 3) (z : Bool) (t : BitVec 2) (s : State) : Host.Outcome State Fault Refusal :=
  issueOne false false 1 false (slotVxor d a b m z t) s

/-- R134. -/
def slotVshl (d a b : BitVec 5) (m : BitVec 3) (z : Bool) (t : BitVec 2) (s : State) : SlotAnswer :=
  int2 d a b m z t (fun w x y => x * 2 ^ (y % w) % 2 ^ w) s

def execVshl (d a b : BitVec 5) (m : BitVec 3) (z : Bool) (t : BitVec 2) (s : State) : Host.Outcome State Fault Refusal :=
  issueOne false false 1 false (slotVshl d a b m z t) s

/-- R134. -/
def slotVshr (d a b : BitVec 5) (m : BitVec 3) (z : Bool) (t : BitVec 2) (s : State) : SlotAnswer :=
  int2 d a b m z t (fun w x y => x / 2 ^ (y % w)) s

def execVshr (d a b : BitVec 5) (m : BitVec 3) (z : Bool) (t : BitVec 2) (s : State) : Host.Outcome State Fault Refusal :=
  issueOne false false 1 false (slotVshr d a b m z t) s

/-- R134. -/
def slotVsar (d a b : BitVec 5) (m : BitVec 3) (z : Bool) (t : BitVec 2) (s : State) : SlotAnswer :=
  int2 d a b m z t (fun w x y => loBits (sint w x / 2 ^ (y % w)) w) s

def execVsar (d a b : BitVec 5) (m : BitVec 3) (z : Bool) (t : BitVec 2) (s : State) : Host.Outcome State Fault Refusal :=
  issueOne false false 1 false (slotVsar d a b m z t) s

/-- R134. -/
def slotVimin (d a b : BitVec 5) (m : BitVec 3) (z : Bool) (t : BitVec 2) (s : State) : SlotAnswer :=
  int2 d a b m z t (fun w x y => if sint w x ≤ sint w y then x else y) s

def execVimin (d a b : BitVec 5) (m : BitVec 3) (z : Bool) (t : BitVec 2) (s : State) : Host.Outcome State Fault Refusal :=
  issueOne false false 1 false (slotVimin d a b m z t) s

/-- R134. -/
def slotVimax (d a b : BitVec 5) (m : BitVec 3) (z : Bool) (t : BitVec 2) (s : State) : SlotAnswer :=
  int2 d a b m z t (fun w x y => if sint w x ≤ sint w y then y else x) s

def execVimax (d a b : BitVec 5) (m : BitVec 3) (z : Bool) (t : BitVec 2) (s : State) : Host.Outcome State Fault Refusal :=
  issueOne false false 1 false (slotVimax d a b m z t) s

/-- R131, OP 0x15. -/
def slotVicmpSigned (c : BitVec 2) (k : BitVec 3) (a b : BitVec 5) (m : BitVec 3) (z : Bool) (s : State) : SlotAnswer :=
  compareLanes c k a b m z 2 vicmpSignedHolds s

def execVicmpSigned (c : BitVec 2) (k : BitVec 3) (a b : BitVec 5) (m : BitVec 3) (z : Bool) (s : State) : Host.Outcome State Fault Refusal :=
  issueOne false false 1 false (slotVicmpSigned c k a b m z) s

/-- R131, OP 0x16. -/
def slotVicmpUnsigned (c : BitVec 2) (k : BitVec 3) (a b : BitVec 5) (m : BitVec 3) (z : Bool) (s : State) : SlotAnswer :=
  compareLanes c k a b m z 2 vicmpUnsignedHolds s

def execVicmpUnsigned (c : BitVec 2) (k : BitVec 3) (a b : BitVec 5) (m : BitVec 3) (z : Bool) (s : State) : Host.Outcome State Fault Refusal :=
  issueOne false false 1 false (slotVicmpUnsigned c k a b m z) s

/-- R135. -/
def slotVcvt (d a e : BitVec 5) (m : BitVec 3) (z : Bool) (s : State) : SlotAnswer :=
  lanes d m z 3 (fun i => convertLane e.toNat (lane (vReg s.unit a) i)) s

def execVcvt (d a e : BitVec 5) (m : BitVec 3) (z : Bool) (s : State) : Host.Outcome State Fault Refusal :=
  issueOne false false 1 false (slotVcvt d a e m z) s

/-- R136: the elements of part p of VD. -/
def slotVpack (d a : BitVec 5) (f : BitVec 3) (p : BitVec 2) (m : BitVec 3) (z : Bool) (s : State) : SlotAnswer :=
  let mask := mReg s.unit m
  let w := packWidth f
  let x := vReg s.unit a
  pushLanes d 3 w (64 * p.toNat * w)
    (fun i => if mask.getLsbD i then some (narrow f (lane x i)) else if z then some (0, 0#6) else none) s

def execVpack (d a : BitVec 5) (f : BitVec 3) (p : BitVec 2) (m : BitVec 3) (z : Bool) (s : State) : Host.Outcome State Fault Refusal :=
  issueOne false false 1 false (slotVpack d a f p m z) s

/-- R136: lanes of VD from part p of VA. -/
def slotVunpk (d a : BitVec 5) (f : BitVec 3) (p : BitVec 2) (m : BitVec 3) (z : Bool) (s : State) : SlotAnswer :=
  let w := packWidth f
  lanes d m z 3 (fun i => widen f (elemOf (vReg s.unit a) w (64 * p.toNat + i))) s

def execVunpk (d a : BitVec 5) (f : BitVec 3) (p : BitVec 2) (m : BitVec 3) (z : Bool) (s : State) : Host.Outcome State Fault Refusal :=
  issueOne false false 1 false (slotVunpk d a f p m z) s

/-- R137. -/
def slotVexp2 (d a : BitVec 5) (m : BitVec 3) (z : Bool) (s : State) : SlotAnswer :=
  lanes d m z 8 (fun i => exp2F (lane (vReg s.unit a) i)) s

def execVexp2 (d a : BitVec 5) (m : BitVec 3) (z : Bool) (s : State) : Host.Outcome State Fault Refusal :=
  issueOne false false 1 false (slotVexp2 d a m z) s

/-- R137. -/
def slotVlog2 (d a : BitVec 5) (m : BitVec 3) (z : Bool) (s : State) : SlotAnswer :=
  lanes d m z 8 (fun i => log2F (lane (vReg s.unit a) i)) s

def execVlog2 (d a : BitVec 5) (m : BitVec 3) (z : Bool) (s : State) : Host.Outcome State Fault Refusal :=
  issueOne false false 1 false (slotVlog2 d a m z) s

/-- R137. -/
def slotVrcp (d a : BitVec 5) (m : BitVec 3) (z : Bool) (s : State) : SlotAnswer :=
  lanes d m z 8 (fun i => rcpF (lane (vReg s.unit a) i)) s

def execVrcp (d a : BitVec 5) (m : BitVec 3) (z : Bool) (s : State) : Host.Outcome State Fault Refusal :=
  issueOne false false 1 false (slotVrcp d a m z) s

/-- R137. -/
def slotVrsq (d a : BitVec 5) (m : BitVec 3) (z : Bool) (s : State) : SlotAnswer :=
  lanes d m z 8 (fun i => rsqF (lane (vReg s.unit a) i)) s

def execVrsq (d a : BitVec 5) (m : BitVec 3) (z : Bool) (s : State) : Host.Outcome State Fault Refusal :=
  issueOne false false 1 false (slotVrsq d a m z) s

/-- The sum of R111 in every lane (R139). -/
def slotVrsum (d a : BitVec 5) (m : BitVec 3) (s : State) : SlotAnswer :=
  let (xs, nan) := enabledOrZero s.unit a m
  let (c, fl) := treeSum 6 xs
  pushLanes d 6 32 0 (fun i => some (c.headD 0, if i == 0 then fl ||| nan else 0#6)) s

def execVrsum (d a : BitVec 5) (m : BitVec 3) (s : State) : Host.Outcome State Fault Refusal :=
  issueOne false false 1 false (slotVrsum d a m) s

/-- R140. -/
def slotVrmaxI (d a : BitVec 5) (m : BitVec 3) (s : State) : SlotAnswer :=
  extremeLane d a m true s

def execVrmaxI (d a : BitVec 5) (m : BitVec 3) (s : State) : Host.Outcome State Fault Refusal :=
  issueOne false false 1 false (slotVrmaxI d a m) s

/-- R140. -/
def slotVrminI (d a : BitVec 5) (m : BitVec 3) (s : State) : SlotAnswer :=
  extremeLane d a m false s

def execVrminI (d a : BitVec 5) (m : BitVec 3) (s : State) : Host.Outcome State Fault Refusal :=
  issueOne false false 1 false (slotVrminI d a m) s

/-- Inclusive prefix sums of R112 (R139). -/
def slotVscan (d a : BitVec 5) (m : BitVec 3) (s : State) : SlotAnswer :=
  let (xs, nan) := enabledOrZero s.unit a m
  let (ys, fl) := prefixSums xs
  pushLanes d 6 32 0 (fun i => some (ys.getD i 0, if i == 0 then fl ||| nan else 0#6)) s

def execVscan (d a : BitVec 5) (m : BitVec 3) (s : State) : Host.Outcome State Fault Refusal :=
  issueOne false false 1 false (slotVscan d a m) s

/-- R141: residual target in lane 0, index in lane 1. -/
def slotVsrch (d a b : BitVec 5) (m : BitVec 3) (s : State) : SlotAnswer :=
  let mask := mReg s.unit m
  let va := vReg s.unit a
  let t := lane (vReg s.unit b) 0
  let (res, idx, fl) := searchRow mask va t
  twoLanes d 4 res idx (fl ||| nanSeen (num32 t :: (enabledNums mask va))) s

def execVsrch (d a b : BitVec 5) (m : BitVec 3) (s : State) : Host.Outcome State Fault Refusal :=
  issueOne false false 1 false (slotVsrch d a b m) s

/-- R142. -/
def slotVrand (d : BitVec 5) (b m : BitVec 3) (z : Bool) (s : State) : SlotAnswer :=
  lanes d m z 5 (fun i => (drawLane s.unit b i, 0#6)) s

def execVrand (d : BitVec 5) (b m : BitVec 3) (z : Bool) (s : State) : Host.Outcome State Fault Refusal :=
  issueOne false false 1 false (slotVrand d b m z) s

/-- R142: FP32 in [0, 1). -/
def slotVrandF (d : BitVec 5) (b m : BitVec 3) (z : Bool) (s : State) : SlotAnswer :=
  lanes d m z 5 (fun i => (rne32 (.fin false (drawLane s.unit b i / 256) (-24)), 0#6)) s

def execVrandF (d : BitVec 5) (b m : BitVec 3) (z : Bool) (s : State) : Host.Outcome State Fault Refusal :=
  issueOne false false 1 false (slotVrandF d b m z) s

/-- R143. -/
def slotVperm (d a b : BitVec 5) (m : BitVec 3) (z : Bool) (s : State) : SlotAnswer :=
  lanes d m z 2 (fun i => (lane (vReg s.unit a) (lane (vReg s.unit b) i % 64), 0#6)) s

def execVperm (d a b : BitVec 5) (m : BitVec 3) (z : Bool) (s : State) : Host.Outcome State Fault Refusal :=
  issueOne false false 1 false (slotVperm d a b m z) s

/-- R143. -/
def slotVbcast (d b : BitVec 5) (m : BitVec 3) (z : Bool) (t : BitVec 2) (s : State) : SlotAnswer :=
  lanes d m z 2 (fun _ => (spread t (gReg s.unit (b.setWidth 6)).toNat, 0#6)) s

def execVbcast (d b : BitVec 5) (m : BitVec 3) (z : Bool) (t : BitVec 2) (s : State) : Host.Outcome State Fault Refusal :=
  issueOne false false 1 false (slotVbcast d b m z t) s

/-- R143. -/
def slotVslide (d a b : BitVec 5) (m : BitVec 3) (z : Bool) (s : State) : SlotAnswer :=
  let sh := (gReg s.unit (b.setWidth 6)).toInt
  lanes d m z 2 (fun i =>
    let k := (i : Int) + sh
    (if 0 ≤ k && k ≤ 63 then lane (vReg s.unit a) k.toNat else 0, 0#6)) s

def execVslide (d a b : BitVec 5) (m : BitVec 3) (z : Bool) (s : State) : Host.Outcome State Fault Refusal :=
  issueOne false false 1 false (slotVslide d a b m z) s

/-- R143: every lane is written. -/
def slotVsel (d a b : BitVec 5) (m : BitVec 3) (s : State) : SlotAnswer :=
  let mask := mReg s.unit m
  pushLanes d 2 32 0 (fun i => some (lane (vReg s.unit (if mask.getLsbD i then a else b)) i, 0#6)) s

def execVsel (d a b : BitVec 5) (m : BitVec 3) (s : State) : Host.Outcome State Fault Refusal :=
  issueOne false false 1 false (slotVsel d a b m) s

/-- R132. -/
def slotMlog (f : BitVec 2) (k a b : BitVec 3) (s : State) : SlotAnswer :=
  let x := mReg s.unit a
  let y := mReg s.unit b
  let r := match f.toNat with
    | 0 => x &&& y
    | 1 => x ||| y
    | 2 => x ^^^ y
    | _ => x &&& ~~~y
  .go (s.mapUnit fun u => push u 1 (.m k (BitVec.allOnes 64) r) 0#6)

def execMlog (f : BitVec 2) (k a b : BitVec 3) (s : State) : Host.Outcome State Fault Refusal :=
  issueOne false false 1 false (slotMlog f k a b) s

/-- R133. -/
def slotMpop (d : BitVec 5) (a m : BitVec 3) (s : State) : SlotAnswer :=
  .go (pushG s 2 (d.setWidth 6) (w64 (onesOf (mReg s.unit a &&& mReg s.unit m))))

def execMpop (d : BitVec 5) (a m : BitVec 3) (s : State) : Host.Outcome State Fault Refusal :=
  issueOne false false 1 false (slotMpop d a m) s

/-- R133: 64 where no bit is set. -/
def slotMfirst (d : BitVec 5) (a m : BitVec 3) (s : State) : SlotAnswer :=
  .go (pushG s 2 (d.setWidth 6) (w64 (trailingZeros (mReg s.unit a &&& mReg s.unit m))))

def execMfirst (d : BitVec 5) (a m : BitVec 3) (s : State) : Host.Outcome State Fault Refusal :=
  issueOne false false 1 false (slotMfirst d a m) s

/-- R144: a stable partition of the lane numbers. -/
def slotVpart (d : BitVec 5) (m : BitVec 3) (s : State) : SlotAnswer :=
  let order := partitionOrder (mReg s.unit m)
  pushLanes d 4 32 0 (fun i => some (order.getD i 0, 0#6)) s

def execVpart (d : BitVec 5) (m : BitVec 3) (s : State) : Host.Outcome State Fault Refusal :=
  issueOne false false 1 false (slotVpart d m) s

/-- R144: the position of each lane in that order. -/
def slotVpartInv (d : BitVec 5) (m : BitVec 3) (s : State) : SlotAnswer :=
  let mask := mReg s.unit m
  pushLanes d 4 32 0 (fun i => some (partitionPlace mask i, 0#6)) s

def execVpartInv (d : BitVec 5) (m : BitVec 3) (s : State) : Host.Outcome State Fault Refusal :=
  issueOne false false 1 false (slotVpartInv d m) s

/-- R148. -/
def slotVmovg (d j b : BitVec 5) (s : State) : SlotAnswer :=
  let w := gReg s.unit (b.setWidth 6)
  pushLanes d 2 32 0 (fun i => if i == 2 * j.toNat then some (fld w 0 32, 0#6) else if i == 2 * j.toNat + 1 then some (fld w 32 32, 0#6) else none) s

def execVmovg (d j b : BitVec 5) (s : State) : Host.Outcome State Fault Refusal :=
  issueOne false false 1 false (slotVmovg d j b) s

/-- R148. -/
def slotVextr (d a j : BitVec 5) (s : State) : SlotAnswer :=
  .go (pushG s 2 (d.setWidth 6) (w64 (lane (vReg s.unit a) (2 * j.toNat + 1) * 2 ^ 32 + lane (vReg s.unit a) (2 * j.toNat))))

def execVextr (d a j : BitVec 5) (s : State) : Host.Outcome State Fault Refusal :=
  issueOne false false 1 false (slotVextr d a j) s

/-- R149. -/
def slotAccept (d a b : BitVec 5) (m : BitVec 3) (s : State) : SlotAnswer :=
  let (n, rej, nan) := acceptRow (mReg s.unit m) (vReg s.unit a) (vReg s.unit b) (vReg s.unit d)
  twoLanes d 6 n rej nan s

def execAccept (d a b : BitVec 5) (m : BitVec 3) (s : State) : Host.Outcome State Fault Refusal :=
  issueOne false false 1 false (slotAccept d a b m) s

end Sys2Proof.Machine
end

