-- ==== Sys2Proof/Machine/Issue.lean ====
section
/-! DEFINITION. The sequencer's events: the bundle at the program counter reaches issue, results land, time passes, and a
block timeout is taken (R30 to R36, R213, R363). -/

namespace Sys2Proof.Machine

/-- What the slot at index idx of a bundle does; an event is no slot. -/
def slotOp (i : Instr) (idx : Nat) : Option BundleOp :=
  match i with
  | .add d a b g => some ⟨idx, false, false, false, slotAdd d a b g⟩
  | .sub d a b g => some ⟨idx, false, false, false, slotSub d a b g⟩
  | .and d a b g => some ⟨idx, false, false, false, slotAnd d a b g⟩
  | .or d a b g => some ⟨idx, false, false, false, slotOr d a b g⟩
  | .xor d a b g => some ⟨idx, false, false, false, slotXor d a b g⟩
  | .andn d a b g => some ⟨idx, false, false, false, slotAndn d a b g⟩
  | .shl d a b g => some ⟨idx, false, false, false, slotShl d a b g⟩
  | .shr d a b g => some ⟨idx, false, false, false, slotShr d a b g⟩
  | .sar d a b g => some ⟨idx, false, false, false, slotSar d a b g⟩
  | .rotl d a b g => some ⟨idx, false, false, false, slotRotl d a b g⟩
  | .mul d a b g => some ⟨idx, false, false, false, slotMul d a b g⟩
  | .mulh d a b g => some ⟨idx, false, false, false, slotMulh d a b g⟩
  | .mulhu d a b g => some ⟨idx, false, false, false, slotMulhu d a b g⟩
  | .div d a b g => some ⟨idx, false, false, false, slotDiv d a b g⟩
  | .divu d a b g => some ⟨idx, false, false, false, slotDivu d a b g⟩
  | .rem d a b g => some ⟨idx, false, false, false, slotRem d a b g⟩
  | .remu d a b g => some ⟨idx, false, false, false, slotRemu d a b g⟩
  | .min d a b g => some ⟨idx, false, false, false, slotMin d a b g⟩
  | .max d a b g => some ⟨idx, false, false, false, slotMax d a b g⟩
  | .minu d a b g => some ⟨idx, false, false, false, slotMinu d a b g⟩
  | .maxu d a b g => some ⟨idx, false, false, false, slotMaxu d a b g⟩
  | .addi d a i g x => some ⟨idx, false, false, false, slotAddi d a i g x⟩
  | .andi d a i g x => some ⟨idx, false, false, false, slotAndi d a i g x⟩
  | .ori d a i g x => some ⟨idx, false, false, false, slotOri d a i g x⟩
  | .xori d a i g x => some ⟨idx, false, false, false, slotXori d a i g x⟩
  | .shli d a i g => some ⟨idx, false, false, false, slotShli d a i g⟩
  | .shri d a i g => some ⟨idx, false, false, false, slotShri d a i g⟩
  | .sari d a i g => some ⟨idx, false, false, false, slotSari d a i g⟩
  | .clz d a g => some ⟨idx, false, false, false, slotClz d a g⟩
  | .ctz d a g => some ⟨idx, false, false, false, slotCtz d a g⟩
  | .popc d a g => some ⟨idx, false, false, false, slotPopc d a g⟩
  | .sext d a w g => some ⟨idx, false, false, false, slotSext d a w g⟩
  | .zext d a w g => some ⟨idx, false, false, false, slotZext d a w g⟩
  | .bext d a b g => some ⟨idx, false, false, false, slotBext d a b g⟩
  | .bins d a b g => some ⟨idx, false, false, false, slotBins d a b g⟩
  | .adds0 d a b g => some ⟨idx, false, false, false, slotAdds0 d a b g⟩
  | .adds1 d a b g => some ⟨idx, false, false, false, slotAdds1 d a b g⟩
  | .adds2 d a b g => some ⟨idx, false, false, false, slotAdds2 d a b g⟩
  | .adds3 d a b g => some ⟨idx, false, false, false, slotAdds3 d a b g⟩
  | .cmp c p a b g => some ⟨idx, false, false, false, slotCmp c p a b g⟩
  | .cmpi c p a i g x => some ⟨idx, false, false, false, slotCmpi c p a i g x⟩
  | .plog d f a b g => some ⟨idx, false, false, false, slotPlog d f a b g⟩
  | .sel d a p b g => some ⟨idx, false, false, false, slotSel d a p b g⟩
  | .movw d i g => some ⟨idx, false, false, false, slotMovw d i g⟩
  | .br o g => some ⟨idx, false, false, false, slotBr o g⟩
  | .call o g => some ⟨idx, false, false, false, slotCall o g⟩
  | .jr a g => some ⟨idx, false, false, false, slotJr a g⟩
  | .jt d i g => some ⟨idx, false, false, false, slotJt d i g⟩
  | .loop n a d g => some ⟨idx, false, false, false, slotLoop n a d g⟩
  | .loopi n c d g x => some ⟨idx, false, false, false, slotLoopi n c d g x⟩
  | .trap c g => some ⟨idx, false, false, false, slotTrap c g⟩
  | .brk c g => some ⟨idx, false, false, false, slotBrk c g⟩
  | .exit g => some ⟨idx, false, false, false, slotExit g⟩
  | .yield g => some ⟨idx, false, false, false, slotYield g⟩
  | .trigger g => some ⟨idx, false, false, false, slotTrigger g⟩
  | .waitdep g => some ⟨idx, false, false, true, slotWaitdep g⟩
  | .phase g => some ⟨idx, false, false, true, slotPhase g⟩
  | .wait nl ns nc nt g => some ⟨idx, false, false, true, slotWait nl ns nc nt g⟩
  | .fence scope mask g => some ⟨idx, false, false, false, slotFence scope mask g⟩
  | .mfcr d n g => some ⟨idx, false, false, false, slotMfcr d n g⟩
  | .mtcr d n g => some ⟨idx, false, false, false, slotMtcr d n g⟩
  | .ldl d a c z g x => some ⟨idx, false, false, false, slotLdl d a c z g x⟩
  | .stl d a c z g x => some ⟨idx, false, true, false, slotStl d a c z g x⟩
  | .ldg d a c z g x => some ⟨idx, false, false, false, slotLdg d a c z g x⟩
  | .stg d a c z g x => some ⟨idx, false, false, false, slotStg d a c z g x⟩
  | .red d a c z g x => some ⟨idx, false, false, false, slotRed d a c z g x⟩
  | .atomAdd d a c w g x => some ⟨idx, false, false, false, slotAtomAdd d a c w g x⟩
  | .atomMin d a c w g x => some ⟨idx, false, false, false, slotAtomMin d a c w g x⟩
  | .atomMax d a c w g x => some ⟨idx, false, false, false, slotAtomMax d a c w g x⟩
  | .atomAnd d a c w g x => some ⟨idx, false, false, false, slotAtomAnd d a c w g x⟩
  | .atomOr d a c w g x => some ⟨idx, false, false, false, slotAtomOr d a c w g x⟩
  | .atomXor d a c w g x => some ⟨idx, false, false, false, slotAtomXor d a c w g x⟩
  | .atomSwap d a c w g x => some ⟨idx, false, false, false, slotAtomSwap d a c w g x⟩
  | .atomCas d a c w g x => some ⟨idx, false, false, false, slotAtomCas d a c w g x⟩
  | .atomw d a c g x => some ⟨idx, false, false, false, slotAtomw d a c g x⟩
  | .vadd d a b m z t => some ⟨idx, false, false, false, slotVadd d a b m z t⟩
  | .vsub d a b m z t => some ⟨idx, false, false, false, slotVsub d a b m z t⟩
  | .vmul d a b m z t => some ⟨idx, false, false, false, slotVmul d a b m z t⟩
  | .vfma d a b m z t => some ⟨idx, false, false, false, slotVfma d a b m z t⟩
  | .vmax d a b m z t => some ⟨idx, false, false, false, slotVmax d a b m z t⟩
  | .vmin d a b m z t => some ⟨idx, false, false, false, slotVmin d a b m z t⟩
  | .vabs d a m z t => some ⟨idx, false, false, false, slotVabs d a m z t⟩
  | .vneg d a m z t => some ⟨idx, false, false, false, slotVneg d a m z t⟩
  | .vcmp c k a b m z => some ⟨idx, false, false, false, slotVcmp c k a b m z⟩
  | .viadd d a b m z t => some ⟨idx, false, false, false, slotViadd d a b m z t⟩
  | .visub d a b m z t => some ⟨idx, false, false, false, slotVisub d a b m z t⟩
  | .vimul d a b m z t => some ⟨idx, false, false, false, slotVimul d a b m z t⟩
  | .vimulh d a b m z t => some ⟨idx, false, false, false, slotVimulh d a b m z t⟩
  | .vand d a b m z t => some ⟨idx, false, false, false, slotVand d a b m z t⟩
  | .vor d a b m z t => some ⟨idx, false, false, false, slotVor d a b m z t⟩
  | .vxor d a b m z t => some ⟨idx, false, false, false, slotVxor d a b m z t⟩
  | .vshl d a b m z t => some ⟨idx, false, false, false, slotVshl d a b m z t⟩
  | .vshr d a b m z t => some ⟨idx, false, false, false, slotVshr d a b m z t⟩
  | .vsar d a b m z t => some ⟨idx, false, false, false, slotVsar d a b m z t⟩
  | .vimin d a b m z t => some ⟨idx, false, false, false, slotVimin d a b m z t⟩
  | .vimax d a b m z t => some ⟨idx, false, false, false, slotVimax d a b m z t⟩
  | .vicmpSigned c k a b m z => some ⟨idx, false, false, false, slotVicmpSigned c k a b m z⟩
  | .vicmpUnsigned c k a b m z => some ⟨idx, false, false, false, slotVicmpUnsigned c k a b m z⟩
  | .vcvt d a e m z => some ⟨idx, false, false, false, slotVcvt d a e m z⟩
  | .vpack d a f p m z => some ⟨idx, false, false, false, slotVpack d a f p m z⟩
  | .vunpk d a f p m z => some ⟨idx, false, false, false, slotVunpk d a f p m z⟩
  | .vexp2 d a m z => some ⟨idx, false, false, false, slotVexp2 d a m z⟩
  | .vlog2 d a m z => some ⟨idx, false, false, false, slotVlog2 d a m z⟩
  | .vrcp d a m z => some ⟨idx, false, false, false, slotVrcp d a m z⟩
  | .vrsq d a m z => some ⟨idx, false, false, false, slotVrsq d a m z⟩
  | .vrsum d a m => some ⟨idx, false, false, false, slotVrsum d a m⟩
  | .vrmaxI d a m => some ⟨idx, false, false, false, slotVrmaxI d a m⟩
  | .vrminI d a m => some ⟨idx, false, false, false, slotVrminI d a m⟩
  | .vscan d a m => some ⟨idx, false, false, false, slotVscan d a m⟩
  | .vsrch d a b m => some ⟨idx, false, false, false, slotVsrch d a b m⟩
  | .vrand d b m z => some ⟨idx, false, false, false, slotVrand d b m z⟩
  | .vrandF d b m z => some ⟨idx, false, false, false, slotVrandF d b m z⟩
  | .vperm d a b m z => some ⟨idx, false, false, false, slotVperm d a b m z⟩
  | .vbcast d b m z t => some ⟨idx, false, false, false, slotVbcast d b m z t⟩
  | .vslide d a b m z => some ⟨idx, false, false, false, slotVslide d a b m z⟩
  | .vsel d a b m => some ⟨idx, false, false, false, slotVsel d a b m⟩
  | .mlog f k a b => some ⟨idx, false, false, false, slotMlog f k a b⟩
  | .mpop d a m => some ⟨idx, false, false, false, slotMpop d a m⟩
  | .mfirst d a m => some ⟨idx, false, false, false, slotMfirst d a m⟩
  | .vpart d m => some ⟨idx, false, false, false, slotVpart d m⟩
  | .vpartInv d m => some ⟨idx, false, false, false, slotVpartInv d m⟩
  | .vldl d c b m z x => some ⟨idx, false, false, false, slotVldl d c b m z x⟩
  | .vstl d c b m x => some ⟨idx, false, true, false, slotVstl d c b m x⟩
  | .vgath d a b m z x => some ⟨idx, false, false, false, slotVgath d a b m z x⟩
  | .vscat d a b m x => some ⟨idx, false, true, false, slotVscat d a b m x⟩
  | .vldg d c b m z x => some ⟨idx, false, false, false, slotVldg d c b m z x⟩
  | .vstg d c b m x => some ⟨idx, false, false, false, slotVstg d c b m x⟩
  | .vmovg d j b => some ⟨idx, false, false, false, slotVmovg d j b⟩
  | .vextr d a j => some ⟨idx, false, false, false, slotVextr d a j⟩
  | .accept d a b m => some ⟨idx, false, false, false, slotAccept d a b m⟩
  | .mpush p g => some ⟨idx, false, false, true, slotMpush p g⟩
  | .mshift g => some ⟨idx, false, false, false, slotMshift g⟩
  | .mpreld p v g => some ⟨idx, false, false, false, slotMpreld p v g⟩
  | .mdrain p v g => some ⟨idx, false, false, false, slotMdrain p v g⟩
  | .mzero p g => some ⟨idx, false, false, false, slotMzero p g⟩
  | .mcfg n g => some ⟨idx, false, false, false, slotMcfg n g⟩
  | .mfeedRing f n g => some ⟨idx, false, false, false, slotMfeedRing f n g⟩
  | .mfeedMesh f n g => some ⟨idx, false, false, false, slotMfeedMesh f n g⟩
  | .mfeedHandle f n g => some ⟨idx, false, false, false, slotMfeedHandle f n g⟩
  | .slw a g x => some ⟨idx, false, false, false, slotSlw a g x⟩
  | .sln a g x => some ⟨idx, false, false, false, slotSln a g x⟩
  | .slzp a e g x => some ⟨idx, false, false, false, slotSlzp a e g x⟩
  | .slset a e i g => some ⟨idx, false, false, false, slotSlset a e i g⟩
  | .cpyG2l a b c g => some ⟨idx, true, false, false, slotCpyG2l a b c g⟩
  | .cpyL2g a b c g => some ⟨idx, true, false, false, slotCpyL2g a b c g⟩
  | .cpyL2l a b c g => some ⟨idx, true, false, false, slotCpyL2l a b c g⟩
  | .cpyCl a b c g => some ⟨idx, true, false, false, slotCpyCl a b c g⟩
  | .cpyPe a b c g => some ⟨idx, true, false, false, slotCpyPe a b c g⟩
  | .qcfg q a g => some ⟨idx, true, false, false, slotQcfg q a g⟩
  | .qcfgOff q g => some ⟨idx, true, false, false, slotQcfgOff q g⟩
  | .qresv q d c g => some ⟨idx, true, false, true, slotQresv q d c g⟩
  | .qcommit q c g => some ⟨idx, true, false, false, slotQcommit q c g⟩
  | .qawait q d c g => some ⟨idx, true, false, true, slotQawait q d c g⟩
  | .qrel q c g => some ⟨idx, true, false, false, slotQrel q c g⟩
  | .qtick q d g => some ⟨idx, true, false, true, slotQtick q d g⟩
  | .qfill q a g => some ⟨idx, true, false, false, slotQfill q a g⟩
  | .qtest q p t g => some ⟨idx, true, false, false, slotQtest q p t g⟩
  | .qfence m g => some ⟨idx, true, false, false, slotQfence m g⟩
  | .route a b c g => some ⟨idx, true, false, false, slotRoute a b c g⟩
  | .rtcfg a b c g => some ⟨idx, true, false, false, slotRtcfg a b c g⟩
  | .rasm a b c g => some ⟨idx, true, false, false, slotRasm a b c g⟩
  | .rret a b c g => some ⟨idx, true, false, false, slotRret a b c g⟩
  | .kvadv a b c g => some ⟨idx, true, false, false, slotKvadv a b c g⟩
  | .kvtrunc a b c g => some ⟨idx, true, false, false, slotKvtrunc a b c g⟩
  | .kvmap a b c g => some ⟨idx, true, false, false, slotKvmap a b c g⟩
  | .pnlook a b c g => some ⟨idx, true, false, false, slotPnlook a b c g⟩
  | .pnins a b c g => some ⟨idx, true, false, false, slotPnins a b c g⟩
  | .pnrel a b c g => some ⟨idx, true, false, false, slotPnrel a b c g⟩
  | .pxtile a b c g => some ⟨idx, true, false, false, slotPxtile a b c g⟩
  | .encfrm a b c g => some ⟨idx, true, false, false, slotEncfrm a b c g⟩
  | .bundleIssue .. | .resultLand .. | .timeTick .. | .crLdepthWrite .. | .crLstartLendWrite .. | .crBankfWrite ..
  | .crQidxWrite .. | .crGxmodeWrite .. | .crCbarWrite .. | .barrierRecordCommit .. | .crDrawhiWrite ..
  | .crFlagsetWrite .. | .feederPanelFetch .. | .meshFlitInject .. | .copyBegin .. | .copyPerform ..
  | .peerChunkArrival .. | .peerChunkFail .. | .engineFire .. | .blockTimeout .. | .rtcfgExec .. | .rasmExec ..
  | .routeBegin .. | .routeOqSlot .. | .routePacketFill .. | .rretExec .. | .returnAccept .. | .routeTimeout ..
  | .kvmapExec .. | .kvadvExec .. | .kvtruncExec .. | .pnlookExec .. | .pninsExec .. | .pnrelExec .. | .pxtileFire ..
  | .encfrmBind .. | .encfrmOne .. | .encfrmUnbind .. | .encoderTakeFrame .. | .bitstreamRecordWrite ..
  | .loadResponse .. | .storeAck .. | .sliceReadRequest .. | .mergeGroupWait .. | .sectorFillComplete ..
  | .sliceWriteRequest .. | .sliceAtomic .. | .redContribution .. | .redWaitOpen .. | .pinSliceAccess ..
  | .clusterStopDelivery .. | .flushReadReturn .. | .hostPortError .. | .faultRecordRelease .. | .zeroFillDone ..
  | .assign .. | .release .. | .invalRange .. | .invalAsid .. | .invalAll .. | .twrite .. | .resume .. | .abort ..
  | .translationCommandComplete .. | .graphSubmit .. | .gangStart .. | .unitComplete .. | .completionRecordWrite ..
  | .triggerMark .. | .cancel .. | .jobCreate .. | .jobClose .. | .schedulingTick .. | .streamGraphInstantiate ..
  | .drainDivert .. | .contextSave .. | .preemptFallback .. | .stubOverrun .. | .gangResume .. | .unitResume ..
  | .debugHalt .. | .pantryRegister .. | .pantryPurge .. | .mirotRequest .. | .tokenise .. | .tokeniserSlotCommit ..
  | .detokeniseSlot .. | .vocabLoad .. | .vocabUnload .. | .templateRegister .. | .uetFlowFail ..
  | .frameRingRegister .. | .frameRingReset .. | .frameRingUnregister .. | .partitionCreate .. | .partitionChange ..
  | .partitionReset .. | .machineCheck .. | .pinRange .. | .unpinRange .. | .landingRegister ..
  | .endpointTableWrite .. | .sliceStatsClear .. | .packageLeaveDomain .. | .boot .. | .attestationRequest ..
  | .powerLimitSet .. | .thermalTrip .. | .linkDown .. | .linkUp .. | .domainForm .. | .correctedError ..
  | .mainPowerLoss .. => none

/-- The words of the instruction store from the program counter on, as far as a bundle can reach (R13, R48). -/
def wordsAhead (u : Unit) : List W32 := (upto 0 9).map fun k => fetchWord u (u.pc.toNat + 4 * k)

/-- The words that the store still holds from the program counter on (R17). -/
def wordsLeft (u : Unit) : Nat := (storeBytes - u.pc.toNat + 3) / 4

/-- The bundle at the program counter, framed (R13, R16, R17). -/
def framed (u : Unit) : Except (Nat × DecodeError) (List BundleSlot × Nat) := frameBundle (wordsAhead u) (wordsLeft u)

/-- The slots of a framed bundle. -/
def bundleOps (b : List BundleSlot) : List BundleOp := b.filterMap fun x => slotOp x.instr x.index

/-- Whether the sequencer takes the bundle at the program counter: a unit runs, nothing diverts it there, and the package has not
tripped (R375, R497). -/
def mayIssue (s : State) : Bool := s.unit.run == .running && !s.pkg.tripped && (divertDue s).isNone && s.owed.isEmpty

/-- R30: the bundle at the program counter reaches issue. -/
def execBundleIssue (s : State) : Host.Outcome State Fault Refusal :=
  .next
    (if !mayIssue s then s
    else
      match framed s.unit with
      | .error (k, e) => trapHere s k e.cause 0#12
      | .ok (b, n) => issueOps (bundleOps b) n s)

/-- R32, R34: every exposed result that is due lands. -/
def execResultLand (s : State) : Host.Outcome State Fault Refusal := .next (landDue s)

/-- R363: the time base advances by one nanosecond; each 1,000,000 ns the dispatcher's tick comes next (R371). -/
def execTimeTick (s : State) : Host.Outcome State Fault Refusal :=
  .next { s with
    time := s.time + 1
    agenda := if (s.time + 1) % Config.tickNs == 0 then .schedulingTick :: s.agenda else s.agenda }

/-- CODE of a block timeout at this instruction (R213). -/
def blockCode (i : Instr) : BitVec 12 :=
  match i with
  | .qresv q .. => q.setWidth 12
  | .qawait q .. => q.setWidth 12
  | .qtick q .. => q.setWidth 12
  | _ => 0#12

/-- Whether the counted stall at the program counter has lasted longer than CR.BLOCKLIM (R213), as the bundle finds it: a write
that is due counts (log 80). -/
def blockedTooLong (s : State) : Bool :=
  let u := s.unit
  let limit := (landDue s).unit.cr.blocklim
  u.run == .running && limit != 0#32
    && (match u.ctx.since with
      | some t => limit.toNat < s.time - t
      | none => false)

/-- The lowest counted blocking slot of the bundle at the program counter, with its instruction. -/
def blockingSlot (s : State) : Option BundleSlot :=
  match framed s.unit with
  | .error _ => none
  | .ok (b, n) =>
    ((countedBlockers (atIssue n s) (bundleOps b)).head?).bind fun op => b.find? fun x => x.index == op.idx

/-- The block timeout of the bundle at the program counter, where it is due and the bundle is not covered by a request's divert
(R213, R375). -/
def timeoutTrap (s : State) : Option State :=
  if blockedTooLong s && (divertDue s).isNone then
    (blockingSlot s).map fun x => trapHere s x.index 0x1E (blockCode x.instr)
  else none

/-- R213: the block-timeout trap. The bundle does not issue. -/
def execBlockTimeout (s : State) : Host.Outcome State Fault Refusal := .next ((timeoutTrap s).getD s)

/-- R379: a request that finds no covered bundle, or a counted stall at an uncovered one, falls back to a freeze. Where a block timeout
meets the request there, its freeze serves both (R383). -/
def execPreemptFallback (s : State) : Host.Outcome State Fault Refusal :=
  .next
    (let u := s.unit
    let late := match u.request with
      | some r => Config.fallbackCycles ≤ u.cyc - r
      | none => false
    if requested u && (divertDue s).isNone && (late || u.ctx.since.isSome) then
      (timeoutTrap s).getD (freeze s .preempt u.pc)
    else s)

end Sys2Proof.Machine
end

