-- ==== Sys2Proof/Machine/Records.lean ====
section
/-! DEFINITION. The bytes of the records that the model holds field by field (R195, R323, R361, R380, R383, R384, R489). Where the
manual gives a record's layout but not the next place in its ring, these are the bytes that system software reads there (logs 22,
66, 67). -/

namespace Sys2Proof.Machine

/-- The 128 bytes of a job record, with the fields that the dispatcher keeps (R361). -/
def jobBytes (j : Job) : List Byte :=
  leBytes (j.r.part.toNat * 2 ^ 60 + j.r.job.toNat) 8
    ++ [BitVec.ofNat 8 (bit01 j.r.stream), j.r.sc.setWidth 8, BitVec.ofNat 8 (bit01 j.r.alt + 2 * bit01 j.open_), j.rung.setWidth 8]
    ++ leBytes j.phase.toNat 4 ++ leBytes j.r.kvBase.toNat 8 ++ leBytes j.r.kvLen.toNat 8 ++ leBytes j.r.pool.toNat 8
    ++ leBytes j.r.compRing.toNat 8 ++ leBytes j.r.compLen.toNat 4 ++ leBytes j.compTail.toNat 4 ++ leBytes j.drawBase.toNat 16
    ++ leBytes j.r.drawKey.toNat 8 ++ leBytes j.r.period.toNat 8 ++ leBytes j.deadline.toNat 8 ++ leBytes j.r.ladder.toNat 8
    ++ leBytes j.r.raise.toNat 4 ++ leBytes j.r.target.toNat 4 ++ leBytes j.graphsOut.toNat 4 ++ leBytes j.launchesOut.toNat 4
    ++ leBytes j.created 8

/-! ### The context area (R380, R384) -/

/-- KIND and the register byte of a snapshot entry (R380). -/
def Dest.kindReg : Dest → Nat × Nat
  | .g r _ => (1, r.toNat)
  | .p r _ => (2, r.toNat)
  | .v r _ _ => (3, r.toNat)
  | .m r _ _ => (4, r.toNat)
  | .cr n _ => (5, n.toNat % 256)
  | .latch north _ _ _ => (6, bit01 north)
  | .mcfg _ => (7, 0)
  | .feeder north _ => (8, bit01 north)

/-- The lanes of a vector result that it writes (R125). -/
def laneMask (bits : VReg) : Nat :=
  (upto 0 64).foldl (fun m i => if bits.toNat / 2 ^ (32 * i) % 2 ^ 32 == 0 then m else m + 2 ^ i) 0

/-- The lane mask of an entry: of V and M results, else all ones (R380). -/
def Dest.mask : Dest → Nat
  | .v _ bits _ => laneMask bits
  | .m _ bits _ => bits.toNat
  | _ => 2 ^ 64 - 1

/-- The words of a matrix configuration: configuration word, row mask, column mask (R185). -/
def MatCfg.words (c : MatCfg) : List W64 := [w64 (c.gb.toNat * 16 + c.ga.toNat * 4 + bit01 c.integer), c.rows, c.cols]

/-- The data of an entry, from its first byte; the manual lays out no data of KIND 6 to 8 (log 22). -/
def Dest.data : Dest → List Byte
  | .g _ x => leBytes x.toNat 8
  | .p _ x => leBytes (bit01 x) 1
  | .v _ _ d => leBytes d.toNat 256
  | .m _ _ d => leBytes d.toNat 8
  | .cr _ x => leBytes x.toNat 8
  | .latch _ _ _ d => leBytes d.scale.toNat 128 ++ leBytes d.zp.toNat 64
  | .mcfg c => c.words.flatMap fun w => leBytes w.toNat 8
  | .feeder _ f =>
    match f.src with
    | some (.ring q) => leBytes q.toNat 8
    | some (.mesh d) => leBytes d.toNat 8
    | some (.handle d0 d1) => leBytes d0.toNat 8 ++ leBytes d1.toNat 8
    | none => []

/-- n bytes: those given, then zeros. -/
def padTo (n : Nat) (bs : List Byte) : List Byte := (bs ++ List.replicate (n - bs.length) 0#8).take n

/-- The 320 bytes of a snapshot entry; order: its rank among those of equal REM (R380). -/
def snapshotBytes (order : Nat) (l : Landing) : List Byte :=
  [BitVec.ofNat 8 l.dest.kindReg.1, BitVec.ofNat 8 l.dest.kindReg.2, BitVec.ofNat 8 l.due, BitVec.ofNat 8 order, l.flags.setWidth 8]
    ++ leBytes 0 3 ++ leBytes l.dest.mask 8 ++ leBytes 0 48 ++ padTo 256 l.dest.data

/-- The snapshot region: each entry ranked behind the earlier entries of its REM. -/
def snapshotRegion : List Landing → List Landing → List Byte
  | _, [] => []
  | before, l :: rest =>
    snapshotBytes ((before.filter fun m => m.due == l.due).length) l ++ snapshotRegion (before ++ [l]) rest

/-- A ring's 32 bytes: words 0 and 1, its image of CR.QIDX, and the filled marks that fit (R384). -/
def ringBytes : Option Ring → List Byte
  | some r =>
    leBytes r.w0.toNat 8 ++ leBytes r.w1.toNat 8 ++ leBytes (r.rsv.toNat * 2 ^ 32 + r.tail.toNat * 2 ^ 16 + r.head.toNat) 8
      ++ leBytes r.marks.toNat 8
  | none => leBytes 0 32

/-- STUBPC with SV (R384). -/
def stubWord (p : Option (BitVec 19)) : Nat :=
  match p with
  | some pc => 2 ^ 63 + pc.toNat
  | none => 0

/-- The header of a context area (R384). -/
def areaHeader (a : CtxArea) : List Byte :=
  leBytes a.savepc.toNat 8 ++ leBytes a.kind 1 ++ leBytes a.reason 1 ++ leBytes a.banks.toNat 2 ++ leBytes a.snapshot.length 4
    ++ leBytes a.time 8 ++ leBytes a.issued.toNat 8 ++ leBytes (stubWord a.stubpc) 8

/-- The unit with the registers of an area's scalar copy, as its images show it. -/
def imageState (s : State) (a : CtxArea) : State := s.mapUnit fun u => { restoreScalar u a.scalar with pad.rings := a.rings }

/-- The regions of a context area at their offsets (R384): a drain save has the header, the scalar copy, the snapshot, the rings and
the live banks; a freeze has V and the planes too. The opaque region is the hardware's own. -/
def areaRegions (s : State) (a : CtxArea) : List (Nat × List Byte) :=
  let t := imageState s a
  [(0, areaHeader a),
   (0x100, leBytes 0 8 ++ (a.scalar.g.toList.drop 1).flatMap fun w => leBytes w.toNat 8),
   (0x800, (upto 0 256).flatMap fun n => leBytes (crRead t n).toNat 8),
   (0x1000, a.rings.toList.flatMap ringBytes),
   (0x2000, snapshotRegion [] a.snapshot)]
    ++ (if a.kind == 2 then
      [(0x8000, a.v.toList.flatMap fun v => leBytes v.toNat 256),
       (0x1_0000, a.mx.planes.toList.flatMap fun p => p.toList.flatMap fun r => leBytes r.toNat 256)]
    else [])
    ++ ((upto 0 16).filter fun b => a.banks.getLsbD b).map fun b => (0x10_0000 + 0x2_0000 * b, readBytes a.pad (0x2_0000 * b) 0x2_0000)

/-! ### The area in memory -/

/-- The context that the area holds now, at its VA. -/
def areaNow (s : State) : Option (W64 × CtxArea) := s.area.map fun a => (s.unit.cr.ctxbase, liveArea s.unit a)

/-- Whether memory does not hold it yet. -/
def areaStale (s : State) : Bool := s.area.isSome && areaNow s != s.areaMem

/-- The area written to memory, as any write of an engine of the unit (R323, R384); the opaque region is the hardware's own. -/
def writeArea (s : State) : State :=
  match s.area with
  | none => s
  | some a =>
    let w := unitWho s.unit 15#4 3#2
    (areaRegions s (liveArea s.unit a)).foldl (fun s r => edgeWriteL1 s w true none (s.unit.cr.ctxbase + w64 r.1) r.2)
      { s with areaMem := areaNow s }

/-- R376, R384: what the context area holds is written to memory; then, where the save half has ended or a frozen unit's gang moves, the
context is saved and the core released. -/
def execContextSave (s : State) : Host.Outcome State Fault Refusal := .next (if areaStale s then writeArea s else saveContext s)

end Sys2Proof.Machine
end

