-- ==== Sys2Proof/Machine/Dispatch.lean ====
section
/-! DEFINITION. One arm per row of spec/opcode_table.json: the meaning of each. -/

namespace Sys2Proof.Machine

def exec (i : Instr) (s : State) : Host.Outcome State Fault Refusal :=
  match i with
  | .add d a b g => Sys2Proof.Machine.execAdd d a b g s
  | .sub d a b g => Sys2Proof.Machine.execSub d a b g s
  | .and d a b g => Sys2Proof.Machine.execAnd d a b g s
  | .or d a b g => Sys2Proof.Machine.execOr d a b g s
  | .xor d a b g => Sys2Proof.Machine.execXor d a b g s
  | .andn d a b g => Sys2Proof.Machine.execAndn d a b g s
  | .shl d a b g => Sys2Proof.Machine.execShl d a b g s
  | .shr d a b g => Sys2Proof.Machine.execShr d a b g s
  | .sar d a b g => Sys2Proof.Machine.execSar d a b g s
  | .rotl d a b g => Sys2Proof.Machine.execRotl d a b g s
  | .mul d a b g => Sys2Proof.Machine.execMul d a b g s
  | .mulh d a b g => Sys2Proof.Machine.execMulh d a b g s
  | .mulhu d a b g => Sys2Proof.Machine.execMulhu d a b g s
  | .div d a b g => Sys2Proof.Machine.execDiv d a b g s
  | .divu d a b g => Sys2Proof.Machine.execDivu d a b g s
  | .rem d a b g => Sys2Proof.Machine.execRem d a b g s
  | .remu d a b g => Sys2Proof.Machine.execRemu d a b g s
  | .min d a b g => Sys2Proof.Machine.execMin d a b g s
  | .max d a b g => Sys2Proof.Machine.execMax d a b g s
  | .minu d a b g => Sys2Proof.Machine.execMinu d a b g s
  | .maxu d a b g => Sys2Proof.Machine.execMaxu d a b g s
  | .addi d a imm g x => Sys2Proof.Machine.execAddi d a imm g x s
  | .andi d a imm g x => Sys2Proof.Machine.execAndi d a imm g x s
  | .ori d a imm g x => Sys2Proof.Machine.execOri d a imm g x s
  | .xori d a imm g x => Sys2Proof.Machine.execXori d a imm g x s
  | .shli d a imm g => Sys2Proof.Machine.execShli d a imm g s
  | .shri d a imm g => Sys2Proof.Machine.execShri d a imm g s
  | .sari d a imm g => Sys2Proof.Machine.execSari d a imm g s
  | .clz d a g => Sys2Proof.Machine.execClz d a g s
  | .ctz d a g => Sys2Proof.Machine.execCtz d a g s
  | .popc d a g => Sys2Proof.Machine.execPopc d a g s
  | .sext d a w g => Sys2Proof.Machine.execSext d a w g s
  | .zext d a w g => Sys2Proof.Machine.execZext d a w g s
  | .bext d a b g => Sys2Proof.Machine.execBext d a b g s
  | .bins d a b g => Sys2Proof.Machine.execBins d a b g s
  | .adds0 d a b g => Sys2Proof.Machine.execAdds0 d a b g s
  | .adds1 d a b g => Sys2Proof.Machine.execAdds1 d a b g s
  | .adds2 d a b g => Sys2Proof.Machine.execAdds2 d a b g s
  | .adds3 d a b g => Sys2Proof.Machine.execAdds3 d a b g s
  | .cmp c p a b g => Sys2Proof.Machine.execCmp c p a b g s
  | .cmpi c p a imm g x => Sys2Proof.Machine.execCmpi c p a imm g x s
  | .plog d f a b g => Sys2Proof.Machine.execPlog d f a b g s
  | .sel d a p b g => Sys2Proof.Machine.execSel d a p b g s
  | .movw d imm g => Sys2Proof.Machine.execMovw d imm g s
  | .br o g => Sys2Proof.Machine.execBr o g s
  | .call o g => Sys2Proof.Machine.execCall o g s
  | .jr a g => Sys2Proof.Machine.execJr a g s
  | .jt d imm g => Sys2Proof.Machine.execJt d imm g s
  | .loop n a d g => Sys2Proof.Machine.execLoop n a d g s
  | .loopi n c d g x => Sys2Proof.Machine.execLoopi n c d g x s
  | .trap c g => Sys2Proof.Machine.execTrap c g s
  | .brk c g => Sys2Proof.Machine.execBrk c g s
  | .exit g => Sys2Proof.Machine.execExit g s
  | .yield g => Sys2Proof.Machine.execYield g s
  | .trigger g => Sys2Proof.Machine.execTrigger g s
  | .waitdep g => Sys2Proof.Machine.execWaitdep g s
  | .phase g => Sys2Proof.Machine.execPhase g s
  | .wait nl ns nc nt g => Sys2Proof.Machine.execWait nl ns nc nt g s
  | .fence scope mask g => Sys2Proof.Machine.execFence scope mask g s
  | .mfcr d n g => Sys2Proof.Machine.execMfcr d n g s
  | .mtcr d n g => Sys2Proof.Machine.execMtcr d n g s
  | .crLdepthWrite v => Sys2Proof.Machine.execCrLdepthWrite v s
  | .crLstartLendWrite n v => Sys2Proof.Machine.execCrLstartLendWrite n v s
  | .crBankfWrite bank v => Sys2Proof.Machine.execCrBankfWrite bank v s
  | .crQidxWrite v => Sys2Proof.Machine.execCrQidxWrite v s
  | .crGxmodeWrite v => Sys2Proof.Machine.execCrGxmodeWrite v s
  | .crCbarWrite core v => Sys2Proof.Machine.execCrCbarWrite core v s
  | .crDrawhiWrite v => Sys2Proof.Machine.execCrDrawhiWrite v s
  | .crFlagsetWrite v => Sys2Proof.Machine.execCrFlagsetWrite v s
  | .ldl d a c z g x => Sys2Proof.Machine.execLdl d a c z g x s
  | .stl d a c z g x => Sys2Proof.Machine.execStl d a c z g x s
  | .ldg d a c z g x => Sys2Proof.Machine.execLdg d a c z g x s
  | .stg d a c z g x => Sys2Proof.Machine.execStg d a c z g x s
  | .red d a c z g x => Sys2Proof.Machine.execRed d a c z g x s
  | .atomAdd d a c w g x => Sys2Proof.Machine.execAtomAdd d a c w g x s
  | .atomMin d a c w g x => Sys2Proof.Machine.execAtomMin d a c w g x s
  | .atomMax d a c w g x => Sys2Proof.Machine.execAtomMax d a c w g x s
  | .atomAnd d a c w g x => Sys2Proof.Machine.execAtomAnd d a c w g x s
  | .atomOr d a c w g x => Sys2Proof.Machine.execAtomOr d a c w g x s
  | .atomXor d a c w g x => Sys2Proof.Machine.execAtomXor d a c w g x s
  | .atomSwap d a c w g x => Sys2Proof.Machine.execAtomSwap d a c w g x s
  | .atomCas d a c w g x => Sys2Proof.Machine.execAtomCas d a c w g x s
  | .atomw d a c g x => Sys2Proof.Machine.execAtomw d a c g x s
  | .vadd d a b m z t => Sys2Proof.Machine.execVadd d a b m z t s
  | .vsub d a b m z t => Sys2Proof.Machine.execVsub d a b m z t s
  | .vmul d a b m z t => Sys2Proof.Machine.execVmul d a b m z t s
  | .vfma d a b m z t => Sys2Proof.Machine.execVfma d a b m z t s
  | .vmax d a b m z t => Sys2Proof.Machine.execVmax d a b m z t s
  | .vmin d a b m z t => Sys2Proof.Machine.execVmin d a b m z t s
  | .vabs d a m z t => Sys2Proof.Machine.execVabs d a m z t s
  | .vneg d a m z t => Sys2Proof.Machine.execVneg d a m z t s
  | .vcmp c k a b m z => Sys2Proof.Machine.execVcmp c k a b m z s
  | .viadd d a b m z t => Sys2Proof.Machine.execViadd d a b m z t s
  | .visub d a b m z t => Sys2Proof.Machine.execVisub d a b m z t s
  | .vimul d a b m z t => Sys2Proof.Machine.execVimul d a b m z t s
  | .vimulh d a b m z t => Sys2Proof.Machine.execVimulh d a b m z t s
  | .vand d a b m z t => Sys2Proof.Machine.execVand d a b m z t s
  | .vor d a b m z t => Sys2Proof.Machine.execVor d a b m z t s
  | .vxor d a b m z t => Sys2Proof.Machine.execVxor d a b m z t s
  | .vshl d a b m z t => Sys2Proof.Machine.execVshl d a b m z t s
  | .vshr d a b m z t => Sys2Proof.Machine.execVshr d a b m z t s
  | .vsar d a b m z t => Sys2Proof.Machine.execVsar d a b m z t s
  | .vimin d a b m z t => Sys2Proof.Machine.execVimin d a b m z t s
  | .vimax d a b m z t => Sys2Proof.Machine.execVimax d a b m z t s
  | .vicmpSigned c k a b m z => Sys2Proof.Machine.execVicmpSigned c k a b m z s
  | .vicmpUnsigned c k a b m z => Sys2Proof.Machine.execVicmpUnsigned c k a b m z s
  | .vcvt d a e m z => Sys2Proof.Machine.execVcvt d a e m z s
  | .vpack d a f p m z => Sys2Proof.Machine.execVpack d a f p m z s
  | .vunpk d a f p m z => Sys2Proof.Machine.execVunpk d a f p m z s
  | .vexp2 d a m z => Sys2Proof.Machine.execVexp2 d a m z s
  | .vlog2 d a m z => Sys2Proof.Machine.execVlog2 d a m z s
  | .vrcp d a m z => Sys2Proof.Machine.execVrcp d a m z s
  | .vrsq d a m z => Sys2Proof.Machine.execVrsq d a m z s
  | .vrsum d a m => Sys2Proof.Machine.execVrsum d a m s
  | .vrmaxI d a m => Sys2Proof.Machine.execVrmaxI d a m s
  | .vrminI d a m => Sys2Proof.Machine.execVrminI d a m s
  | .vscan d a m => Sys2Proof.Machine.execVscan d a m s
  | .vsrch d a b m => Sys2Proof.Machine.execVsrch d a b m s
  | .vrand d b m z => Sys2Proof.Machine.execVrand d b m z s
  | .vrandF d b m z => Sys2Proof.Machine.execVrandF d b m z s
  | .vperm d a b m z => Sys2Proof.Machine.execVperm d a b m z s
  | .vbcast d b m z t => Sys2Proof.Machine.execVbcast d b m z t s
  | .vslide d a b m z => Sys2Proof.Machine.execVslide d a b m z s
  | .vsel d a b m => Sys2Proof.Machine.execVsel d a b m s
  | .mlog f k a b => Sys2Proof.Machine.execMlog f k a b s
  | .mpop d a m => Sys2Proof.Machine.execMpop d a m s
  | .mfirst d a m => Sys2Proof.Machine.execMfirst d a m s
  | .vpart d m => Sys2Proof.Machine.execVpart d m s
  | .vpartInv d m => Sys2Proof.Machine.execVpartInv d m s
  | .vldl d c b m z x => Sys2Proof.Machine.execVldl d c b m z x s
  | .vstl d c b m x => Sys2Proof.Machine.execVstl d c b m x s
  | .vgath d a b m z x => Sys2Proof.Machine.execVgath d a b m z x s
  | .vscat d a b m x => Sys2Proof.Machine.execVscat d a b m x s
  | .vldg d c b m z x => Sys2Proof.Machine.execVldg d c b m z x s
  | .vstg d c b m x => Sys2Proof.Machine.execVstg d c b m x s
  | .vmovg d j b => Sys2Proof.Machine.execVmovg d j b s
  | .vextr d a j => Sys2Proof.Machine.execVextr d a j s
  | .accept d a b m => Sys2Proof.Machine.execAccept d a b m s
  | .mpush p g => Sys2Proof.Machine.execMpush p g s
  | .mshift g => Sys2Proof.Machine.execMshift g s
  | .mpreld p v g => Sys2Proof.Machine.execMpreld p v g s
  | .mdrain p v g => Sys2Proof.Machine.execMdrain p v g s
  | .mzero p g => Sys2Proof.Machine.execMzero p g s
  | .mcfg n g => Sys2Proof.Machine.execMcfg n g s
  | .mfeedRing f n g => Sys2Proof.Machine.execMfeedRing f n g s
  | .mfeedMesh f n g => Sys2Proof.Machine.execMfeedMesh f n g s
  | .mfeedHandle f n g => Sys2Proof.Machine.execMfeedHandle f n g s
  | .feederPanelFetch north => Sys2Proof.Machine.execFeederPanelFetch north s
  | .meshFlitInject north flits => Sys2Proof.Machine.execMeshFlitInject north flits s
  | .slw a g x => Sys2Proof.Machine.execSlw a g x s
  | .sln a g x => Sys2Proof.Machine.execSln a g x s
  | .slzp a e g x => Sys2Proof.Machine.execSlzp a e g x s
  | .slset a e imm g => Sys2Proof.Machine.execSlset a e imm g s
  | .cpyG2l a b c g => Sys2Proof.Machine.execCpyG2l a b c g s
  | .cpyL2g a b c g => Sys2Proof.Machine.execCpyL2g a b c g s
  | .cpyL2l a b c g => Sys2Proof.Machine.execCpyL2l a b c g s
  | .cpyCl a b c g => Sys2Proof.Machine.execCpyCl a b c g s
  | .cpyPe a b c g => Sys2Proof.Machine.execCpyPe a b c g s
  | .copyBegin cq1 => Sys2Proof.Machine.execCopyBegin cq1 s
  | .copyPerform cq1 => Sys2Proof.Machine.execCopyPerform cq1 s
  | .peerChunkArrival c => Sys2Proof.Machine.execPeerChunkArrival c s
  | .peerChunkFail cq1 second => Sys2Proof.Machine.execPeerChunkFail cq1 second s
  | .qcfg q a g => Sys2Proof.Machine.execQcfg q a g s
  | .qcfgOff q g => Sys2Proof.Machine.execQcfgOff q g s
  | .qresv q d c g => Sys2Proof.Machine.execQresv q d c g s
  | .qcommit q c g => Sys2Proof.Machine.execQcommit q c g s
  | .qawait q d c g => Sys2Proof.Machine.execQawait q d c g s
  | .qrel q c g => Sys2Proof.Machine.execQrel q c g s
  | .qtick q d g => Sys2Proof.Machine.execQtick q d g s
  | .qfill q a g => Sys2Proof.Machine.execQfill q a g s
  | .qtest q p t g => Sys2Proof.Machine.execQtest q p t g s
  | .qfence m g => Sys2Proof.Machine.execQfence m g s
  | .engineFire cq1 => Sys2Proof.Machine.execEngineFire cq1 s
  | .route a b c g => Sys2Proof.Machine.execRoute a b c g s
  | .rtcfg a b c g => Sys2Proof.Machine.execRtcfg a b c g s
  | .rasm a b c g => Sys2Proof.Machine.execRasm a b c g s
  | .rret a b c g => Sys2Proof.Machine.execRret a b c g s
  | .returnAccept table round row rank bytes => Sys2Proof.Machine.execReturnAccept table round row rank bytes s
  | .routeTimeout table => Sys2Proof.Machine.execRouteTimeout table s
  | .kvadv a b c g => Sys2Proof.Machine.execKvadv a b c g s
  | .kvtrunc a b c g => Sys2Proof.Machine.execKvtrunc a b c g s
  | .kvmap a b c g => Sys2Proof.Machine.execKvmap a b c g s
  | .pnlook a b c g => Sys2Proof.Machine.execPnlook a b c g s
  | .pnins a b c g => Sys2Proof.Machine.execPnins a b c g s
  | .pnrel a b c g => Sys2Proof.Machine.execPnrel a b c g s
  | .pxtile a b c g => Sys2Proof.Machine.execPxtile a b c g s
  | .encfrm a b c g => Sys2Proof.Machine.execEncfrm a b c g s
  | .encoderTakeFrame fr => Sys2Proof.Machine.execEncoderTakeFrame fr s
  | .bitstreamRecordWrite fr payload => Sys2Proof.Machine.execBitstreamRecordWrite fr payload s
  | .loadResponse acc => Sys2Proof.Machine.execLoadResponse acc s
  | .storeAck acc => Sys2Proof.Machine.execStoreAck acc s
  | .sliceReadRequest who part => Sys2Proof.Machine.execSliceReadRequest who part s
  | .mergeGroupWait slice => Sys2Proof.Machine.execMergeGroupWait slice s
  | .sectorFillComplete slice line => Sys2Proof.Machine.execSectorFillComplete slice line s
  | .sliceWriteRequest who part => Sys2Proof.Machine.execSliceWriteRequest who part s
  | .sliceAtomic who => Sys2Proof.Machine.execSliceAtomic who s
  | .redContribution who => Sys2Proof.Machine.execRedContribution who s
  | .redWaitOpen slice => Sys2Proof.Machine.execRedWaitOpen slice s
  | .pinSliceAccess acc part => Sys2Proof.Machine.execPinSliceAccess acc part s
  | .clusterStopDelivery what => Sys2Proof.Machine.execClusterStopDelivery what s
  | .routePacketFill => Sys2Proof.Machine.execRoutePacketFill s
  | .flushReadReturn package => Sys2Proof.Machine.execFlushReadReturn package s
  | .hostPortError acc part => Sys2Proof.Machine.execHostPortError acc part s
  | .faultRecordRelease slice => Sys2Proof.Machine.execFaultRecordRelease slice s
  | .zeroFillDone leafPa big => Sys2Proof.Machine.execZeroFillDone leafPa big s
  | .assign part slot root => Sys2Proof.Machine.execAssign part slot root s
  | .release part slot => Sys2Proof.Machine.execRelease part slot s
  | .invalRange part slot va count => Sys2Proof.Machine.execInvalRange part slot va count s
  | .invalAsid part slot => Sys2Proof.Machine.execInvalAsid part slot s
  | .invalAll part => Sys2Proof.Machine.execInvalAll part s
  | .twrite part pa v => Sys2Proof.Machine.execTwrite part pa v s
  | .resume part slice park => Sys2Proof.Machine.execResume part slice park s
  | .abort part slice park => Sys2Proof.Machine.execAbort part slice park s
  | .translationCommandComplete part => Sys2Proof.Machine.execTranslationCommandComplete part s
  | .graphSubmit part job launches => Sys2Proof.Machine.execGraphSubmit part job launches s
  | .gangStart l gang at_ => Sys2Proof.Machine.execGangStart l gang at_ s
  | .unitComplete l unit status detail => Sys2Proof.Machine.execUnitComplete l unit status detail s
  | .completionRecordWrite part job => Sys2Proof.Machine.execCompletionRecordWrite part job s
  | .triggerMark l unit => Sys2Proof.Machine.execTriggerMark l unit s
  | .cancel level => Sys2Proof.Machine.execCancel level s
  | .jobCreate r => Sys2Proof.Machine.execJobCreate r s
  | .jobClose part job => Sys2Proof.Machine.execJobClose part job s
  | .streamGraphInstantiate part job => Sys2Proof.Machine.execStreamGraphInstantiate part job s
  | .gangResume l gang at_ => Sys2Proof.Machine.execGangResume l gang at_ s
  | .unitResume ws => Sys2Proof.Machine.execUnitResume ws s
  | .pantryRegister part n buckets log2n backmap => Sys2Proof.Machine.execPantryRegister part n buckets log2n backmap s
  | .pantryPurge part n bucket entry => Sys2Proof.Machine.execPantryPurge part n bucket entry s
  | .mirotRequest part flow record => Sys2Proof.Machine.execMirotRequest part flow record s
  | .tokenise engine => Sys2Proof.Machine.execTokenise engine s
  | .tokeniserSlotCommit engine => Sys2Proof.Machine.execTokeniserSlotCommit engine s
  | .detokeniseSlot ctx => Sys2Proof.Machine.execDetokeniseSlot ctx s
  | .vocabLoad slot part asid va => Sys2Proof.Machine.execVocabLoad slot part asid va s
  | .vocabUnload slot => Sys2Proof.Machine.execVocabUnload slot s
  | .templateRegister t => Sys2Proof.Machine.execTemplateRegister t s
  | .uetFlowFail part flow => Sys2Proof.Machine.execUetFlowFail part flow s
  | .frameRingRegister r => Sys2Proof.Machine.execFrameRingRegister r s
  | .frameRingReset fr fhead => Sys2Proof.Machine.execFrameRingReset fr fhead s
  | .frameRingUnregister fr => Sys2Proof.Machine.execFrameRingUnregister fr s
  | .partitionCreate d => Sys2Proof.Machine.execPartitionCreate d s
  | .partitionChange d => Sys2Proof.Machine.execPartitionChange d s
  | .partitionReset part => Sys2Proof.Machine.execPartitionReset part s
  | .machineCheck src part addr place job => Sys2Proof.Machine.execMachineCheck src part addr place job s
  | .pinRange part pa bytes => Sys2Proof.Machine.execPinRange part pa bytes s
  | .unpinRange part pa bytes => Sys2Proof.Machine.execUnpinRange part pa bytes s
  | .landingRegister l => Sys2Proof.Machine.execLandingRegister l s
  | .sliceStatsClear slice => Sys2Proof.Machine.execSliceStatsClear slice s
  | .endpointTableWrite part epid peer => Sys2Proof.Machine.execEndpointTableWrite part epid peer s
  | .packageLeaveDomain package => Sys2Proof.Machine.execPackageLeaveDomain package s
  | .boot firmware version signature => Sys2Proof.Machine.execBoot firmware version signature s
  | .attestationRequest nonce part => Sys2Proof.Machine.execAttestationRequest nonce part s
  | .powerLimitSet watts => Sys2Proof.Machine.execPowerLimitSet watts s
  | .domainForm self members => Sys2Proof.Machine.execDomainForm self members s
  | .correctedError src => Sys2Proof.Machine.execCorrectedError src s
  | .bundleIssue => Sys2Proof.Machine.execBundleIssue s
  | .resultLand => Sys2Proof.Machine.execResultLand s
  | .timeTick => Sys2Proof.Machine.execTimeTick s
  | .barrierRecordCommit => Sys2Proof.Machine.execBarrierRecordCommit s
  | .blockTimeout => Sys2Proof.Machine.execBlockTimeout s
  | .rtcfgExec => Sys2Proof.Machine.execRtcfgExec s
  | .rasmExec => Sys2Proof.Machine.execRasmExec s
  | .routeBegin => Sys2Proof.Machine.execRouteBegin s
  | .routeOqSlot => Sys2Proof.Machine.execRouteOqSlot s
  | .rretExec => Sys2Proof.Machine.execRretExec s
  | .kvmapExec => Sys2Proof.Machine.execKvmapExec s
  | .kvadvExec => Sys2Proof.Machine.execKvadvExec s
  | .kvtruncExec => Sys2Proof.Machine.execKvtruncExec s
  | .pnlookExec => Sys2Proof.Machine.execPnlookExec s
  | .pninsExec => Sys2Proof.Machine.execPninsExec s
  | .pnrelExec => Sys2Proof.Machine.execPnrelExec s
  | .pxtileFire => Sys2Proof.Machine.execPxtileFire s
  | .encfrmBind => Sys2Proof.Machine.execEncfrmBind s
  | .encfrmOne => Sys2Proof.Machine.execEncfrmOne s
  | .encfrmUnbind => Sys2Proof.Machine.execEncfrmUnbind s
  | .schedulingTick => Sys2Proof.Machine.execSchedulingTick s
  | .drainDivert => Sys2Proof.Machine.execDrainDivert s
  | .contextSave => Sys2Proof.Machine.execContextSave s
  | .preemptFallback => Sys2Proof.Machine.execPreemptFallback s
  | .stubOverrun => Sys2Proof.Machine.execStubOverrun s
  | .debugHalt => Sys2Proof.Machine.execDebugHalt s
  | .thermalTrip => Sys2Proof.Machine.execThermalTrip s
  | .linkDown => Sys2Proof.Machine.execLinkDown s
  | .linkUp => Sys2Proof.Machine.execLinkUp s
  | .mainPowerLoss => Sys2Proof.Machine.execMainPowerLoss s

end Sys2Proof.Machine
end

