-- ==== Sys2Proof/Machine/Schedule.lean ====
section
/-! DEFINITION. What the machine may do of itself when no event waits in the agenda (log 2). -/

namespace Sys2Proof.Machine

/-- After any event the sequencer tries its bundle again (R30). -/
def wake (s : State) : State := s.mapUnit fun u => { u with ctx.tried := false }

/-- The sequencer takes the bundle at the program counter: it may issue, and has not been tried since the last event. -/
def canIssue (s : State) : Bool := mayIssue s && !s.unit.ctx.tried

/-- The launch of the modelled unit. -/
def ownLaunch (s : State) : LaunchId := ⟨s.unit.cr.part, s.unit.cr.job, s.unit.launch.graph, s.unit.launch.launch⟩

/-- Events of the unit's global accesses (R253 to R301). -/
def accessEvents (s : State) : List Instr :=
  s.unit.accs.flatMap fun a =>
    [.loadResponse a.id, .storeAck a.id, .sliceAtomic (.unit a.id), .redContribution (.unit a.id)]
      ++ (upto 0 a.parts.length).flatMap fun p => [.sliceReadRequest (.unit a.id) p, .sliceWriteRequest (.unit a.id) p, .pinSliceAccess a.id p]

/-- Events of the slices, the network and the address translation (R268 to R333). -/
def sliceEvents (s : State) : List Instr :=
  s.packets.map (fun p => .clusterStopDelivery (.packet p.1))
    ++ s.inbound.map (fun x => .clusterStopDelivery (.far x))
    ++ s.groups.flatMap (fun g => [.sectorFillComplete g.slice g.line, .mergeGroupWait g.slice])
    ++ s.redWait.map (fun r => .redWaitOpen r.1)
    ++ s.unit.posted.map (fun p => .flushReadReturn (BitVec.ofNat 6 p.package))
    ++ s.tpend.map (fun t => .translationCommandComplete t.part)
    ++ s.twait.map (fun w => .translationCommandComplete w.1)

/-- Events that can do something only where there is something for them. -/
def whenAny (b : Bool) (l : List Instr) : List Instr := if b then l else []

/-- Whether a result that is due acts on other parts of the machine: a feeder binding, an arrival at the barrier, the write of DRAWBASE
(R174, R299, R404). -/
def actsDue (u : Unit) : Bool :=
  u.landing.any fun l => l.due ≤ u.cyc && match l.dest with
    | .feeder _ _ => true
    | .cr n _ => n == 0x0A2 || n == 0x0D1
    | _ => false

/-- Events of the unit's engines (R204 to R252, R420 to R432, R391 to R413, R460 to R473); results land first where a stalled bundle
may wait for what they bring about (log 80). -/
def engineEvents (s : State) : List Instr :=
  let u := s.unit
  whenAny (actsDue u) [.resultLand]
    ++ whenAny (!(u.cq0.isEmpty && u.cq1.isEmpty))
      [.engineFire false, .engineFire true, .copyBegin false, .copyBegin true, .copyPerform false, .copyPerform true]
    ++ whenAny (!(u.fqw.isEmpty && u.fqn.isEmpty) || u.mx.west.src.isSome || u.mx.north.src.isSome)
      [.feederPanelFetch false, .feederPanelFetch true, .meshFlitInject false (.slices []), .meshFlitInject true (.slices [])]
    ++ whenAny (!u.rq.isEmpty) [.rtcfgExec, .rasmExec, .rretExec, .routeBegin]
    ++ whenAny (u.rt.ra.any fun m => m.open_.isSome)
      [.routeOqSlot, .routePacketFill, .routeTimeout 0#2, .routeTimeout 1#2, .routeTimeout 2#2, .routeTimeout 3#2]
    ++ whenAny (!u.kq.isEmpty)
      [.kvmapExec, .kvadvExec, .kvtruncExec, .pnlookExec, .pninsExec, .pnrelExec, .pxtileFire, .encfrmBind, .encfrmOne, .encfrmUnbind]
    ++ [.barrierRecordCommit]
    ++ s.enc.turn.map .encoderTakeFrame
    ++ (match s.enc.busy with
      | some b => [.bitstreamRecordWrite b.ses.fr (Config.payloadBytes (((frameRing s b.ses.fr).map (encodedFrom s b)).getD []))]
      | none => [])

/-- Gangs that the dispatcher may place, each where its free choice says (R341, R371). -/
def gangEvents (s : State) : List Instr :=
  s.pkg.parts.flatMap fun p => ((partGangs s p.2.part).filter (isReady s)).flatMap fun x =>
    let ps := placements s p.2.part x.l x.gang
    let id : LaunchId := ⟨p.2.part, BitVec.ofNat 32 x.key, x.seq, x.launch⟩
    match ps[Config.placeChoice s.freeCtr % ps.length]? with
    | some at_ => [.gangStart id x.gang at_, .gangResume id x.gang at_]
    | none => []

/-- Events of the dispatcher, the text engines and firmware (R336 to R372, R441 to R459, R487). -/
def packageEvents (s : State) : List Instr :=
  [.unitComplete (ownLaunch s) s.unit.cr.unit 0#8 0#8, .triggerMark (ownLaunch s) s.unit.cr.unit]
    ++ s.jobs.flatMap (fun j => [.completionRecordWrite j.2.r.part j.2.r.job, .streamGraphInstantiate j.2.r.part j.2.r.job])
    ++ s.pkg.parts.map (fun p => .completionRecordWrite p.2.part 0#32)
    ++ gangEvents s
    ++ whenAny (!s.text.queue.isEmpty || s.text.toks.any fun t => t.req.isSome)
      ((upto 0 8).flatMap fun e => [.tokenise (BitVec.ofNat 3 e), .tokeniserSlotCommit (BitVec.ofNat 3 e)])
    ++ (upto 0 s.text.ctxs.length).map .detokeniseSlot
    ++ s.pkg.heldChunks.map .peerChunkArrival
    ++ s.pkg.resets.map (fun r => .partitionReset (BitVec.ofNat 4 r.1))

/-- Every event that the machine may take of itself, in the order in which the model prefers them; what comes from outside
(the host, system software, peers, other units) comes through the agenda alone. -/
def ownEvents (s : State) : List Instr :=
  s.owed.map (fun o => .machineCheck .gddr (some o.1) (w64 (32 * o.2.2)) 0#16 (some o.2.1))
    ++ [.drainDivert, .contextSave, .preemptFallback, .stubOverrun, .blockTimeout]
    ++ accessEvents s ++ sliceEvents s ++ engineEvents s ++ packageEvents s

/-- What an event must change to count as progress: everything but what a mere retry may touch. -/
def progressView (s : State) : State :=
  { wake s with
    stats := Vector.replicate 64 .zero, tlb := [], walks := [], reads := 0, stamp := 0, freeCtr := 0, llc := [], owners := [] }

/-- The word with its stop bit set, at the program counter of a running unit, over a word of zeros (log 11). -/
def placeWord (s : State) (_nbits w : Nat) : State :=
  { s with
    agenda := []
    unit := { s.unit with
      run := .running
      istore := mdel (mset s.unit.istore (s.unit.pc.toNat / 4) (BitVec.ofNat 32 (w % 2 ^ 31 + 2 ^ 31))) (s.unit.pc.toNat / 4 + 1)
      ctx := { s.unit.ctx with tried := false } } }

end Sys2Proof.Machine
end

