-- ==== Sys2Proof/Machine/Internal.lean ====
section
/-! DEFINITION. Which event comes next (log 2). -/

namespace Sys2Proof.Machine

/-- Whether an event makes progress in a state. -/
def makesProgress (s : State) (e : Instr) : Bool :=
  match exec e (wake s) with
  | .next t => progressView t != progressView s
  | _ => true

/-- With an empty agenda: the bundle at the program counter, or the first of the machine's own events that makes progress, or a
tick of the time base. -/
def nextEvent (s : State) : Instr :=
  if canIssue s then .bundleIssue else ((ownEvents s).find? (makesProgress s)).getD .timeTick

/-- The state in which that event is taken: any event but the bundle's lets the bundle be tried again. -/
def beforeEvent (s : State) : State := if canIssue s then s else wake s

end Sys2Proof.Machine
end

