-- ==== Sys2Proof/Machine/Step.lean ====
section
/-! DEFINITION. One step of the machine, and an instruction placed where the next step fetches. -/

namespace Sys2Proof.Machine

/-- One step: the first event of the agenda, or, with an empty agenda, what the machine does of itself: the bundle at
the program counter, one of its own events, or a tick of the time base (log 2). -/
def step (s : State) : Host.Outcome State Fault Refusal :=
  match s.agenda with
  | e :: rest => if e.isEvent then exec e (wake { s with agenda := rest }) else .refused .agendaNotEvent
  | [] => exec (nextEvent s) (beforeEvent s)

/-- The word with its stop bit set at the program counter of a running unit (log 11): the next step issues it. -/
def State.withFetchWord (s : State) (nbits w : Nat) : State := placeWord s nbits w

end Sys2Proof.Machine
end

