-- ==== Sys2Proof/Safety.lean ====
section
/-! DEFINITION. The terms in which statements speak: what the issue of a bundle does of itself, what it leaves alone, a trap, a
command in a queue, and the invariants of the package. -/

namespace Sys2Proof.Machine

/-- b with the sequencer's own fields of t: program counter, issue cycle, loop stack (the end test of R75), results in flight,
the place in the bundle, and CR.ISSUED. -/
def sequenced (b t : State) : State :=
  { b with unit := { b.unit with
      pc := t.unit.pc, cyc := t.unit.cyc, loops := t.unit.loops, landing := t.unit.landing, ctx := t.unit.ctx
      cr := { b.unit.cr with issued := t.unit.cr.issued } } }

/-- A bundle of n words has issued in state b, from which t came: one issue cycle, CR.ISSUED, and, outside loops, the next word
after the bundle, whose address at the store's last word is log 69's choice (R6, R53, R69, R375). -/
structure Issued (n : Nat) (b t : State) : Prop where
  cycle : t.unit.cyc = b.unit.cyc + 1
  count : t.unit.cr.issued = if b.unit.cr.pending then b.unit.cr.issued else b.unit.cr.issued + 1
  next : b.unit.loops.depth = 0 → t.unit.pc = BitVec.ofNat 19 (b.unit.pc.toNat + 4 * n)

/-- Words of a slot: two where a LIMM extends it (R28). -/
def slotWords (i : Instr) : Nat := if i.limm?.isSome then 2 else 1

/-- The instruction completes: its bundle issues, and besides the sequencer's own fields the machine is b, whose results in flight
stand (R30, R59). -/
def Ends (i : Instr) (s b : State) : Prop :=
  ∃ t, exec i s = .next t ∧ Issued (slotWords i) (landDue s) t ∧ t.unit.landing = b.unit.landing ∧ t = sequenced b t

/-- The instruction completes without any effect of its own. -/
def Passes (i : Instr) (s : State) : Prop := Ends i s (landDue s)

/-- The instruction completes, its own effect being f on the unit, and nothing else changes. -/
def Acts (i : Instr) (s : State) (f : Unit → Unit) : Prop := Ends i s ((landDue s).mapUnit f)

/-- The instruction completes with one result in flight and no other effect: dest takes its value lat issue cycles later, and the
flags are set there (R32, R57). -/
def Lands (i : Instr) (s : State) (lat : Nat) (d : Dest) (flags : BitVec 6) : Prop :=
  Acts i s fun u => { u with landing := u.landing ++ [⟨u.cyc + lat, u.nextAcc, d, flags⟩] }

/-- The instruction does not issue and takes the trap (R58): CR.FAULTINFO is written and the unit frozen before the bundle. -/
def Traps (i : Instr) (s : State) (cause : Nat) (code : BitVec 12) : Prop := exec i s = .next (trapHere s 0 cause code)

/-- The instruction waits: its bundle does not issue, and nothing changes but the sequencer's note of it (R30). -/
def Waits (i : Instr) (s : State) (counts : Bool) : Prop := exec i s = .next (stall s counts)

/-- A result in flight to G[d] after lat issue cycles, and no other effect. -/
def LandsG (i : Instr) (s : State) (lat : Nat) (d : BitVec 6) (v : W64) : Prop := Lands i s lat (.g d v) 0#6

/-- Flags of the sixty-four lanes together. -/
def laneFlags (f : Nat → BitVec 6) : BitVec 6 := (upto 0 64).foldl (fun a k => a ||| f k) 0#6

/-- A vector result in flight: lane k of VD takes the value f gives it, and keeps its bits where f gives none. -/
def LandsLanes (i : Instr) (s : State) (lat : Nat) (d : BitVec 5) (f : Nat → Option Nat) (flags : BitVec 6) : Prop :=
  ∃ bits data, Lands i s lat (.v d bits data) flags ∧
    ∀ k < 64, match f k with
      | some v => lane bits k = 2 ^ 32 - 1 ∧ lane data k = v % 2 ^ 32
      | none => lane bits k = 0

/-- A vector result under mask m: an enabled lane takes its value and may set flags; another lane takes 0 with z, and otherwise keeps
its value (R125). -/
def LandsMasked (i : Instr) (s : State) (lat : Nat) (d : BitVec 5) (m : BitVec 3) (z : Bool) (f : Nat → Nat × BitVec 6) : Prop :=
  let mask := mReg (landDue s).unit m
  LandsLanes i s lat d (fun k => if mask.getLsbD k then some (f k).1 else if z then some 0 else none)
    (laneFlags fun k => if mask.getLsbD k then (f k).2 else 0#6)

/-- A vector result in flight whose lanes are made of elements of w bits: element n takes the value f gives it (R124). -/
def LandsElements (i : Instr) (s : State) (lat : Nat) (d : BitVec 5) (m : BitVec 3) (z : Bool) (w : Nat)
    (f : Nat → Nat × BitVec 6) : Prop :=
  ∃ r : Nat → Nat, LandsMasked i s lat d m z
      (fun k => (r k, (upto 0 (32 / w)).foldl (fun a j => a ||| (f (32 / w * k + j)).2) 0#6))
    ∧ ∀ k < 64, ∀ j < 32 / w, r k / 2 ^ (w * j) % 2 ^ w = (f (32 / w * k + j)).1 % 2 ^ w

/-- A global access enters the access path with its entry drawn from NL, and nothing else changes but what sig adds (R218, R254). -/
def EntersNl (i : Instr) (s : State) (c : BitVec 4) (kind : AccKind) (va : W64) (bytes : List (Nat × Byte)) (sig : Unit → Unit) : Prop :=
  Acts i s fun u => sig { u with
    nl := u.nl + 1, nextAcc := u.nextAcc + 1, accs := u.accs ++ [⟨u.nextAcc, c, kind, va, partsOf va bytes, u.pc⟩] }

/-- The same with its entry drawn from NS. -/
def EntersNs (i : Instr) (s : State) (c : BitVec 4) (kind : AccKind) (va : W64) (bytes : List (Nat × Byte)) (sig : Unit → Unit) : Prop :=
  Acts i s fun u => sig { u with
    ns := u.ns + 1, nextAcc := u.nextAcc + 1, accs := u.accs ++ [⟨u.nextAcc, c, kind, va, partsOf va bytes, u.pc⟩] }

/-- The unit after a command has entered queue q with an NC entry drawn: the last entry of the queue, numbered, with its class, its
operands as read and the bank formats as they stand (R158, R218, R221). -/
def entered (q : Nat) (cls : BitVec 4) (cmd : Cmd) (u : Unit) : Unit :=
  { setQueue u q (queueOf u q ++ [⟨u.nextAcc, nth u.seqs.toList q 0#32, u.pc, cls, cmd, u.pad.fmt, .waiting, .none⟩]) with
    nc := u.nc + 1, seqs := u.seqs.setIfInBounds q (nth u.seqs.toList q 0#32 + 1), nextAcc := u.nextAcc + 1 }

/-- A command enters queue q, and nothing else changes. -/
def Enters (i : Instr) (s : State) (q : Nat) (cls : BitVec 4) (cmd : Cmd) : Prop := Acts i s (entered q cls cmd)

/-- The slot takes the lowest of the causes (R30). -/
def TrapsLowest (i : Instr) (s : State) (causes : List Nat) : Prop :=
  ∀ c rest, causes = c :: rest → Traps i s (rest.foldl min c) 0#12

/-- The unit with a ring replaced. -/
def withRing (q : BitVec 6) (r : Ring) (u : Unit) : Unit := { u with pad := { u.pad with rings := u.pad.rings.set q.toNat (some r) } }

/-- The unit that has acquired at a scope (R260, R264): at .clu or wider the L1 bound of every class is the present. -/
def acquired (scope stamp : Nat) (u : Unit) : Unit :=
  { u with l1bound := if scope = 0 then u.l1bound else Vector.replicate 16 stamp }

/-- A taken transfer: the next bundle is at t, link is in flight, and, outside loops, nothing else changes (R69, R77). -/
def Transfers (i : Instr) (s : State) (t : Nat) (link : List Landing) : Prop :=
  ∃ r, exec i s = .next r ∧ r.unit.pc.toNat = t ∧ r.unit.cyc = (landDue s).unit.cyc + 1
    ∧ r.unit.landing = (landDue s).unit.landing ++ link
    ∧ ((landDue s).unit.loops.depth = 0 → r.unit.loops.depth = 0 ∧ r.unit.loops.lc = (landDue s).unit.loops.lc)
    ∧ r = sequenced (landDue s) r

/-- A taken transfer to t leaves loop levels (R77): of the active ones, those stay that neither lose their range by it nor stand inside one that
does; a range runs from the start to the last word of the bundle at the end address. The counters keep their values. -/
def LeavesLevels (i : Instr) (s : State) (t : Nat) : Prop :=
  let u := (landDue s).unit
  let within := fun (k : Fin 4) (a : Nat) => (u.loops.start[k]).toNat ≤ a ∧ a ≤ lastWord u 7 (u.loops.last[k]).toNat
  u.loops.depth ≤ 4 →
  ∃ r, exec i s = .next r ∧ r.unit.loops.lc = u.loops.lc ∧ r.unit.loops.depth ≤ u.loops.depth
    ∧ ∀ k : Fin 4, k.val < u.loops.depth →
      (k.val < r.unit.loops.depth ↔ ∀ j : Fin 4, j.val ≤ k.val → within j u.pc.toNat → within j t)

/-- A transfer that pops no level (R77). -/
def KeepsLevels (i : Instr) (s : State) : Prop := ∃ r, exec i s = .next r ∧ r.unit.loops = (landDue s).unit.loops

/-! ### Invariants of the package (R484, R487) -/

/-- Two descriptors share no cluster and no ASID slot. -/
def PartsApart (a b : PartDesc) : Prop :=
  a.clusters &&& b.clusters = 0#24 ∧ (a.asidBase + a.asidCount ≤ b.asidBase ∨ b.asidBase + b.asidCount ≤ a.asidBase)

/-- Every partition keeps the limits of R484, no two share a cluster or an ASID slot, and no two share a key (R487); the package is
a member of its own domain (R491), and its power limit is a legal one (R496). -/
structure PackageOk (k : Package) : Prop where
  sorted : mwf k.parts = true ∧ mwf k.keys = true
  listed : ∀ e ∈ k.parts, e.1 = e.2.part.toNat
  limits : ∀ e ∈ k.parts, descLimits e.2 = true
  apart  : k.parts.Pairwise fun a b => PartsApart a.2 b.2
  below  : ∀ e ∈ k.keys, e.2 < k.nextKey
  keys   : k.keys.Pairwise fun a b => a.2 ≠ b.2
  domain : k.members = 0#32 ∨ k.members.getLsbD k.number.toNat = true
  power  : 600 ≤ k.power ∧ k.power ≤ 1400

/-- The machine's invariant: the package keeps its rules and main memory its canonical form. -/
structure MachineOk (s : State) : Prop where
  package : PackageOk s.pkg
  memory  : Memory.wf s.dram = true

/-! ### Situations that statements name -/

/-- No mortar table has an open round. -/
def NoRounds (u : Unit) : Prop := ∀ k : Fin 4, (u.rt.ra[k]).open_ = none

/-- An open session whose only graph is the one launch x of one unit, still to complete, in no phase and without a pair, and none of whose
replies is open. -/
structure OnlyLaunch (s : State) (l : LaunchId) (j : Job) (x : Launch) (g : Gang) : Prop where
  job : mget s.jobs (idKey l) = some j
  names : j.r.part = l.part ∧ j.r.job = l.job
  graphs : j.graphs = [⟨l.graph, [x], false, none⟩] ∧ l.launch = 0
  going : j.r.stream = false ∧ j.open_ = true ∧ j.done = false
  fresh : x.status = none ∧ x.detail = 0#8 ∧ x.cancelled = none ∧ x.deps = [] ∧ x.units = [] ∧ x.gangs = [g]
  single : lrUnits x.rec_ = 1 ∧ lrNr x.rec_ = 1 ∧ lrNc x.rec_ = 1 ∧ lrPhb x.rec_ = false ∧ lrPaired x.rec_ = false
  replies : ∀ c ∈ s.text.ctxs, ¬(c.part = l.part ∧ c.job = l.job)

end Sys2Proof.Machine
end

