-- ==== Sys2Proof/Certificates/Slice0/Obligations.lean ====
section
/-! DEFINITION. The statements for the provers. Each docstring names the rules of spec/ that a statement formalises; where a clause rests on a
choice of the model, it names the log entry. -/

open Sys2Proof Sys2Proof.Machine

/-! ### Encodings -/
/-- R15, R20 to R28, R37 to R42: words written out from the tables of 01_issue_slots.md are the instructions they stand for, and
words with a reserved kind, operation, guard or field are refused with the causes of R17. -/
def Obligations.EncodingTablesRead : Prop :=
  decodeSlot 0x0B490400 none = .ok (.jt 9#6 0x040#12 0#4)
  ∧ decodeSlot 0x10C61128 none = .ok (.vfma 3#5 1#5 2#5 2#3 true 0#2)
  ∧ decodeSlot 0x20C70000 none = .ok (.mdrain false 7#5 0#4)
  ∧ decodeSlot 0x32C52420 none = .ok (.qawait 5#6 9#6 2#6 0#4)
  ∧ decodeSlot 0x40140000 none = .ok (.slw 20#6 0#4 none)
  ∧ decodeWords [0x05440380#32, 0xD848D159#32] = .ok (.addi 4#6 0#6 56#6 0#4 (some 0x848D159#28), [])
  ∧ decodeSlot 0x60000000 none = .error .reservedKind ∧ decodeSlot 0x20000001 none = .ok (.mpush false 1#4)
  ∧ decodeSlot 0x21C00000 none = .error .unassignedOp ∧ decodeSlot 0x20000008 none = .error .guardReserved
  ∧ decodeSlot 0x20000010 none = .error .reservedField

/-- R15, R28: for every slot instruction that R16 to R42 let stand, with every operand at every value, its words decode to it,
whatever follows its bundle; and no word but its own decodes to a slot, so that each word has one meaning. -/
def Obligations.EncodeDecodeRoundTrip : Prop :=
  (∀ (i : Instr) (rest : List W32), i.wf = true → i.isEvent = false →
    decodeWords (encode i true ++ rest) = .ok (i, rest) ∧ (encode i true).length = slotWords i)
  ∧ (∀ (w : Nat) (x : Option Limm) (i : Instr), w < 2 ^ 31 → decodeSlot w x = .ok i →
    i.word? = some w ∧ i.isEvent = false ∧ (i.limm? = x ∨ i.limm? = none))

/-! ### Reset, and what every step keeps -/
/-- R47, R50, R53, R121, R153, R156, R188, R189, R197, R363, R494: the values that the spec gives for a fresh unit and for power-on:
registers, banks, control registers, latches, rings, queues, the time base and the measurements. That they stand at State.reset,
where no unit is on the core, is the model's choice (log 3); there the invariant of the machine holds. -/
def Obligations.ResetValues : Prop :=
  let u := State.reset.unit
  (∀ r, gReg u r = 0#64) ∧ (∀ r, vReg u r = 0#2048) ∧ (∀ r, mReg u r = if r = 0#3 then BitVec.allOnes 64 else 0#64)
  ∧ (∀ r, pReg u r = decide (r = 0#3))
  ∧ (∀ n ∈ [0x000, 0x001, 0x002, 0x007, 0x008, 0x010, 0x011, 0x012, 0x013, 0x01C, 0x080, 0x082, 0x090, 0x0A0, 0x0A1, 0x0A2, 0x0B1, 0x0B2,
      0x0C0, 0x0E4], crRead State.reset n = 0#64)
  ∧ (∀ k : Fin 16, crRead State.reset (0x050 + k.val) = 0#64) ∧ (∀ a, readByte u.pad.bytes a = 0#8) ∧ (∀ q, ringAt u.pad q = none)
  ∧ (∀ k < 64, latchScale u.mx.sw k = 0x007F ∧ latchZp u.mx.sw k = 0 ∧ latchScale u.mx.sn k = 0x007F ∧ latchZp u.mx.sn k = 0)
  ∧ (∀ q < 6, queueOf u q = []) ∧ State.reset.time = 0 ∧ (∀ k : Fin 8, State.reset.pkg.meas[k] = 0#512)
  ∧ State.reset.pkg.boot = .off ∧ State.reset.pkg.parts = [] ∧ MachineOk State.reset

/-- R484, R487, R491, R496: whatever step the machine takes, every partition keeps its limits, no two partitions share a cluster, an
ASID slot or a key, a package in a domain is one of its members, the power limit stays a legal one, and main memory keeps its
canonical form. Logs 4 and 61 name the model's choices that it rests on. -/
def Obligations.MachineOkKeptByEveryStep : Prop :=
  ∀ (s t : State), MachineOk s → step s = .next t → MachineOk t

/-- R5: bytes stored are the bytes read, the lowest address first, and every other byte stays; the byte at the lowest address of a number is
its least significant one; two memories in canonical form that read alike at
every address are the same data.
Log 4 names the model's choices that it rests on. -/
def Obligations.MemoryReadsAfterWrites : Prop :=
  (∀ (m : Memory) (a : Nat) (bs : List Byte), readBytes (writeBytes m a bs) a bs.length = bs
    ∧ ∀ b, b < a ∨ a + bs.length ≤ b → readByte (writeBytes m a bs) b = readByte m b)
  ∧ (∀ (m : Memory) (a n v : Nat), readNat (writeNat m a n v) a n = v % 256 ^ n
    ∧ ∀ k < n, readByte (writeNat m a n v) (a + k) = BitVec.ofNat 8 (v / 256 ^ k))
  ∧ (∀ (m k : Memory), Memory.wf m = true → Memory.wf k = true → (∀ a, readByte m a = readByte k a) → m = k)

/-! ### The step and the bundle -/
/-- R13, R30: with no event waiting, a running unit that has not yet tried its bundle takes one step as the meaning of the
instruction that the words at the program counter decode to, where that instruction stands alone in its bundle. The step adds
nothing: what the bundle does of itself is part of the instruction's meaning. The model's order of steps (log 2): the first event
of the agenda is taken, before any bundle, and only events stand there. -/
def Obligations.StepRunsDecodedInstruction : Prop :=
  (∀ (s : State) (i : Instr) (rest : List W32),
      s.agenda = [] → mayIssue s = true → s.unit.ctx.tried = false →
      decodeWords (wordsAhead s.unit) = .ok (i, rest) → i.wf = true → slotWords i ≤ wordsLeft s.unit →
      (fetchWord s.unit (s.unit.pc.toNat + 4 * (slotWords i - 1))).msb = true →
      step s = exec i s)
  ∧ (∀ (s : State) (e : Instr) (rest : List Instr), s.agenda = e :: rest →
      (e.isEvent = true → step s = exec e { s with agenda := rest, unit := { s.unit with ctx.tried := false } })
      ∧ (e.isEvent = false → step s = .refused .agendaNotEvent))

/-- R20: the guard table; a slot whose guard is false completes without any effect of its own, whatever instruction it is; and the
guard value 0b1000 is refused with the cause of R17.
Log 69 names the model's choice at the store's last word. -/
def Obligations.GuardedOffSlotHasNoEffect : Prop :=
  (∀ (u : Machine.Unit) (p : BitVec 3),
    guardOn 0#4 u = true
    ∧ guardOn (p.setWidth 4) u = pReg u p ∧ (p ≠ 0#3 → guardOn (p.setWidth 4 ||| 8#4) u = !pReg u p))
  ∧ (∀ (i : Instr) (g : BitVec 4) (s : State),
    i.guard? = some g → guardOn g (landDue s).unit = false → Passes i s)
  ∧ (∀ (i : Instr) (w : Nat), i.guard? = some 8#4 → i.word? = some w →
    i.wf = false ∧ decodeSlot w i.limm? = .error .guardReserved ∧ DecodeError.guardReserved.cause = 0x07)

/-! ### Registers and landing -/
/-- R50: G0 reads 0 and P0 reads 1, and every write of them is discarded, that of a result in flight or of a load or an atomic
included. -/
def Obligations.HardwiredRegisters : Prop :=
  ∀ (u : Machine.Unit) (s : State) (v : W64) (b : Bool),
    gReg u 0#6 = 0#64 ∧ pReg u 0#3 = true ∧ setG u 0#6 v = u ∧ setP u 0#3 b = u
    ∧ landDest s (.g 0#6 v) = s ∧ landDest s (.p 0#3 b) = s
    ∧ ∀ a : Access, (landValue u a).g[0] = u.g[0]

/-- R32, R34: of the results due in an issue cycle that go to one register (or one lane bit), the one that stands last in the
order of issue is the value; a result that is not due stays in flight, and a register to which none is due keeps its value. R57: a
flag set by a result that lands stands, even where a write of CR.FFLAGS that clears it lands in the same issue cycle. -/
def Obligations.LatestDueResultStands : Prop :=
  (∀ (s : State),
      (landDue s).unit.landing = s.unit.landing.filter (fun l => s.unit.cyc < l.due)
      ∧ (∀ r, (∀ l ∈ s.unit.landing, l.due ≤ s.unit.cyc → ∀ w, l.dest ≠ .g r w) → gReg (landDue s).unit r = gReg s.unit r)
      ∧ (∀ r, (∀ l ∈ s.unit.landing, l.due ≤ s.unit.cyc → ∀ b d, l.dest ≠ .v r b d) → vReg (landDue s).unit r = vReg s.unit r)
      ∧ ∀ pre l post, s.unit.landing = pre ++ l :: post → l.due ≤ s.unit.cyc →
        (∀ r v, l.dest = .g r v → r ≠ 0#6 → (∀ k ∈ post, k.due ≤ s.unit.cyc → ∀ w, k.dest ≠ .g r w) → gReg (landDue s).unit r = v)
        ∧ (∀ r v, l.dest = .p r v → r ≠ 0#3 →
          (∀ k ∈ post, k.due ≤ s.unit.cyc → (∀ w, k.dest ≠ .p r w) ∧ ∀ w, k.dest ≠ .cr 0x009#11 w) → pReg (landDue s).unit r = v)
        ∧ (∀ r bits data n, l.dest = .v r bits data → bits.getLsbD n = true →
          (∀ k ∈ post, k.due ≤ s.unit.cyc → ∀ b d, k.dest = .v r b d → b.getLsbD n = false) →
          (vReg (landDue s).unit r).getLsbD n = data.getLsbD n)
        ∧ (∀ r bits data n, l.dest = .m r bits data → r ≠ 0#3 → bits.getLsbD n = true →
          (∀ k ∈ post, k.due ≤ s.unit.cyc →
            (∀ b d, k.dest = .m r b d → b.getLsbD n = false) ∧ ∀ c w, k.dest = .cr c w → c.toNat ≠ 0x040 + r.toNat) →
          (mReg (landDue s).unit r).getLsbD n = data.getLsbD n))
  ∧ (∀ (s : State) (l : Landing) (n : Nat), l ∈ s.unit.landing → l.due ≤ s.unit.cyc → l.flags.getLsbD n = true →
      (landDue s).unit.cr.fflags.getLsbD n = true)

/-! ### Scalar results -/
/-- R60: the register ALU instructions, in the latency of R32.
Log 69 names the model's choice at the store's last word. -/
def Obligations.RegisterAluResults : Prop :=
  ∀ (s : State) (d a b : BitVec 6) (g : BitVec 4), guardOn g (landDue s).unit = true →
    let x := gReg (landDue s).unit a
    let y := gReg (landDue s).unit b
    let n := (y.setWidth 6).toNat
    LandsG (.add d a b g) s 1 d (x + y) ∧ LandsG (.sub d a b g) s 1 d (x - y)
    ∧ LandsG (.and d a b g) s 1 d (x &&& y) ∧ LandsG (.or d a b g) s 1 d (x ||| y)
    ∧ LandsG (.xor d a b g) s 1 d (x ^^^ y) ∧ LandsG (.andn d a b g) s 1 d (x &&& ~~~y)
    ∧ LandsG (.shl d a b g) s 1 d (x <<< n) ∧ LandsG (.shr d a b g) s 1 d (x >>> n)
    ∧ LandsG (.sar d a b g) s 1 d (x.sshiftRight n) ∧ LandsG (.rotl d a b g) s 1 d ((x <<< n) ||| (x >>> (64 - n)))
    ∧ LandsG (.mul d a b g) s 3 d (BitVec.ofNat 64 (x.toNat * y.toNat))
    ∧ LandsG (.mulh d a b g) s 3 d (BitVec.ofInt 64 (x.toInt * y.toInt / 2 ^ 64))
    ∧ LandsG (.mulhu d a b g) s 3 d (BitVec.ofNat 64 (x.toNat * y.toNat / 2 ^ 64))
    ∧ LandsG (.min d a b g) s 1 d (if x.toInt < y.toInt then x else y)
    ∧ LandsG (.max d a b g) s 1 d (if x.toInt < y.toInt then y else x)
    ∧ LandsG (.minu d a b g) s 1 d (if x.toNat < y.toNat then x else y)
    ∧ LandsG (.maxu d a b g) s 1 d (if x.toNat < y.toNat then y else x)

/-- R61: division with truncation toward zero, the remainder with the sign of the dividend, and the values for a zero divisor and for
−2^63 by −1; always after twelve issue cycles, and no trap.
Log 69 names the model's choice at the store's last word. -/
def Obligations.DivisionResults : Prop :=
  ∀ (s : State) (d a b : BitVec 6) (g : BitVec 4), guardOn g (landDue s).unit = true →
    let x := gReg (landDue s).unit a
    let y := gReg (landDue s).unit b
    ∃ q r qu ru : W64,
      LandsG (.div d a b g) s 12 d q ∧ LandsG (.rem d a b g) s 12 d r
      ∧ LandsG (.divu d a b g) s 12 d qu ∧ LandsG (.remu d a b g) s 12 d ru
      ∧ (y = 0#64 → q = BitVec.allOnes 64 ∧ r = x ∧ qu = BitVec.allOnes 64 ∧ ru = x)
      ∧ (y ≠ 0#64 → qu.toNat = x.toNat / y.toNat ∧ ru.toNat = x.toNat % y.toNat)
      ∧ (x.toInt = -2 ^ 63 → y.toInt = -1 → q = x ∧ r = 0#64)
      ∧ (y ≠ 0#64 → ¬(x.toInt = -2 ^ 63 ∧ y.toInt = -1) →
        x.toInt = q.toInt * y.toInt + r.toInt ∧ r.toInt.natAbs < y.toInt.natAbs ∧ (r = 0#64 ∨ (r.toInt < 0 ↔ x.toInt < 0)))

/-- R22, R28, R62: the immediate ALU instructions, with imm6 sign-extended or the value of a LIMM in each of its modes; the
immediate shifts take imm6 as a count. R64, R68: the shifted sums, the move of an immediate, and the selection by a predicate.
Log 69 names the model's choice at the store's last word. -/
def Obligations.ImmediateAndMoveResults : Prop :=
  ((∀ (i : BitVec 6) (l : Limm),
      let v := BitVec.ofNat 32 (l.toNat % 2 ^ 26 * 64 + i.toNat)
      immValue i none = i.signExtend 64
      ∧ (l.toNat / 2 ^ 26 = 0 → immValue i (some l) = v.signExtend 64)
      ∧ (l.toNat / 2 ^ 26 = 1 → immValue i (some l) = v.setWidth 64)
      ∧ (l.toNat / 2 ^ 26 = 2 → immValue i (some l) = v.setWidth 64 <<< (32 : Nat)))
    ∧ ∀ (s : State) (d a i : BitVec 6) (g : BitVec 4) (x : Option Limm), guardOn g (landDue s).unit = true →
      let w := gReg (landDue s).unit a
      LandsG (.addi d a i g x) s 1 d (w + immValue i x) ∧ LandsG (.andi d a i g x) s 1 d (w &&& immValue i x)
      ∧ LandsG (.ori d a i g x) s 1 d (w ||| immValue i x) ∧ LandsG (.xori d a i g x) s 1 d (w ^^^ immValue i x)
      ∧ LandsG (.shli d a i g) s 1 d (w <<< i.toNat) ∧ LandsG (.shri d a i g) s 1 d (w >>> i.toNat)
      ∧ LandsG (.sari d a i g) s 1 d (w.sshiftRight i.toNat))
  ∧ (∀ (s : State) (d a b : BitVec 6) (p f : BitVec 3) (i : BitVec 12) (g : BitVec 4), guardOn g (landDue s).unit = true →
      let u := (landDue s).unit
      LandsG (.adds0 d a b g) s 1 d (gReg u a + gReg u b)
      ∧ LandsG (.adds1 d a b g) s 1 d (gReg u a + (gReg u b <<< (1 : Nat)))
      ∧ LandsG (.adds2 d a b g) s 1 d (gReg u a + (gReg u b <<< (2 : Nat)))
      ∧ LandsG (.adds3 d a b g) s 1 d (gReg u a + (gReg u b <<< (3 : Nat)))
      ∧ LandsG (.movw d i g) s 1 d (i.signExtend 64)
      ∧ LandsG (.sel d a p f g) s 1 d (if pReg u p then gReg u a else gReg u (f.setWidth 6)))

/-- R63: counts of leading and trailing zeros and of one bits, extensions, and the fields of BEXT and BINS, bit by bit.
Log 69 names the model's choice at the store's last word. -/
def Obligations.BitAndFieldResults : Prop :=
  ∀ (s : State) (d a b w : BitVec 6) (g : BitVec 4), guardOn g (landDue s).unit = true →
    let x := gReg (landDue s).unit a
    let y := gReg (landDue s).unit b
    let p := (y.setWidth 6).toNat
    let n := ((y >>> 8).setWidth 6).toNat + 1
    (∃ z : Nat, z ≤ 64 ∧ LandsG (.clz d a g) s 1 d (BitVec.ofNat 64 z)
      ∧ (∀ k < 64, 64 ≤ k + z → x.getLsbD k = false) ∧ (z < 64 → x.getLsbD (63 - z) = true))
    ∧ (∃ z : Nat, z ≤ 64 ∧ LandsG (.ctz d a g) s 1 d (BitVec.ofNat 64 z)
      ∧ (∀ k < z, x.getLsbD k = false) ∧ (z < 64 → x.getLsbD z = true))
    ∧ LandsG (.popc d a g) s 1 d (BitVec.ofNat 64 ((List.range 64).filter fun k => x.getLsbD k).length)
    ∧ (∃ v : W64, LandsG (.sext d a w g) s 1 d v ∧ ∀ k < 64, v.getLsbD k = x.getLsbD (if k ≤ w.toNat then k else w.toNat))
    ∧ (∃ v : W64, LandsG (.zext d a w g) s 1 d v ∧ ∀ k < 64, v.getLsbD k = (decide (k ≤ w.toNat) && x.getLsbD k))
    ∧ (∃ v : W64, LandsG (.bext d a b g) s 1 d v ∧
      ∀ k < 64, v.getLsbD k = (decide (k < n) && decide (p + k ≤ 63) && x.getLsbD (p + k)))
    ∧ (∃ v : W64, LandsG (.bins d a b g) s 1 d v ∧
      ∀ k < 64, v.getLsbD k = if p ≤ k ∧ k < p + n then x.getLsbD (k - p) else (gReg (landDue s).unit d).getLsbD k)

/-- R65, R67: the conditions of CMP and CMPI, and the truth table of PLOG.
Log 69 names the model's choice at the store's last word. -/
def Obligations.ComparesAndPredicateLogic : Prop :=
  ∀ (s : State) (c p p1 p2 : BitVec 3) (a b i : BitVec 6) (f g : BitVec 4) (x : Option Limm), guardOn g (landDue s).unit = true →
    let u := (landDue s).unit
    let holds := fun (v w : W64) =>
      if c = 0#3 then decide (v = w) else if c = 1#3 then decide (v ≠ w)
      else if c = 2#3 then decide (v.toInt < w.toInt) else if c = 3#3 then decide (w.toInt ≤ v.toInt)
      else if c = 4#3 then decide (v.toNat < w.toNat) else if c = 5#3 then decide (w.toNat ≤ v.toNat)
      else if c = 6#3 then decide (v &&& w ≠ 0#64) else decide (v &&& w = 0#64)
    Lands (.cmp c p a b g) s 1 (.p p (holds (gReg u a) (gReg u b))) 0#6
    ∧ Lands (.cmpi c p a i g x) s 1 (.p p (holds (gReg u a) (immValue i x))) 0#6
    ∧ Lands (.plog p f p1 p2 g) s 1
      (.p p (f.getLsbD (2 * (if pReg u p1 then 1 else 0) + if pReg u p2 then 1 else 0))) 0#6

/-! ### Transfers and loops -/
/-- R69 to R72: the targets of BR, CALL and JR; CALL writes G63; a target outside the instruction store, or not a multiple of 4,
traps and the bundle does not issue. R73: JT takes the count from entry 0 of its table, goes past the table to the last entry, and
traps on a table word outside the instruction store, with a nonzero zero field, or with a misaligned target. R77: a taken BR, JR or
JT pops each level whose range holds its bundle and not its target, with every level inside it, and the counters keep their values; CALL
pops none. -/
def Obligations.TransfersReachTargets : Prop :=
  (∀ (s : State) (o : BitVec 18) (a : BitVec 6) (g : BitVec 4), guardOn g (landDue s).unit = true →
      let u := (landDue s).unit
      let t : Int := u.pc.toNat + 4 * o.toInt
      let x := (gReg u a).toNat
      (0 ≤ t → t < 0x80000 → t % 4 = 0 →
        Transfers (.br o g) s t.toNat []
        ∧ Transfers (.call o g) s t.toNat [⟨u.cyc + 1, u.nextAcc, .g 63#6 (BitVec.ofNat 64 (u.pc.toNat + 4)), 0#6⟩]
        ∧ LeavesLevels (.br o g) s t.toNat ∧ KeepsLevels (.call o g) s)
      ∧ (¬(0 ≤ t ∧ t < 0x80000 ∧ t % 4 = 0) → Traps (.br o g) s 0x12 0#12 ∧ Traps (.call o g) s 0x12 0#12)
      ∧ (x < 0x80000 → x % 4 = 0 → Transfers (.jr a g) s x [] ∧ LeavesLevels (.jr a g) s x)
      ∧ (¬(x < 0x80000 ∧ x % 4 = 0) → Traps (.jr a g) s 0x12 0#12))
  ∧ (∀ (s : State) (d : BitVec 6) (i : BitVec 12) (g : BitVec 4), guardOn g (landDue s).unit = true →
      let u := (landDue s).unit
      let base : Int := u.pc.toNat + 4 * i.toInt
      let last := (fetchWord u base.toNat).toNat / 2 ^ 19 % 256
      let k := min (gReg u d).toNat last
      let e := (fetchWord u (base.toNat + 4 * k)).toNat
      let inside := 0 ≤ base ∧ base < 0x80000 ∧ base + 4 * (k : Nat) < 0x80000
      (inside → e / 2 ^ 27 = 0 → e % 4 = 0 → Transfers (.jt d i g) s (e % 2 ^ 19) [] ∧ LeavesLevels (.jt d i g) s (e % 2 ^ 19))
      ∧ (¬(inside ∧ e / 2 ^ 27 = 0 ∧ e % 4 = 0) → Traps (.jt d i g) s 0x15 0#12))

/-- R74, R76: a LOOP or LOOPI whose nesting is proper, in no loop or in up to three active levels, pushes one level and sets its
counter, or, with a count of 0, goes on after the body's last bundle; improper ones trap with the lower cause. R75: a bundle at the
end address of the one active level goes back to its start while its counter is above 1, and otherwise pops it with the counter at
0; at another address it runs no end test. Logs 54, 60, 65 and 69 name the model's choices that it rests on. -/
def Obligations.LoopsPushAndRepeat : Prop :=
  (∀ (s : State) (n : BitVec 2) (a c : BitVec 6) (d : BitVec 9) (g : BitVec 4) (x : Option Limm),
      guardOn g (landDue s).unit = true → ∀ i, (i = .loop n a d g ∨ i = .loopi n c d g x) →
      let u := (landDue s).unit
      let l := u.loops
      let body := u.pc.toNat + 4 * slotWords i
      let last := body + 4 * d.toNat
      let count : W32 := if i = .loop n a d g then (gReg u a).setWidth 32
        else match x with | none => c.setWidth 32 | some _ => (immValue c x).setWidth 32
      let improper := (∃ h : 0 < l.depth ∧ l.depth ≤ 4, (l.last[l.depth - 1]'(by omega)).toNat < last)
        ∨ ∃ k : Fin 4, k.val < l.depth ∧ l.sel[k] = n
      (4 ≤ l.depth → Traps i s 0x13 0#12)
      ∧ (l.depth < 4 → improper → Traps i s 0x14 0#12)
      ∧ (l.depth < 4 → ¬improper → count = 0#32 →
        ∃ t, exec i s = .next t ∧ t = sequenced (landDue s) t ∧ t.unit.cyc = u.cyc + 1 ∧ t.unit.landing = u.landing
          ∧ t.unit.loops = l ∧ t.unit.pc = BitVec.ofNat 19 (lastWord u 7 last + 4))
      ∧ (l.depth < 4 → ¬improper → last < 2 ^ 19 → count ≠ 0#32 →
        ∃ t, exec i s = .next t ∧ t = sequenced (landDue s) t ∧ t.unit.cyc = u.cyc + 1 ∧ t.unit.landing = u.landing
          ∧ t.unit.pc.toNat = body ∧ t.unit.loops.depth = l.depth + 1
          ∧ (∀ k : Fin 4, t.unit.loops.lc[k] = if k = n.toFin then count else l.lc[k])
          ∧ ∀ k : Fin 4, (k.val = l.depth → t.unit.loops.start[k].toNat = body ∧ t.unit.loops.last[k].toNat = last ∧ t.unit.loops.sel[k] = n)
            ∧ (k.val ≠ l.depth →
              t.unit.loops.start[k] = l.start[k] ∧ t.unit.loops.last[k] = l.last[k] ∧ t.unit.loops.sel[k] = l.sel[k])))
  ∧ (∀ (s : State) (i : Instr) (g : BitVec 4), i.guard? = some g → guardOn g (landDue s).unit = false →
      let u := (landDue s).unit
      let l := u.loops
      let n := l.lc[l.sel[0].toFin]
      l.depth = 1 →
      ∃ t, exec i s = .next t ∧ t = sequenced (landDue s) t
        ∧ (l.last[0] = u.pc → 1 < n.toNat → t.unit.pc = l.start[0] ∧ t.unit.loops.depth = 1 ∧ t.unit.loops.lc[l.sel[0].toFin] = n - 1)
        ∧ (l.last[0] = u.pc → n.toNat ≤ 1 →
          t.unit.pc = BitVec.ofNat 19 (u.pc.toNat + 4 * slotWords i) ∧ t.unit.loops.depth = 0
          ∧ t.unit.loops.lc[l.sel[0].toFin] = 0#32)
        ∧ (l.last[0] ≠ u.pc → t.unit.pc = BitVec.ofNat 19 (u.pc.toNat + 4 * slotWords i) ∧ t.unit.loops = l))

/-! ### Unit control -/
/-- R58, R59, R79, R379, R383: TRAP and BREAK take effect after their bundle. CR.FAULTINFO takes the cause, imm12 and the bundle's
address; results in flight become snapshot entries; the unit is frozen at the next bundle, which CR.SAVEPC names; and a unit-event
record is written. A loop's end test moves the next bundle, so the address is stated outside loops.
Logs 21, 22, 66 and 69 name the model's choices that it rests on. -/
def Obligations.TrapAndBreakFreeze : Prop :=
  ∀ (s : State) (c : BitVec 12) (g : BitVec 4), guardOn g (landDue s).unit = true → (landDue s).unit.cr.pending = false →
    ∀ i cause why, ((i = .trap c g ∧ cause = 0x10 ∧ why = FreezeReason.trap) ∨ (i = .brk c g ∧ cause = 0x11 ∧ why = .brk)) →
    let u := (landDue s).unit
    ∃ t, exec i s = .next t
      ∧ t.unit.cr.faultinfo = BitVec.ofNat 64 (s.unit.pc.toNat * 2 ^ 32 + c.toNat * 2 ^ 12 + cause)
      ∧ t.unit.run = .frozen why ∧ t.unit.cr.savepc = t.unit.pc
      ∧ (u.loops.depth = 0 → t.unit.pc = BitVec.ofNat 19 (u.pc.toNat + 4))
      ∧ t.unit.landing = [] ∧ t.area.map (·.snapshot) = some (u.landing.map fun l => { l with due := l.due - (u.cyc + 1) })
      ∧ t.events = (landDue s).events
        ++ [⟨u.cr.part, u.cr.job, u.cr.unit, u.cr.lcore, if cause = 0x10 then 1 else 2, t.unit.cr.faultinfo, u.cr.ctxbase⟩]
      ∧ t.unit.g = u.g ∧ t.unit.p = u.p ∧ t.unit.v = u.v ∧ t.unit.m = u.m ∧ t.unit.pad = u.pad ∧ t.unit.mx = u.mx
      ∧ t.dram = (landDue s).dram ∧ t.llc = (landDue s).llc

/-- R58, R59, R379, R383: what a trap under which the bundle does not issue does, for every cause: CR.FAULTINFO, the freeze before the
bundle with its results in flight kept as snapshot entries, and the unit-event record; no register of the unit changes.
Logs 21, 22 and 66 name the model's choices that it rests on. -/
def Obligations.TrapEntry : Prop :=
  ∀ (s : State) (slot cause : Nat) (code : BitVec 12), s.unit.cr.pending = false → slot < 8 → cause < 256 →
    let t := trapHere s slot cause code
    let u := s.unit
    t.unit.cr.faultinfo = BitVec.ofNat 64 (u.pc.toNat * 2 ^ 32 + code.toNat * 2 ^ 12 + slot * 2 ^ 8 + cause)
    ∧ t.unit.run = .frozen .trap ∧ t.unit.pc = u.pc ∧ t.unit.cr.savepc = u.pc ∧ t.unit.landing = []
    ∧ (∃ a, t.area = some a ∧ a.savepc = u.pc ∧ a.kind = 2 ∧ a.reason = 1 ∧ a.banks = u.pad.banks ∧ a.issued = u.cr.issued
      ∧ a.time = s.time ∧ a.snapshot = u.landing.map (fun l => { l with due := l.due - u.cyc })
      ∧ a.scalar.g = u.g ∧ a.scalar.p = u.p ∧ a.scalar.m = u.m ∧ a.scalar.loops = u.loops ∧ a.v = u.v ∧ a.mx = u.mx
      ∧ a.rings = u.pad.rings ∧ a.pad = u.pad.bytes)
    ∧ t.events = s.events ++ [⟨u.cr.part, u.cr.job, u.cr.unit, u.cr.lcore, 1, t.unit.cr.faultinfo, u.cr.ctxbase⟩]
    ∧ t = { s with
      area := t.area, events := t.events
      unit := { u with
        run := .frozen .trap, landing := [], ctx := t.unit.ctx
        cr := { u.cr with faultinfo := t.unit.cr.faultinfo, savepc := u.pc } } }

/-- R80: EXIT ends the unit: results due later are discarded and the loop stack with them; queued operations go on. R81: YIELD has
no effect without a pre-emption request; with one it ends the save half once the unit's counters and queues are empty, and holds
its bundle until then. R346, R347, R350, R351: TRIGGER records a release that covers the accesses issued before it; WAITDEP goes
on, as an acquire, where its condition has held before or no producer is to be waited for; PHASE traps without PHB, and goes on
once the phase in which the unit has arrived is over.
Logs 23 and 69 name the model's choices that it rests on. -/
def Obligations.UnitControlCompletes : Prop :=
  (∀ (s : State) (g : BitVec 4), guardOn g (landDue s).unit = true →
      let u := (landDue s).unit
      (∃ t, exec (.exit g) s = .next t ∧ t.unit.run = .exited ∧ t.unit.landing = [] ∧ t.unit.loops.depth = 0
        ∧ t.unit.g = u.g ∧ t.unit.pad = u.pad ∧ t.unit.accs = u.accs ∧ t.unit.nl = u.nl ∧ t.unit.ns = u.ns ∧ t.unit.nc = u.nc
        ∧ t.unit.nt = u.nt ∧ t.unit.cq0 = u.cq0 ∧ t.unit.cq1 = u.cq1 ∧ t.unit.rq = u.rq ∧ t.unit.kq = u.kq
        ∧ t = { landDue s with unit := t.unit })
      ∧ (u.cr.pending = false → Passes (.yield g) s)
      ∧ (u.cr.pending = true → u.cr.restore = false → unitQuiet u = true →
        ∃ t, exec (.yield g) s = .next t ∧ t.unit.run = .yielded ∧ t.unit.landing = [] ∧ t.unit.g = u.g
          ∧ t = { landDue s with unit := t.unit })
      ∧ (u.cr.pending = true → u.cr.restore = false → unitQuiet u = false → Waits (.yield g) s false))
  ∧ (∀ (s : State) (g : BitVec 4), guardOn g (landDue s).unit = true →
      let u := (landDue s).unit
      Acts (.trigger g) s (fun v => { v with triggers := v.triggers ++ [v.nextAcc] })
      ∧ (unitJob (landDue s) = none ∨ u.wdheld = true
          ∨ (∃ j l, unitJob (landDue s) = some j ∧ unitLaunch (landDue s) = some l ∧ (producersOf j l).all producerMet = true) →
        ∃ t, exec (.waitdep g) s = .next t ∧ Issued 1 (landDue s) t ∧ t.unit.wdheld = true
          ∧ t.unit.l1bound = Vector.replicate 16 (landDue s).stamp ∧ t.unit.g = u.g ∧ t.unit.landing = u.landing)
      ∧ (u.launch.phb = false → Traps (.phase g) s 0x32 0#12)
      ∧ (∀ j p, u.launch.phb = true → unitJob (landDue s) = some j → u.launch.arrived = some p → p ≠ j.phase →
        Acts (.phase g) s fun v =>
          { v with launch := { v.launch with arrived := none }, l1bound := Vector.replicate 16 (landDue s).stamp })
      ∧ (∀ j p, u.launch.phb = true → unitJob (landDue s) = some j → u.launch.arrived = some p → p = j.phase →
        othersOut (landDue s) j = [] → Waits (.phase g) s true))

/-- R218, R220: WAIT goes on where every counter it names is at or below its bound, 15 naming none, and the unit has no error to
surface; it waits otherwise. R220, R325: the oldest error of a class that a WAIT names is taken once the bounds hold: the trap
carries the error's cause, the error is consumed, and an aborted access leaves its fault code and VA in CR.MEMFAULT. R260, R262:
FENCE never waits. It adds one entry, with its scope, its classes and class 15, before every later access; an entry that nothing
holds open is gone at once, and one at .clu or wider then sets the L1 bound of its classes.
Log 69 names the model's choice at the store's last word. -/
def Obligations.WaitAndFence : Prop :=
  (∀ (s : State) (a b c d : BitVec 4) (g : BitVec 4), guardOn g (landDue s).unit = true →
      let u := (landDue s).unit
      let ok := fun (x : BitVec 4) (n : Nat) => x = 15#4 ∨ n ≤ x.toNat
      let met := ok a u.nl ∧ ok b u.ns ∧ ok c u.nc ∧ ok d u.nt
      (met → u.deferred = [] → Passes (.wait a b c d g) s) ∧ (¬met → Waits (.wait a b c d g) s true))
  ∧ (∀ (s : State) (e : Deferred) (g : BitVec 4), guardOn g (landDue s).unit = true →
      let u := (landDue s).unit
      u.nl = 0 → u.ns = 0 → u.nc = 0 → u.nt = 0 → u.deferred = [e] → s.unit.cr.pending = false →
      ∃ t, exec (.wait 0#4 0#4 0#4 0#4 g) s = .next t ∧ t.unit.run = .frozen .trap ∧ t.unit.pc = s.unit.pc ∧ t.unit.deferred = []
        ∧ t.unit.cr.faultinfo = BitVec.ofNat 64 (s.unit.pc.toNat * 2 ^ 32 + e.cause.toNat)
        ∧ t.unit.cr.memfault =
          (if e.cause = 0x2D#8 then BitVec.ofNat 64 (e.code.toNat * 2 ^ 60 + e.va.toNat % 2 ^ 57) else u.cr.memfault))
  ∧ (∀ (s : State) (scope : BitVec 3) (mask : BitVec 15) (g : BitVec 4), guardOn g (landDue s).unit = true →
      ∃ t, exec (.fence scope mask g) s = .next t ∧ Issued 1 (landDue s) t
        ∧ t.unit.fences = ((landDue s).unit.fences
          ++ [(⟨mask.setWidth 16 ||| 0x8000#16, scope, (landDue s).unit.nextAcc⟩ : MemFence)]).filter
          (fenceOpen (landDue s).unit)
        ∧ ((landDue s).unit.fences = [] → (landDue s).unit.accs = [] → (landDue s).unit.posted = [] → scope ≠ 0#3 →
          ∀ c : Fin 16, (mask.setWidth 16 ||| 0x8000#16).getLsbD c.val = true → t.unit.l1bound[c] = (landDue s).stamp)
        ∧ t = sequenced { landDue s with unit := { (landDue s).unit with
          fences := t.unit.fences, l1bound := t.unit.l1bound, qfences := t.unit.qfences } } t)

/-! ### Control registers -/
/-- R52 to R54, R152: MFCR gives the register as it stands at issue, one cycle later; MTCR writes it one cycle later; an
unassigned number, or the format register of a bank the unit does not hold, traps with the register's number as CODE. R78, R157, R217,
R289, R299: a write that would leave an improper loop stack, an invalid bank format, indices that break the descriptor's invariant, a
reserved copy mode or a barrier arrival that the ring does not admit traps with its cause, and any other is made. R53: the
values of the registers that are not held as they are written: identity, predicates, the pool and the loop stack.
Logs 9, 54 and 69 name the model's choices that it rests on. -/
def Obligations.ControlRegisterMoves : Prop :=
  (∀ (s : State) (d : BitVec 6) (n : BitVec 11) (g : BitVec 4), guardOn g (landDue s).unit = true →
      let u := (landDue s).unit
      let foreign := 0x050 ≤ n.toNat ∧ n.toNat < 0x060 ∧ u.pad.banks.getLsbD (n.toNat - 0x050) = false
      (crAssigned n.toNat = true → ¬foreign → LandsG (.mfcr d n g) s 1 d (crRead (landDue s) n.toNat))
      ∧ (crAssigned n.toNat = false → Traps (.mfcr d n g) s 0x16 (n.setWidth 12) ∧ Traps (.mtcr d n g) s 0x16 (n.setWidth 12))
      ∧ (crAssigned n.toNat = true → foreign →
        Traps (.mfcr d n g) s 0x17 (n.setWidth 12) ∧ Traps (.mtcr d n g) s 0x17 (n.setWidth 12))
      ∧ (crWriteTrap (landDue s) n.toNat (gReg u d) = none → n ≠ 0x0D1#11 →
        Lands (.mtcr d n g) s 1 (.cr n (gReg u d)) 0#6)
      ∧ (let v := gReg u d
        let part := fun (k w : Nat) => v.toNat / 2 ^ k % 2 ^ w
        let l := u.loops
        let first := fun (k : Fin 4) => (l.start[k]).toNat
        let last := fun (k : Fin 4) => (l.last[k]).toNat
        let word := v.toNat % 2 ^ 19 / 4 * 4
        let proper := fun (depth : Nat) (first last sel : Fin 4 → Nat) => depth ≤ 4 ∧ ∀ k : Fin 4, k.val < depth → first k ≤ last k
          ∧ ∀ j : Fin 4, j.val < k.val → sel j ≠ sel k ∧ (j.val + 1 = k.val → first j ≤ first k ∧ last k ≤ last j)
        let writes := fun (ok : Prop) (cause : Nat) (code : BitVec 12) =>
          (ok → Lands (.mtcr d n g) s 1 (.cr n v) 0#6) ∧ (¬ok → Traps (.mtcr d n g) s cause code)
        (n = 0x01C#11 → writes (proper (part 0 3) first last fun k => part (8 + 2 * k.val) 2) 0x14 0#12)
        ∧ (∀ k : Fin 4,
          (n.toNat = 0x014 + k.val → writes (k.val < l.depth →
            proper l.depth (fun j => if j = k then word else first j) last fun j => (l.sel[j]).toNat) 0x14 0#12)
          ∧ (n.toNat = 0x018 + k.val → writes (k.val < l.depth →
            proper l.depth first (fun j => if j = k then word else last j) fun j => (l.sel[j]).toNat) 0x14 0#12))
        ∧ (0x050 ≤ n.toNat → n.toNat < 0x060 → ¬foreign →
          writes (part 0 4 ≤ 12 ∧ ¬(part 8 2 = 3 ∧ (part 0 4 = 10 ∨ part 0 4 = 11)) ∧ part 16 11 + part 32 12 ≤ 2048
            ∧ part 4 4 = 0 ∧ part 10 6 = 0 ∧ part 27 5 = 0 ∧ part 44 4 = 0 ∧ part 60 4 = 0) 0x19 (n.setWidth 12))
        ∧ (n = 0x083#11 → writes (∃ r, selRing u = some r ∧ ringBusy u u.cr.qsel = false
            ∧ part 0 16 < r.wrap ∧ part 16 16 < r.wrap ∧ part 32 16 < r.wrap
            ∧ (part 16 16 + r.wrap - part 0 16) % r.wrap ≤ (part 32 16 + r.wrap - part 0 16) % r.wrap
            ∧ (part 32 16 + r.wrap - part 0 16) % r.wrap ≤ r.n) 0x21 (u.cr.qsel.setWidth 12))
        ∧ (n = 0x0A0#11 → writes (part 56 2 ≠ 3 ∧ part 58 6 = 0 ∧ part 37 19 = 0 ∧ part 16 21 % 4 = 0) 0x2A (n.setWidth 12))
        ∧ (n = 0x0A2#11 → writes (v.toNat < 64 ∧ u.cr.cbarPend = false ∧ ∃ r, ringAt u.pad (v.setWidth 6) = some r ∧ r.cons = 0
            ∧ r.perm.testBit u.cr.lcore.toNat = true) 0x2A (n.setWidth 12))
        ∧ (crAssigned n.toNat = true → n.toNat < 0x014 ∨ 0x01C < n.toNat → n.toNat < 0x050 ∨ 0x060 ≤ n.toNat →
          n ∉ [0x083#11, 0x0A0#11, 0x0A2#11, 0x0D1#11] → Lands (.mtcr d n g) s 1 (.cr n v) 0#6))
      ∧ (n = 0x0D1#11 → canDraw u u.ns 1 = true →
        Acts (.mtcr d n g) s fun v => { v with ns := v.ns + 1, landing := v.landing ++ [⟨v.cyc + 1, v.nextAcc, .cr n (gReg u d), 0#6⟩] })
      ∧ (n = 0x0D1#11 → canDraw u u.ns 1 = false → Waits (.mtcr d n g) s false))
  ∧ (∀ (s : State), let u := s.unit
      crRead s 0x000 = BitVec.ofNat 64 s.time
      ∧ crRead s 0x001 = u.cr.issued ∧ crRead s 0x002 = u.cr.fflags.setWidth 64
      ∧ crRead s 0x003 = BitVec.ofNat 64 (u.cr.stepping.toNat * 2 ^ 56 + u.cr.cluster.toNat * 2 ^ 40 + u.cr.pcore.toNat * 2 ^ 36
        + u.cr.lcore.toNat * 2 ^ 32 + u.cr.unit.toNat)
      ∧ crRead s 0x004 = BitVec.ofNat 64 (u.cr.part.toNat * 2 ^ 60 + u.cr.job.toNat)
      ∧ crRead s 0x008 = u.cr.faultinfo ∧ crRead s 0x009 = (u.p ||| 1#8).setWidth 64
      ∧ (∀ k : Fin 4, crRead s (0x010 + k.val) = (u.loops.lc[k]).setWidth 64 ∧ crRead s (0x014 + k.val) = (u.loops.start[k]).setWidth 64
        ∧ crRead s (0x018 + k.val) = (u.loops.last[k]).setWidth 64)
      ∧ (∀ k : Fin 8, crRead s (0x040 + k.val) = mReg u (BitVec.ofNat 3 k.val))
      ∧ (∀ k : Fin 16, crRead s (0x050 + k.val) = u.pad.fmt[k])
      ∧ crRead s 0x085 = BitVec.ofNat 64 ((Config.poolSize - (u.nl + u.ns + u.nc + u.nt)) * 2 ^ 48 + u.nt * 2 ^ 36 + u.nc * 2 ^ 24
        + u.ns * 2 ^ 12 + u.nl))

/-- What comes about when a write of a control register takes effect (R57, R78, R157, R217, R289, R299, R404): the register takes the
value where the write is valid; the flag, cluster-barrier and draw registers act.
Logs 14 and 15 name the model's choices that it rests on. -/
def Obligations.ControlRegisterWritesTakeEffect : Prop :=
  ∀ (s : State) (v : W64) (bank : BitVec 4),
    (loopsOk (setLdepth s.unit.loops v) = true →
      exec (.crLdepthWrite v) s = .next { s with unit := { s.unit with loops := setLdepth s.unit.loops v } })
    ∧ (∀ k : Fin 4, s.unit.loops.depth = 0 →
      exec (.crLstartLendWrite (BitVec.ofNat 11 (0x014 + k.val)) v) s = .next { s with unit := { s.unit with
        loops := { s.unit.loops with start := s.unit.loops.start.set k (v.setWidth 19 &&& 0x7FFFC#19) } } }
      ∧ exec (.crLstartLendWrite (BitVec.ofNat 11 (0x018 + k.val)) v) s = .next { s with unit := { s.unit with
        loops := { s.unit.loops with last := s.unit.loops.last.set k (v.setWidth 19 &&& 0x7FFFC#19) } } })
    ∧ (s.unit.pad.banks.getLsbD bank.toNat = true → fmtValid v = true →
      exec (.crBankfWrite bank v) s = .next { s with unit := { s.unit with pad := { s.unit.pad with
        fmt := s.unit.pad.fmt.set bank.toNat v } } })
    ∧ (∀ r, selRing s.unit = some r → ringBusy s.unit s.unit.cr.qsel = false → qidxOk r v = true →
      ∃ t, exec (.crQidxWrite v) s = .next t
        ∧ selRing t.unit = some { r with
          head := v.setWidth 16, tail := (v >>> 16).setWidth 16, rsv := (v >>> 32).setWidth 16
          marks := 0#1024, held := 0#1024, gone := 0#1024 }
        ∧ t.unit.g = s.unit.g ∧ t.unit.pad.bytes = s.unit.pad.bytes)
    ∧ (v.toNat < 2 ^ 58 → v.toNat / 2 ^ 56 % 4 ≠ 3 → v.toNat / 2 ^ 37 % 2 ^ 19 = 0 → v.toNat / 2 ^ 16 % 4 = 0 →
      exec (.crGxmodeWrite v) s = .next { s with unit := { s.unit with cr := { s.unit.cr with gxmode := v } } })
    ∧ (∀ r, v.toNat < 64 → s.unit.cr.cbarPend = false → ringAt s.unit.pad (v.setWidth 6) = some r → r.cons = 0 →
      r.perm.testBit s.unit.cr.lcore.toNat = true → (∃ c ∈ gangCores s.unit, c ≠ s.unit.cr.lcore.toNat
        ∧ s.unit.cr.cbarPeers.getLsbD c = false ∧ peerDone s c = false) →
      ∃ t, exec (.crCbarWrite s.unit.cr.lcore v) s = .next t ∧ t.unit.cr.cbarPend = true ∧ t.unit.cr.cbarRing = v.setWidth 6
        ∧ t.unit.cr.cbarGen = s.unit.cr.cbarGen)
    ∧ (canDraw s.unit s.unit.ns 1 = true →
      ∃ t, exec (.crDrawhiWrite v) s = .next t ∧ t.unit.cr.drawhi = v ∧ t.unit.ns = s.unit.ns + 1
        ∧ t.unit.accs.length = s.unit.accs.length + 1 ∧ (t.unit.accs.getLast?.map fun a => (a.kind, a.cls)) = some (.drawbase, 15#4))
    ∧ (exec (.crFlagsetWrite v) s = .next (if v.getLsbD 5 then { s with unit := { s.unit with
        cr := { s.unit.cr with fflags := s.unit.cr.fflags ||| 0x20#6 } } } else s))

/-! ### Local memory -/
/-- R82, R83, R84, R147: LDL reads its bytes, little-endian and zero-extended, into Gd after six cycles; STL writes the low bytes of
Gd at the address and leaves every other byte. The range is checked before the alignment.
Logs 8 and 69 name the model's choices that it rests on. -/
def Obligations.LocalLoadAndStore : Prop :=
  ∀ (s : State) (d a : BitVec 6) (c : BitVec 4) (z : BitVec 2) (g : BitVec 4) (x : Option Limm), guardOn g (landDue s).unit = true →
    let u := (landDue s).unit
    let va := (addrOf u a x).toNat
    let n := 2 ^ z.toNat
    let inside := va < 0x200000 ∧ u.pad.banks.getLsbD (va / 0x20000) = true
    (inside → va % n = 0 →
      LandsG (.ldl d a c z g x) s 6 d (BitVec.ofNat 64 (leNat (readBytes u.pad.bytes va n)))
      ∧ ∃ t, exec (.stl d a c z g x) s = .next t ∧ Issued (slotWords (.stl d a c z g x)) (landDue s) t
        ∧ readBytes t.unit.pad.bytes va n = leBytes (gReg u d).toNat n
        ∧ (∀ k, k < va ∨ va + n ≤ k → readByte t.unit.pad.bytes k = readByte u.pad.bytes k)
        ∧ t = sequenced { landDue s with unit := { u with pad := { u.pad with bytes := t.unit.pad.bytes } } } t
        ∧ t.unit.landing = u.landing)
    ∧ (¬inside → Traps (.ldl d a c z g x) s 0x17 0#12 ∧ Traps (.stl d a c z g x) s 0x17 0#12)
    ∧ (inside → va % n ≠ 0 → Traps (.ldl d a c z g x) s 0x18 0#12 ∧ Traps (.stl d a c z g x) s 0x18 0#12)

/-- R82 to R84: every LDL and every STL whose slot is on and whose address is local, in a bank the unit holds and a multiple of its size,
completes: the next state has the bundle issued and, of the load, the zero-extended value in flight for six cycles, of the store, its
bytes in place. This holds for every register, size, displacement, class field and guard, G0 among them. -/
def Obligations.LocalAccessesComplete : Prop :=
  ∀ (s : State) (d a : BitVec 6) (c : BitVec 4) (z : BitVec 2) (g : BitVec 4) (x : Option Limm),
    guardOn g (landDue s).unit = true →
    (addrOf (landDue s).unit a x).toNat < 0x200000 →
    (landDue s).unit.pad.banks.getLsbD ((addrOf (landDue s).unit a x).toNat / 0x20000) = true →
    (addrOf (landDue s).unit a x).toNat % 2 ^ z.toNat = 0 →
    (∃ t, exec (.ldl d a c z g x) s = .next t
      ∧ t.unit.landing = (landDue s).unit.landing ++ [⟨(landDue s).unit.cyc + 6, (landDue s).unit.nextAcc, .g d (BitVec.ofNat 64
        (leNat (readBytes (landDue s).unit.pad.bytes (addrOf (landDue s).unit a x).toNat (2 ^ z.toNat)))), 0#6⟩]
      ∧ t.unit.cyc = (landDue s).unit.cyc + 1 ∧ t.unit.pad = (landDue s).unit.pad)
    ∧ (∃ t, exec (.stl d a c z g x) s = .next t
      ∧ t.unit.pad = padPut (landDue s).unit.pad (addrOf (landDue s).unit a x).toNat
        (leBytes (gReg (landDue s).unit d).toNat (2 ^ z.toNat))
      ∧ t.unit.cyc = (landDue s).unit.cyc + 1 ∧ t.unit.landing = (landDue s).unit.landing)

/-- R145 to R147: the vector loads read the word of each enabled lane; the vector stores write the words of the enabled lanes, the
higher lane's where two name one word, and leave every other byte; only enabled lanes are checked, the banks of all four bytes of each
word before the alignment.
Log 69 names the model's choice at the store's last word. -/
def Obligations.VectorLocalLoadsAndStores : Prop :=
  ∀ (s : State) (d a b : BitVec 5) (c : BitVec 4) (m : BitVec 3) (z : Bool) (x : Option Limm),
    let u := (landDue s).unit
    let mask := mReg u m
    let base := addrOf u (b.setWidth 6) x
    let row := fun (k : Nat) => (base + BitVec.ofNat 64 (4 * k)).toNat
    let index := fun (k : Nat) => (base + BitVec.ofNat 64 (lane (vReg u a) k)).toNat
    let fits := fun (va : Nat) => ∀ j < 4, va + j < 0x200000 ∧ u.pad.banks.getLsbD ((va + j) / 0x20000) = true
    let clear := fun (at_ : Nat → Nat) => ∀ k < 64, mask.getLsbD k = true → fits (at_ k) ∧ at_ k % 4 = 0
    let stored := fun (i : Instr) (at_ : Nat → Nat) (v : VReg) =>
      ∃ t, exec i s = .next t ∧ Issued (slotWords i) (landDue s) t
        ∧ (∀ k < 64, mask.getLsbD k = true → (∀ j < 64, k < j → mask.getLsbD j = true → at_ j ≠ at_ k) →
          readBytes t.unit.pad.bytes (at_ k) 4 = leBytes (lane v k) 4)
        ∧ (∀ q, (∀ k < 64, mask.getLsbD k = true → q < at_ k ∨ at_ k + 4 ≤ q) →
          readByte t.unit.pad.bytes q = readByte u.pad.bytes q)
        ∧ t = sequenced { landDue s with unit := { u with pad := { u.pad with bytes := t.unit.pad.bytes } } } t
        ∧ t.unit.landing = u.landing
    (clear row →
      LandsMasked (.vldl d c b m z x) s 6 d m z (fun k => (leNat (readBytes u.pad.bytes (row k) 4), 0#6))
      ∧ stored (.vstl d c b m x) row (vReg u d))
    ∧ (clear index →
      LandsMasked (.vgath d a b m z x) s 8 d m z (fun k => (leNat (readBytes u.pad.bytes (index k) 4), 0#6))
      ∧ stored (.vscat d a b m x) index (vReg u d))
    ∧ ((∃ k < 64, mask.getLsbD k = true ∧ ¬fits (row k)) →
      Traps (.vldl d c b m z x) s 0x17 0#12 ∧ Traps (.vstl d c b m x) s 0x17 0#12)
    ∧ ((∃ k < 64, mask.getLsbD k = true ∧ ¬fits (index k)) →
      Traps (.vgath d a b m z x) s 0x17 0#12 ∧ Traps (.vscat d a b m x) s 0x17 0#12)
    ∧ ((∀ k < 64, mask.getLsbD k = true → fits (row k)) → (∃ k < 64, mask.getLsbD k = true ∧ row k % 4 ≠ 0) →
      Traps (.vldl d c b m z x) s 0x18 0#12 ∧ Traps (.vstl d c b m x) s 0x18 0#12)
    ∧ ((∀ k < 64, mask.getLsbD k = true → fits (index k)) → (∃ k < 64, mask.getLsbD k = true ∧ index k % 4 ≠ 0) →
      Traps (.vgath d a b m z x) s 0x18 0#12 ∧ Traps (.vscat d a b m x) s 0x18 0#12)

/-! ### Global accesses -/
/-- R218, R254, R282 to R284, R38: each global load, store and atomic whose pool entry can be drawn enters the access path with
its class, address and bytes; an atomic drops the L1 copy of its line and takes its operands from Gd and the registers after it.
R283: VLDG and VSTG enter as one access over the words of the enabled lanes.
Log 69 names the model's choice at the store's last word. -/
def Obligations.GlobalAccessesEnter : Prop :=
  (∀ (s : State) (d a : BitVec 6) (c : BitVec 4) (z w : BitVec 2) (g : BitVec 4) (x : Option Limm),
      guardOn g (landDue s).unit = true →
      let u := (landDue s).unit
      let va := addrOf u a x
      let n := 2 ^ z.toNat
      let ty : AtomTy := if w = 0#2 then .i32 else if w = 1#2 then .i64 else if w = 2#2 then .f32 else .bf16
      let wide := if w = 0#2 then 4 else if w = 1#2 then 8 else if w = 2#2 then 4 else 2
      let v := (gReg u d).toNat % 2 ^ (8 * wide)
      let e := (gNat u (d.toNat + 1)).toNat % 2 ^ (8 * wide)
      let word := fun k => (gNat u (d.toNat + k)).setWidth 128
      let enters := fun (i : Instr) (op : AtomOp) (old : Nat) =>
        EntersNl i s c (.atom op ty d (BitVec.ofNat 128 v) (BitVec.ofNat 128 old)) va ((upto 0 wide).map fun k => (k, 0#8))
          fun t => sigEvent (l1Drop t va.toNat) va (BitVec.ofNat 64 v)
      (canDraw u u.nl 1 = true →
        EntersNl (.ldg d a c z g x) s c (.load d n) va ((upto 0 n).map fun k => (k, 0#8)) id
        ∧ (va.toNat % wide = 0 →
          enters (.atomAdd d a c w g x) .add 0 ∧ enters (.atomMin d a c w g x) .min 0 ∧ enters (.atomMax d a c w g x) .max 0
          ∧ enters (.atomAnd d a c w g x) .and 0 ∧ enters (.atomOr d a c w g x) .or 0 ∧ enters (.atomXor d a c w g x) .xor 0
          ∧ enters (.atomSwap d a c w g x) .swap 0 ∧ enters (.atomCas d a c w g x) .cas e)
        ∧ (va.toNat % 16 = 0 →
          EntersNl (.atomw d a c g x) s c (.atom .cas .i128 d (word 0 ||| (word 1 <<< 64)) (word 2 ||| (word 3 <<< 64))) va
            ((upto 0 16).map fun k => (k, 0#8))
            fun t => sigEvent (sigEvent (l1Drop t va.toNat) va (gReg u d)) (va + 8) (gNat u (d.toNat + 1))))
      ∧ (canDraw u u.ns 1 = true →
        EntersNs (.stg d a c z g x) s c .store va ((upto 0 n).zip (leBytes ((gReg u d).toNat % 2 ^ (8 * n)) n))
          fun t => sigEvent t va (BitVec.ofNat 64 ((gReg u d).toNat % 2 ^ (8 * n)))))
  ∧ (∀ (s : State) (d b : BitVec 5) (c : BitVec 4) (m : BitVec 3) (z : Bool) (x : Option Limm),
      let u := (landDue s).unit
      let mask := mReg u m
      let va := addrOf u (b.setWidth 6) x
      let on := (upto 0 64).filter fun k => mask.getLsbD k
      (canDraw u u.nl 1 = true →
        EntersNl (.vldg d c b m z x) s c (.vload d mask z) va (on.flatMap fun k => (upto (4 * k) 4).map fun o => (o, 0#8)) id)
      ∧ (canDraw u u.ns 1 = true →
        EntersNs (.vstg d c b m x) s c .store va (on.flatMap fun k => (upto (4 * k) 4).zip (leBytes (lane (vReg u d) k) 4))
          fun t => on.foldl (fun v k => sigEvent v (va + BitVec.ofNat 64 (4 * k)) (BitVec.ofNat 64 (lane (vReg u d) k))) t)
      ∧ (canDraw u u.nl 1 = false → Waits (.vldg d c b m z x) s false)
      ∧ (canDraw u u.ns 1 = false → Waits (.vstg d c b m x) s false))

/-- R286: RED enters as a contribution of its rank with the descriptor's count and type; a descriptor with a nonzero reserved
field, a rank above its count or a size that is not the type's traps with cause 0x2B, and then a misaligned address with 0x2C.
R30, R218, R284: with no entry left in the pool a global access holds its bundle; an atomic that is not aligned to its width traps
with cause 0x2C, whatever the pool.
Log 69 names the model's choice at the store's last word. -/
def Obligations.ReductionAndGlobalTraps : Prop :=
  (∀ (s : State) (d a : BitVec 6) (c : BitVec 4) (z : BitVec 2) (g : BitVec 4) (x : Option Limm), guardOn g (landDue s).unit = true →
      let u := (landDue s).unit
      let va := addrOf u a x
      let desc := gNat u (d.toNat + 1)
      let ty : BitVec 2 := (desc >>> 32).setWidth 2
      let n := if ty = 0#2 then 4 else if ty = 1#2 then 8 else if ty = 2#2 then 4 else 2
      let rank : BitVec 12 := desc.setWidth 12
      let last : BitVec 12 := (desc >>> 16).setWidth 12
      let good := desc.toNat < 2 ^ 34 ∧ desc.toNat / 2 ^ 28 % 16 = 0 ∧ desc.toNat / 2 ^ 12 % 16 = 0 ∧ rank ≤ last ∧ 2 ^ z.toNat = n
      let v := BitVec.ofNat 64 ((gReg u d).toNat % 2 ^ (8 * n))
      (good → va.toNat % n = 0 → canDraw u u.ns 1 = true →
        EntersNs (.red d a c z g x) s c (.red ty last rank v) va ((upto 0 n).map fun k => (k, 0#8))
          fun t => sigEvent (l1Drop t va.toNat) va v)
      ∧ (good → va.toNat % n = 0 → canDraw u u.ns 1 = false → Waits (.red d a c z g x) s false)
      ∧ (¬good → Traps (.red d a c z g x) s 0x2B 0#12)
      ∧ (good → va.toNat % n ≠ 0 → Traps (.red d a c z g x) s 0x2C 0#12))
  ∧ (∀ (s : State) (d a : BitVec 6) (c : BitVec 4) (z w : BitVec 2) (g : BitVec 4) (x : Option Limm),
      guardOn g (landDue s).unit = true →
      let u := (landDue s).unit
      let va := addrOf u a x
      let wide := if w = 0#2 then 4 else if w = 1#2 then 8 else if w = 2#2 then 4 else 2
      (canDraw u u.nl 1 = false → Waits (.ldg d a c z g x) s false)
      ∧ (canDraw u u.ns 1 = false → Waits (.stg d a c z g x) s false)
      ∧ (va.toNat % wide ≠ 0 → ∀ i ∈ [Instr.atomAdd d a c w g x, .atomMin d a c w g x, .atomMax d a c w g x, .atomAnd d a c w g x,
          .atomOr d a c w g x, .atomXor d a c w g x, .atomSwap d a c w g x, .atomCas d a c w g x], Traps i s 0x2C 0#12)
      ∧ (va.toNat % 16 ≠ 0 → Traps (.atomw d a c g x) s 0x2C 0#12))

/-! ### Vector results -/
/-- R124, R125, R130: the float instructions, element by element, in the format and with the flags of the format's operations; a NaN
given to VABS or VNEG gives the canonical NaN and NANSEEN.
Log 69 names the model's choice at the store's last word. -/
def Obligations.VectorFloatResults : Prop :=
  ∀ (s : State) (d a b : BitVec 5) (m : BitVec 3) (z : Bool) (t : BitVec 2), t ≠ 3#2 →
    let u := (landDue s).unit
    let f := if t = 0#2 then fp32 else if t = 1#2 then bf16 else fp16
    let w := if t = 0#2 then 32 else 16
    let x := elemOf (vReg u a) w
    let y := elemOf (vReg u b) w
    let one := fun (op : Nat → Nat) (n : Nat) => if (decodeF f (x n)).isNan then (qnan f, flagNAN) else (op (x n), 0#6)
    LandsElements (.vadd d a b m z t) s 3 d m z w (fun n => addF f (x n) (y n))
    ∧ LandsElements (.vsub d a b m z t) s 3 d m z w (fun n => subF f (x n) (y n))
    ∧ LandsElements (.vmul d a b m z t) s 3 d m z w (fun n => mulF f (x n) (y n))
    ∧ LandsElements (.vfma d a b m z t) s 4 d m z w (fun n => fmaF f (x n) (y n) (elemOf (vReg u d) w n))
    ∧ LandsElements (.vmax d a b m z t) s 3 d m z w (fun n => minmaxF f true (x n) (y n))
    ∧ LandsElements (.vmin d a b m z t) s 3 d m z w (fun n => minmaxF f false (x n) (y n))
    ∧ LandsElements (.vabs d a m z t) s 3 d m z w (one fun v => v % 2 ^ (w - 1))
    ∧ LandsElements (.vneg d a m z t) s 3 d m z w (one fun v => (v + 2 ^ (w - 1)) % 2 ^ w)

/-- R134: the integer and logic instructions on elements of 32, 16 or 8 bits; shift counts are taken modulo the width, and no flag is
set.
Log 69 names the model's choice at the store's last word. -/
def Obligations.VectorIntegerResults : Prop :=
  ∀ (s : State) (d a b : BitVec 5) (m : BitVec 3) (z : Bool) (t : BitVec 2), t ≠ 3#2 →
    let u := (landDue s).unit
    let w := if t = 0#2 then 32 else if t = 1#2 then 16 else 8
    let lands := fun (i : Instr) (op : BitVec w → BitVec w → BitVec w) =>
      LandsElements i s 2 d m z w fun n =>
        ((op (BitVec.ofNat w (elemOf (vReg u a) w n)) (BitVec.ofNat w (elemOf (vReg u b) w n))).toNat, 0#6)
    lands (.viadd d a b m z t) (fun x y => x + y) ∧ lands (.visub d a b m z t) (fun x y => x - y)
    ∧ lands (.vimul d a b m z t) (fun x y => x * y)
    ∧ lands (.vimulh d a b m z t) (fun x y => BitVec.ofInt w (x.toInt * y.toInt / 2 ^ w))
    ∧ lands (.vand d a b m z t) (fun x y => x &&& y) ∧ lands (.vor d a b m z t) (fun x y => x ||| y)
    ∧ lands (.vxor d a b m z t) (fun x y => x ^^^ y)
    ∧ lands (.vshl d a b m z t) (fun x y => x <<< (y.toNat % w)) ∧ lands (.vshr d a b m z t) (fun x y => x >>> (y.toNat % w))
    ∧ lands (.vsar d a b m z t) (fun x y => x.sshiftRight (y.toNat % w))
    ∧ lands (.vimin d a b m z t) (fun x y => if x.toInt < y.toInt then x else y)
    ∧ lands (.vimax d a b m z t) (fun x y => if x.toInt < y.toInt then y else x)

/-- R131 to R133: the compares write the enabled lanes' bits of Mk, and with z the others as 0; the mask instructions work on all 64
bits, and M0 reads all ones.
Log 69 names the model's choice at the store's last word. -/
def Obligations.MaskResults : Prop :=
  ∀ (s : State) (c f : BitVec 2) (k p q m : BitVec 3) (a b d : BitVec 5) (z : Bool),
    let u := (landDue s).unit
    let mask := mReg u m
    let x := lane (vReg u a)
    let y := lane (vReg u b)
    let bits := if z then BitVec.allOnes 64 else mask
    let sg := fun (v : Nat) => (BitVec.ofNat 32 v).toInt
    let masked := fun (i : Instr) (lat : Nat) (holds : Nat → Bool) (fl : BitVec 6) =>
      ∃ data : W64, Lands i s lat (.m k bits data) fl ∧ ∀ n < 64, data.getLsbD n = (mask.getLsbD n && holds n)
    let nan := fun n => (num32 (x n)).isNan || (num32 (y n)).isNan
    masked (.vcmp c k a b m z) 3
        (fun n => if c = 0#2 then !nan n && cmpNum (num32 (x n)) (num32 (y n)) == 0
          else if c = 1#2 then !nan n && decide (cmpNum (num32 (x n)) (num32 (y n)) < 0)
          else if c = 2#2 then !nan n && decide (cmpNum (num32 (x n)) (num32 (y n)) ≤ 0) else nan n)
        (laneFlags fun n => if mask.getLsbD n && nan n then flagNAN else 0#6)
    ∧ masked (.vicmpSigned c k a b m z) 2
        (fun n => if c = 0#2 then x n == y n else if c = 1#2 then x n != y n
          else if c = 2#2 then decide (sg (x n) < sg (y n)) else decide (sg (y n) ≤ sg (x n))) 0#6
    ∧ masked (.vicmpUnsigned c k a b m z) 2
        (fun n => if c = 0#2 then decide (x n < y n) else if c = 1#2 then decide (y n ≤ x n)
          else if c = 2#2 then x n &&& y n != 0 else x n &&& y n == 0) 0#6
    ∧ Lands (.mlog f k p q) s 1 (.m k (BitVec.allOnes 64)
        (if f = 0#2 then mReg u p &&& mReg u q else if f = 1#2 then mReg u p ||| mReg u q
          else if f = 2#2 then mReg u p ^^^ mReg u q else mReg u p &&& ~~~mReg u q)) 0#6
    ∧ LandsG (.mpop d p m) s 2 (d.setWidth 6) (BitVec.ofNat 64 ((List.range 64).filter fun n => (mReg u p &&& mask).getLsbD n).length)
    ∧ (∃ n ≤ 64, LandsG (.mfirst d p m) s 2 (d.setWidth 6) (BitVec.ofNat 64 n)
      ∧ (∀ j < n, (mReg u p &&& mask).getLsbD j = false) ∧ (n < 64 → (mReg u p &&& mask).getLsbD n = true))
    ∧ mReg u 0#3 = BitVec.allOnes 64

/-- R135 to R137: conversions, packing into and unpacking from a part of a register, and the approximations, lane by lane.
Log 69 names the model's choice at the store's last word. -/
def Obligations.VectorConversionResults : Prop :=
  ∀ (s : State) (d a e : BitVec 5) (f : BitVec 3) (p : BitVec 2) (m : BitVec 3) (z : Bool),
    let u := (landDue s).unit
    let x := lane (vReg u a)
    let mask := mReg u m
    let w := packWidth f
    LandsMasked (.vcvt d a e m z) s 3 d m z (fun k => convertLane e.toNat (x k))
    ∧ ((Instr.vpack d a f p m z).fieldsOk = true →
      (∃ bits data, Lands (.vpack d a f p m z) s 3 (.v d bits data)
          (laneFlags fun k => if mask.getLsbD k then (narrow f (x k)).2 else 0#6)
        ∧ ∀ n < 2048 / w, elemOf bits w n =
            (if 64 * p.toNat ≤ n ∧ n < 64 * p.toNat + 64 ∧ (mask.getLsbD (n - 64 * p.toNat) = true ∨ z = true) then 2 ^ w - 1 else 0)
          ∧ (64 * p.toNat ≤ n → n < 64 * p.toNat + 64 → mask.getLsbD (n - 64 * p.toNat) = true →
            elemOf data w n = (narrow f (x (n - 64 * p.toNat))).1 % 2 ^ w)
          ∧ (64 * p.toNat ≤ n → n < 64 * p.toNat + 64 → mask.getLsbD (n - 64 * p.toNat) = false → elemOf data w n = 0))
      ∧ LandsMasked (.vunpk d a f p m z) s 3 d m z (fun k => widen f (elemOf (vReg u a) w (64 * p.toNat + k))))
    ∧ LandsMasked (.vexp2 d a m z) s 8 d m z (fun k => exp2F (x k)) ∧ LandsMasked (.vlog2 d a m z) s 8 d m z (fun k => log2F (x k))
    ∧ LandsMasked (.vrcp d a m z) s 8 d m z (fun k => rcpF (x k)) ∧ LandsMasked (.vrsq d a m z) s 8 d m z (fun k => rsqF (x k))

/-- R111, R112, R138 to R141, R149: the reductions and searches over the enabled lanes. VRSUM puts the tree's sum in every lane and
VSCAN the prefix sums; the extremes, VSRCH and ACCEPT put their two results in lanes 0 and 1 and 0 in the others. That lane 0 of a scan
keeps the bits of an input NaN is log 73.
Logs 20, 69 and 73 name the model's choices that it rests on. -/
def Obligations.VectorReductionResults : Prop :=
  ∀ (s : State) (d a b : BitVec 5) (m : BitVec 3),
    let u := (landDue s).unit
    let mask := mReg u m
    let row := (upto 0 64).map fun k => if mask.getLsbD k then lane (vReg u a) k else 0
    let seen := laneFlags fun k => if mask.getLsbD k && (num32 (lane (vReg u a) k)).isNan then flagNAN else 0#6
    let two := fun (v0 v1 : Nat) (k : Nat) => some (if k = 0 then v0 else if k = 1 then v1 else 0)
    let t := lane (vReg u b) 0
    let found := searchRow mask (vReg u a) t
    let acc := acceptRow mask (vReg u a) (vReg u b) (vReg u d)
    let idle := ∀ k < 64, mask.getLsbD k = false ∨ (num32 (lane (vReg u a) k)).isNan = true
    LandsLanes (.vrsum d a m) s 6 d (fun _ => some ((treeSum 6 row).1.headD 0)) ((treeSum 6 row).2 ||| seen)
    ∧ LandsLanes (.vscan d a m) s 6 d (fun k => some ((prefixSums row).1.getD k 0)) ((prefixSums row).2 ||| seen)
    ∧ (idle → LandsLanes (.vrmaxI d a m) s 6 d (two 0x7FC00000 0xFFFFFFFF) seen
      ∧ LandsLanes (.vrminI d a m) s 6 d (two 0x7FC00000 0xFFFFFFFF) seen)
    ∧ (¬idle → ∃ i j, i < 64 ∧ j < 64 ∧ mask.getLsbD i = true ∧ mask.getLsbD j = true
      ∧ (∀ k < 64, mask.getLsbD k = true → (num32 (lane (vReg u a) k)).isNan = false →
        cmpNum (num32 (lane (vReg u a) k)) (num32 (lane (vReg u a) i)) ≤ 0
          ∧ (k < i → cmpNum (num32 (lane (vReg u a) k)) (num32 (lane (vReg u a) i)) < 0)
          ∧ 0 ≤ cmpNum (num32 (lane (vReg u a) k)) (num32 (lane (vReg u a) j))
          ∧ (k < j → 0 < cmpNum (num32 (lane (vReg u a) k)) (num32 (lane (vReg u a) j))))
      ∧ LandsLanes (.vrmaxI d a m) s 6 d (two (lane (vReg u a) i) i) seen
      ∧ LandsLanes (.vrminI d a m) s 6 d (two (lane (vReg u a) j) j) seen)
    ∧ LandsLanes (.vsrch d a b m) s 4 d (two found.1 found.2.1)
        (found.2.2 ||| (if (num32 t).isNan then flagNAN else 0#6) ||| seen)
    ∧ LandsLanes (.accept d a b m) s 6 d (two acc.1 acc.2.1) acc.2.2

/-- R142 to R144, R148: permutations, broadcasts, slides, selections, partitions, draws and the moves between G and V.
Log 69 names the model's choice at the store's last word. -/
def Obligations.VectorMoveResults : Prop :=
  ∀ (s : State) (d a b j : BitVec 5) (r m : BitVec 3) (z : Bool) (t : BitVec 2), t ≠ 3#2 →
    let u := (landDue s).unit
    let mask := mReg u m
    let x := lane (vReg u a)
    let gb := gReg u (b.setWidth 6)
    let rank := fun (k : Nat) => ((List.range k).filter fun n => mask.getLsbD n).length
    LandsMasked (.vperm d a b m z) s 2 d m z (fun k => (x (lane (vReg u b) k % 64), 0#6))
    ∧ LandsMasked (.vbcast d b m z t) s 2 d m z (fun _ =>
      (if t = 0#2 then gb.toNat % 2 ^ 32 else if t = 1#2 then gb.toNat % 2 ^ 16 * 0x10001 else gb.toNat % 2 ^ 8 * 0x1010101, 0#6))
    ∧ LandsMasked (.vslide d a b m z) s 2 d m z (fun k =>
      (if 0 ≤ (k : Int) + gb.toInt ∧ (k : Int) + gb.toInt ≤ 63 then x ((k : Int) + gb.toInt).toNat else 0, 0#6))
    ∧ LandsLanes (.vsel d a b m) s 2 d (fun k => some (if mask.getLsbD k then x k else lane (vReg u b) k)) 0#6
    ∧ (∃ f : Nat → Nat, LandsLanes (.vpart d m) s 4 d (fun k => some (f k)) 0#6
      ∧ ∀ k < 64, (mask.getLsbD k = true → f (rank k) = k) ∧ (mask.getLsbD k = false → f (rank 64 + (k - rank k)) = k))
    ∧ LandsLanes (.vpartInv d m) s 4 d (fun k => some (if mask.getLsbD k then rank k else rank 64 + (k - rank k))) 0#6
    ∧ LandsMasked (.vrand d r m z) s 5 d m z (fun k => (drawLane u r k, 0#6))
    ∧ LandsMasked (.vrandF d r m z) s 5 d m z (fun k => (rne32 (.fin false (drawLane u r k / 256) (-24)), 0#6))
    ∧ LandsLanes (.vmovg d j b) s 2 d (fun k => if k = 2 * j.toNat then some (gb.toNat % 2 ^ 32)
      else if k = 2 * j.toNat + 1 then some (gb.toNat / 2 ^ 32) else none) 0#6
    ∧ LandsG (.vextr d a j) s 2 (d.setWidth 6) (BitVec.ofNat 64 (x (2 * j.toNat + 1) * 2 ^ 32 + x (2 * j.toNat)))

/-! ### The matrix array -/
/-- R166 to R168, R170, R171, R175, R181: MPUSH needs both feeders bound and a pair of formats, or it traps with cause 0x1A. With a slice
in each it injects one slice that carries the plane, the configuration, the formats and the latches as they stand, and of each lane the
next k elements of its feeder's panel or mesh slice in the order of R171, while the slices in flight move on one beat and leave after beat
126; it waits while a feeder has none.
Logs 24, 25 and 69 name the model's choices that it rests on. -/
def Obligations.MatrixPushInjectsSlice : Prop :=
  ∀ (s : State) (p : Bool) (g : BitVec 4), guardOn g (landDue s).unit = true →
    let u := (landDue s).unit
    let fw := u.mx.west
    let fn := u.mx.north
    let element := fun (f data n : Nat) => BitVec.ofNat 16 (data / 2 ^ (fmtBits f * n) % 2 ^ fmtBits f)
    let bound := fw.src ≠ none ∧ fn.src ≠ none ∧ pairOk u.mx.cfg (fmtOf fw.fmt) (fmtOf fn.fmt) = true
    (¬bound → Traps (.mpush p g) s 0x1A 0#12)
    ∧ (bound → feederReady u fw = true → feederReady u fn = true →
      ∃ t sl, exec (.mpush p g) s = .next t ∧ Issued 1 (landDue s) t
        ∧ t.unit.mx.slices = ((u.mx.slices.map fun x => { x with age := x.age + 1 }).filter fun x => x.age ≤ 126) ++ [sl]
        ∧ sl.age = 0 ∧ sl.plane = p ∧ sl.k = min (beatDepth (fmtOf fw.fmt)) (beatDepth (fmtOf fn.fmt)) ∧ sl.cfg = u.mx.cfg
        ∧ sl.fmtW = fw.fmt ∧ sl.fmtN = fn.fmt ∧ sl.sw = u.mx.sw ∧ sl.sn = u.mx.sn
        ∧ (∀ l < 64, ∀ e < sl.k,
          (∀ q r, feederRing fw = some q → ringAt u.pad (BitVec.ofNat 6 q) = some r → fw.pos + e < 32 →
            nth (nth sl.west l []) e 0#16 = element (fmtOf fw.fmt) (readNat u.pad.bytes (r.addr r.head) (256 * fmtBits (fmtOf fw.fmt)))
              (32 * l + fw.pos + e))
          ∧ (∀ q r, feederRing fn = some q → feederRing fw ≠ some q → ringAt u.pad (BitVec.ofNat 6 q) = some r → fn.pos + e < 32 →
            nth (nth sl.north l []) e 0#16 = element (fmtOf fn.fmt) (readNat u.pad.bytes (r.addr r.head) (256 * fmtBits (fmtOf fn.fmt)))
              (32 * l + fn.pos + e))
          ∧ (∀ w flit rest, fw.src = some (.mesh w) → fw.landing = flit :: rest → fw.pos + e < beatDepth (fmtOf fw.fmt) →
            nth (nth sl.west l []) e 0#16 = element (fmtOf fw.fmt) flit.toNat (beatDepth (fmtOf fw.fmt) * l + fw.pos + e)))
        ∧ t.unit.g = u.g ∧ t.unit.v = u.v ∧ t.unit.m = u.m ∧ t.unit.p = u.p ∧ t.unit.landing = u.landing
        ∧ t.unit.mx.rp = u.mx.rp ∧ t.unit.pad.bytes = u.pad.bytes ∧ t = { landDue s with unit := t.unit })
    ∧ (bound → (feederReady u fw = false ∨ feederReady u fn = false) → u.deferred = [] → Waits (.mpush p g) s true)

/-- R167, R168, R182, R183, R187: MSHIFT is the beat alone, and nothing where no slice is in flight. After the beat MPRELD puts a
vector register into the row at the row pointer, MDRAIN takes that row into one after four issue cycles and leaves zeros, and both
clear the row's group state and advance the pointer; MZERO clears the plane, its group state and positions and its row pointer.
R185: MCFG takes its configuration from three registers, or with G0 the reset configuration; a nonzero reserved bit or a group
code 0b11 traps with cause 0x1D. Its beat moves the array, and the configuration lands one issue cycle later. R108 to R110, R173, R187: what
the element (i, j) adds to its accumulator at the beat at which a slice reaches it: in float mode one rounding of the exact sum of the
accumulator and the scaled products, in integer mode the products modulo 2^32, and of asymmetric formats the group sums, which reach the
accumulator at the last beat of the group.
Log 69 names the model's choice at the store's last word. -/
def Obligations.MatrixRowActions : Prop :=
  (∀ (s : State) (p : Bool) (v : BitVec 5) (g : BitVec 4), guardOn g (landDue s).unit = true →
      let u := (landDue s).unit
      let m := beat u.mx none
      let k := planeIx p
      let row := (m.rp[k]).toNat
      let rest := fun (lo n : Nat) => m.group.filter fun e => e.1 < peKey p lo 0 || peKey p lo 0 + n ≤ e.1
      let acted := fun (x : VReg) => { m with
        planes := m.planes.set k ((m.planes[k]).setIfInBounds row x), group := rest row 64, rp := m.rp.set k (m.rp[k] + 1#6) }
      Acts (.mshift g) s (fun w => { w with mx := m })
      ∧ (u.mx.slices = [] → Passes (.mshift g) s)
      ∧ Acts (.mpreld p v g) s (fun w => { w with mx := acted (vReg u v) })
      ∧ Acts (.mdrain p v g) s (fun w => { w with
        mx := acted 0#2048
        landing := w.landing ++ [⟨w.cyc + 4, w.nextAcc, .v v (BitVec.allOnes 2048) (nth (m.planes[k]).toList row 0#2048), 0#6⟩] })
      ∧ Acts (.mzero p g) s (fun w => { w with mx := { m with
        planes := m.planes.set k (Vector.replicate 64 0#2048), group := rest 0 4096, gpos := m.gpos.set k 0, rp := m.rp.set k 0#6 } }))
  ∧ (∀ (s : State) (n : BitVec 6) (g : BitVec 4), guardOn g (landDue s).unit = true →
      let u := (landDue s).unit
      let w := gReg u n
      let good := w.toNat < 64 ∧ w.getLsbD 1 = false ∧ w.toNat / 4 % 4 ≠ 3 ∧ w.toNat / 16 % 4 ≠ 3
      let lands := fun (c : MatCfg) => Acts (.mcfg n g) s fun v => { v with
        mx := beat u.mx none, landing := v.landing ++ [⟨v.cyc + 1, v.nextAcc, .mcfg c, 0#6⟩] }
      (n = 0#6 → lands ⟨false, 0#2, 0#2, BitVec.allOnes 64, BitVec.allOnes 64⟩)
      ∧ (n ≠ 0#6 → good →
        lands ⟨w.getLsbD 0, (w >>> 2).setWidth 2, (w >>> 4).setWidth 2, gNat u (n.toNat + 1), gNat u (n.toNat + 2)⟩)
      ∧ (n ≠ 0#6 → ¬good → Traps (.mcfg n g) s 0x1D 0#12))
  ∧ (∀ (s : State) (sl : Slice) (i j : Nat) (g : BitVec 4), guardOn g (landDue s).unit = true →
      let m := (landDue s).unit.mx
      let west := nth sl.west i []
      let north := nth sl.north j []
      m.slices = [sl] → i < 64 → j < 64 → sl.age + 1 = i + j → west.length = sl.k → north.length = sl.k →
      let acc := fun (m : Matrix) => lane (nth (m.planes[planeIx sl.plane]).toList i 0#2048) j
      let state := fun (m : Matrix) => (mget m.group (peKey sl.plane i j)).getD ⟨0#32, 0#32, 0#32⟩
      let a := fun t => (nth west t 0#16).toNat
      let b := fun t => (nth north t 0#16).toNat
      let x := acc m
      let number := fun (fmt : W64) (l : Latches) (k c : Nat) =>
        if fmtMx (fmtOf fmt) then decodeMx (fmtOf fmt) (xvalOf fmt) c (latchScale l k % 256) else decodeElem (fmtOf fmt) (xvalOf fmt) c
      let exact := (upto 0 sl.k).foldl
        (fun v t => (addNum v (mulNum (number sl.fmtW sl.sw i (a t)) (number sl.fmtN sl.sn j (b t))).1).1) (num32 x)
      let sum := fun (f : Nat → Nat) => BitVec.ofNat 32 ((upto 0 sl.k).map f).sum
      let ab := (state m).ab + sum fun t => a t * b t
      let qa := (state m).a + sum a
      let qb := (state m).b + sum b
      let za : Int := latchZp sl.sw i
      let zb : Int := latchZp sl.sn j
      let v : Int := ab.toInt - zb * qa.toInt - za * qb.toInt + sl.groupN * za * zb
      let scale := rne32 (mulNum (decodeF fp16 (latchScale sl.sw i)) (decodeF fp16 (latchScale sl.sn j))).1
      ∃ t, exec (.mshift g) s = .next t
        ∧ (sl.cfg.rows.getLsbD i = false ∨ sl.cfg.cols.getLsbD j = false → acc t.unit.mx = x ∧ state t.unit.mx = state m)
        ∧ (sl.cfg.rows.getLsbD i = true → sl.cfg.cols.getLsbD j = true →
          (fmtAsym (fmtOf sl.fmtW) = false → sl.cfg.integer = false → acc t.unit.mx = rne32 exact % 2 ^ 32)
          ∧ (fmtAsym (fmtOf sl.fmtW) = false → sl.cfg.integer = true → acc t.unit.mx
            = (((x : Int) + ((upto 0 sl.k).map fun t => sint 8 (a t) * sint 8 (b t)).sum) % 2 ^ 32).toNat)
          ∧ (fmtAsym (fmtOf sl.fmtW) = true → sl.groupN = 0 → acc t.unit.mx = x ∧ state t.unit.mx = ⟨ab, qa, qb⟩)
          ∧ (fmtAsym (fmtOf sl.fmtW) = true → sl.groupN ≠ 0 → state t.unit.mx = ⟨0#32, 0#32, 0#32⟩
            ∧ acc t.unit.mx = if sl.cfg.integer then (((x : Int) + v) % 2 ^ 32).toNat
              else rne32 (addNum (num32 x) (mulNum (num32 scale) (intNum v)).1).1 % 2 ^ 32)))

/-- R174 to R178: MFEED binds a feeder to a local ring, to a ring of a core of the gang, or to an object through a hidden ring; it takes
the format of the ring's bank, and the binding lands one issue cycle later. An invalid binding traps with cause 0x1B: so does a binding to
a ring that the other feeder has taken, unless both receive the same slices.
Logs 17 and 69 name the model's choices that it rests on. -/
def Obligations.FeederBindings : Prop :=
  ∀ (s : State) (f : Bool) (n : BitVec 6) (g : BitVec 4), guardOn g (landDue s).unit = true →
    let u := (landDue s).unit
    let w := gReg u n
    let far := w.setWidth 4
    let other := boundRing u (feederOf u !f)
    let binds := fun (i : Instr) (src : FeedSrc) (fmt : W64) => Acts i s fun v => { v with
      mx := beat u.mx none
      landing := v.landing ++ [⟨v.cyc + 1, v.nextAcc, .feeder f { Feeder.unbound with src := some src, fmt := fmt }, 0#6⟩] }
    let hq : BitVec 6 := (w >>> 16).setWidth 6
    let sq : BitVec 6 := (w >>> 4).setWidth 6
    let remote := w.toNat < 2 ^ 20 ∧ w.toNat / 2 ^ 10 % 4 = 0 ∧ inGang u far.toNat = true
    let handle := n.toNat % 2 = 0 ∧ w.toNat / 2 ^ 22 % 2 ^ 10 = 0 ∧ w.toNat / 2 ^ 32 ≠ 0
    (∀ fmt, feedFormat u.pad n = some fmt → other ≠ some n.toNat → binds (.mfeedRing f n g) (.ring n) fmt)
    ∧ (feedFormat u.pad n = none ∨ other = some n.toNat → Traps (.mfeedRing f n g) s 0x1B 0#12)
    ∧ (∀ pad fmt, remote → meshTaken u f w = false → padOf (landDue s) far.toNat = some pad → feedFormat pad sq = some fmt →
      binds (.mfeedMesh f n g) (.mesh w) fmt)
    ∧ (¬remote ∨ meshTaken u f w = true → Traps (.mfeedMesh f n g) s 0x1B 0#12)
    ∧ (∀ fmt, handle → feedFormat u.pad hq = some fmt → other ≠ some hq.toNat →
      binds (.mfeedHandle f n g) (.handle w (gNat u (n.toNat + 1))) fmt)
    ∧ (¬handle ∨ feedFormat u.pad hq = none ∨ other = some hq.toNat → Traps (.mfeedHandle f n g) s 0x1B 0#12)

/-- R188, R190, R192: the scale instructions write the latches of one edge three issue cycles later: SLW and SLN all of them in the
layout that the bank's format gives, SLZP the zero points alone, SLSET one latch. The latch entries not written keep their values.
Log 69 names the model's choice at the store's last word. -/
def Obligations.ScaleLatchWrites : Prop :=
  ∀ (s : State) (a i : BitVec 6) (e : Bool) (g : BitVec 4) (x : Option Limm), guardOn g (landDue s).unit = true →
    let u := (landDue s).unit
    let va := (addrOf u a x).toNat
    let byte := fun (k : Nat) => (readByte u.pad.bytes k).toNat
    let asym := va < 0x200000 ∧ fmtAsym (fmtOf (bankFmt u.pad va)) = true
    let all := fun (ins : Instr) (north : Bool) =>
      (asym → bytesTrap u.pad.banks (addrOf u a x) 256 = none →
        ∃ d, Lands ins s 3 (.latch north (BitVec.allOnes 1024) (BitVec.allOnes 512) d) 0#6
          ∧ ∀ l < 64, latchScale d l = byte (va + 4 * l) + 256 * byte (va + 4 * l + 1) ∧ latchZp d l = byte (va + 4 * l + 2))
      ∧ (¬asym → bytesTrap u.pad.banks (addrOf u a x) 64 = none →
        ∃ d, Lands ins s 3 (.latch north (BitVec.allOnes 1024) 0#512 d) 0#6 ∧ ∀ l < 64, latchScale d l = byte (va + l))
      ∧ (∀ c, bytesTrap u.pad.banks (addrOf u a x) (if asym then 256 else 64) = some c → Traps ins s c 0#12)
    all (.slw a g x) false ∧ all (.sln a g x) true
    ∧ (bytesTrap u.pad.banks (addrOf u a x) 64 = none →
      ∃ d, Lands (.slzp a e g x) s 3 (.latch e 0#1024 (BitVec.allOnes 512) d) 0#6 ∧ ∀ l < 64, latchZp d l = byte (va + l))
    ∧ (∃ sb zb d, Lands (.slset a e i g) s 3 (.latch e sb zb d) 0#6
      ∧ latchScale d i.toNat = (gReg u a).toNat % 2 ^ 16 ∧ latchZp d i.toNat = (gReg u a).toNat / 2 ^ 16 % 2 ^ 8
      ∧ ∀ k < 1024, (sb.getLsbD k = true ↔ 16 * i.toNat ≤ k ∧ k < 16 * i.toNat + 16)
        ∧ (k < 512 → (zb.getLsbD k = true ↔ 8 * i.toNat ≤ k ∧ k < 8 * i.toNat + 8)))

/-! ### Commands of the engines -/
/-- R158, R218, R221, R227: a copy command that no check of R231 refuses enters its queue with the class of R230 and the registers
as they stand; EA serves CQ0, and a slot alone in its bundle is EA. R30, R231: a copy command that a check refuses traps with the
lowest of its causes, whatever the queue, where cause 0x29 carries RCORE; one that no check refuses waits while its queue is full or the
pool is empty. That a far range of CPY.L2L beyond its bank is no cause at issue is log 78.
Logs 35, 69 and 78 name the model's choices that it rests on. -/
def Obligations.CopyCommandsEnter : Prop :=
  (∀ (s : State) (a b c : BitVec 6) (g : BitVec 4), guardOn g (landDue s).unit = true → canEnqueue (landDue s).unit 0 = true →
      let u := (landDue s).unit
      let near := gReg u a
      let far := gReg u b
      let far1 := gNat u (b.toNat + 1)
      let ctl := gReg u c
      let cls := copyClass u.pad near ctl
      (g2lCauses u near far far1 ctl = [] → Enters (.cpyG2l a b c g) s 0 cls
        (.cpyG2l near far far1 ctl u.cr.gxmode (if u.cr.gxmode.toNat / 2 ^ 56 % 4 = 2 then gatherIdx u ctl else [])))
      ∧ (l2gCauses u near far1 ctl = [] → u.launch.paired = false → Enters (.cpyL2g a b c g) s 0 cls (.cpyL2g near far far1 ctl))
      ∧ (l2gCauses u near far1 ctl = [] → u.launch.paired = true → Acts (.cpyL2g a b c g) s fun v =>
        { entered 0 cls (.cpyL2g near far far1 ctl) v with sig := v.sig ++ [⟨BitVec.ofNat 64 (far1.toNat % 2 ^ 16 * 2 ^ 48
          + far.toNat / 2 ^ 32 % 2 ^ 16 * 2 ^ 32 + far.toNat % 2 ^ 32), 0#64, some v.nextAcc⟩] })
      ∧ (l2lCauses u near far ctl = [] → Enters (.cpyL2l a b c g) s 0 cls (.cpyL2l near far ctl))
      ∧ (clCauses (landDue s) near far ctl = [] → Enters (.cpyCl a b c g) s 0 cls (.cpyCl near far ctl))
      ∧ (peCauses u near far1 ctl = [] → Enters (.cpyPe a b c g) s 0 cls (.cpyPe near far far1 ctl)))
  ∧ (∀ (s : State) (a b c : BitVec 6) (g : BitVec 4), guardOn g (landDue s).unit = true →
      let u := (landDue s).unit
      let near := gReg u a
      let far := gReg u b
      let far1 := gNat u (b.toNat + 1)
      let ctl := gReg u c
      TrapsLowest (.cpyG2l a b c g) s (g2lCauses u near far far1 ctl) ∧ TrapsLowest (.cpyL2g a b c g) s (l2gCauses u near far1 ctl)
      ∧ TrapsLowest (.cpyL2l a b c g) s (l2lCauses u near far ctl) ∧ TrapsLowest (.cpyPe a b c g) s (peCauses u near far1 ctl)
      ∧ (∀ x rest, clCauses (landDue s) near far ctl = x :: rest →
        let least := rest.foldl min x
        Traps (.cpyCl a b c g) s least (if least = 0x29 then BitVec.ofNat 12 (ldCore far) else 0#12))
      ∧ (canEnqueue u 0 = false →
        (g2lCauses u near far far1 ctl = [] → Waits (.cpyG2l a b c g) s false)
        ∧ (l2gCauses u near far1 ctl = [] → Waits (.cpyL2g a b c g) s false)
        ∧ (l2lCauses u near far ctl = [] → Waits (.cpyL2l a b c g) s false)
        ∧ (clCauses (landDue s) near far ctl = [] → Waits (.cpyCl a b c g) s false)
        ∧ (peCauses u near far1 ctl = [] → Waits (.cpyPe a b c g) s false)))

/-- R418, R420, R422, R426, R427: the route commands enter RQ, with their operands and, for ROUTE, the time of issue; a command
whose local ranges leave the banks of the unit traps with cause 0x17, and then one whose C field is not G0, whose words have a
nonzero reserved field or whose addresses are misaligned with cause 0x39; one that no check refuses waits while RQ is full or the
pool is empty. The accesses of ROUTE and RRET carry the DCLASS of the bank that they read (R156, R422); the class of RTCFG's and
RASM's is the model's choice (log 13). Log 69 names the model's choice at the store's last word. -/
def Obligations.RouteCommandsEnter : Prop :=
  ∀ (s : State) (a b c : BitVec 6) (g : BitVec 4), guardOn g (landDue s).unit = true → (landDue s).unit.launch.paired = false →
    let u := (landDue s).unit
    let x := gReg u a
    let y := gReg u b
    let rows := x.toNat / 2 ^ 32 % 64 + 1
    let local_ := fun (w : W64) => w.toNat % 2 ^ 21
    let okRoute := fld x 47 17 = 0 ∧ fld x 38 2 = 0 ∧ fld x 21 11 = 0 ∧ local_ x % 32 = 0
      ∧ fld y 42 22 = 0 ∧ fld y 38 2 = 0 ∧ fld y 34 2 = 0 ∧ fld y 21 11 = 0 ∧ local_ y % 32 = 0
    let okRtcfg := fld x 16 48 = 0 ∧ fld y 28 36 = 0 ∧ fld y 2 14 = 0
    let okRasm := fld x 49 15 = 0 ∧ fld x 42 6 = 0 ∧ fld x 38 2 = 0 ∧ fld x 21 11 = 0 ∧ local_ x % 32 = 0
      ∧ fld y 54 10 = 0 ∧ fld y 42 6 = 0
    let okRret := x.toNat % 4 = 0 ∧ y.toNat % 32 = 0
    (canEnqueue u 4 = true → c = 0#6 →
      (okRoute → padOk u.pad.banks (local_ x) (rows * (32 * (fld x 40 7 + 1))) = true → padOk u.pad.banks (local_ y) (32 * rows) = true →
        Enters (.route a b c g) s 4 (bankClass u.pad (fld x 0 21)) (.route x y (BitVec.ofNat 64 (landDue s).time)))
      ∧ (okRtcfg → Enters (.rtcfg a b c g) s 4 0#4 (.rtcfg x y))
      ∧ (okRasm → padOk u.pad.banks (local_ x) (4 * (fld y 48 6 + 1) * (4 * (fld y 32 10 + 1))) = true →
        Enters (.rasm a b c g) s 4 0#4 (.rasm x y))
      ∧ (okRret → padOk u.pad.banks y.toNat 32 = true → Enters (.rret a b c g) s 4 (bankClass u.pad x.toNat) (.rret x y)))
    ∧ (let checks := fun (i : Instr) (inBanks fields : Prop) =>
      (¬inBanks → Traps i s 0x17 0#12) ∧ (inBanks → c ≠ 0#6 ∨ ¬fields → Traps i s 0x39 0#12)
        ∧ (canEnqueue u 4 = false → inBanks → c = 0#6 → fields → Waits i s false)
      checks (.route a b c g) (padOk u.pad.banks (local_ x) (rows * (32 * (fld x 40 7 + 1))) = true
        ∧ padOk u.pad.banks (local_ y) (32 * rows) = true) okRoute
      ∧ checks (.rtcfg a b c g) True okRtcfg
      ∧ checks (.rasm a b c g) (padOk u.pad.banks (local_ x) (4 * (fld y 48 6 + 1) * (4 * (fld y 32 10 + 1))) = true) okRasm
      ∧ checks (.rret a b c g) (padOk u.pad.banks y.toNat 32 = true) okRret)

/-- R329, R330, R354, R389, R465, R471: the KV, pantry and media commands enter KQ as class 15; a nonzero reserved field, a
misaligned address or a register that must be G0 traps with the cause of its chapter.
Logs 42 and 69 name the model's choices that it rests on. -/
def Obligations.KvAndMediaCommandsEnter : Prop :=
  ∀ (s : State) (a b c : BitVec 6) (g : BitVec 4), guardOn g (landDue s).unit = true → (landDue s).unit.launch.paired = false →
    let u := (landDue s).unit
    let x := gReg u a
    let y := gReg u b
    let z := gReg u c
    let okMap := c = 0#6 ∧ fld y 32 32 = 0 ∧ fld y 1 15 = 0 ∧ x.toNat % 65536 = 0
    let okAdv := c = 0#6 ∧ fld y 1 63 = 0 ∧ x.toNat % 64 = 0
    let okTrunc := c = 0#6 ∧ fld y 32 32 = 0 ∧ x.toNat % 64 = 0
    let okLook := x.toNat % 65536 = 0 ∧ y.toNat % 32 = 0 ∧ z.toNat < 16
    let okRel := c = 0#6 ∧ fld y 32 32 = 0 ∧ fld y 4 12 = 0 ∧ x.toNat % 65536 = 0
    let okTile := fld x 6 58 = 0 ∧ fld y 30 2 = 0 ∧ fld y 14 10 = 0 ∧ fld y 6 2 = 0 ∧ fld z 1 31 = 0
      ∧ ∃ r, ringAt u.pad (x.setWidth 6) = some r ∧ r.cons = 1 ∧ r.thr = 1 + fld z 0 1 ∧ 24576 ≤ r.size
    let okEnc := c = 0#6 ∧ fld y 30 2 = 0 ∧ fld y 2 22 = 0 ∧ fld y 0 2 ≠ 3 ∧ x.toNat % 64 = 0
    (canEnqueue u 5 = true →
      (okMap → Enters (.kvmap a b c g) s 5 15#4 (.kvmap x y)) ∧ (okAdv → Enters (.kvadv a b c g) s 5 15#4 (.kvadv x y))
      ∧ (okTrunc → Enters (.kvtrunc a b c g) s 5 15#4 (.kvtrunc x y))
      ∧ (okLook → padOk u.pad.banks y.toNat 320 = true → Enters (.pnlook a b c g) s 5 15#4 (.pnlook x y z))
      ∧ (okLook → x ≠ 0#64 → padOk u.pad.banks y.toNat 320 = true → Enters (.pnins a b c g) s 5 15#4 (.pnins x y z))
      ∧ (okRel → Enters (.pnrel a b c g) s 5 15#4 (.pnrel x y)) ∧ (okTile → Enters (.pxtile a b c g) s 5 15#4 (.pxtile x y z))
      ∧ (okEnc → Enters (.encfrm a b c g) s 5 15#4 (.encfrm x y)))
    ∧ (¬okMap → Traps (.kvmap a b c g) s 0x2E 0#12) ∧ (¬okAdv → Traps (.kvadv a b c g) s 0x34 0#12)
    ∧ (¬okTrunc → Traps (.kvtrunc a b c g) s 0x34 0#12) ∧ (¬okRel → Traps (.pnrel a b c g) s 0x34 0#12)
    ∧ (padOk u.pad.banks y.toNat 320 = false → Traps (.pnlook a b c g) s 0x17 0#12 ∧ Traps (.pnins a b c g) s 0x17 0#12)
    ∧ (padOk u.pad.banks y.toNat 320 = true → (¬okLook → Traps (.pnlook a b c g) s 0x34 0#12)
      ∧ (¬okLook ∨ x = 0#64 → Traps (.pnins a b c g) s 0x34 0#12))
    ∧ (¬okTile → Traps (.pxtile a b c g) s 0x3C 0#12) ∧ (¬okEnc → Traps (.encfrm a b c g) s 0x3C 0#12)

/-! ### Rings -/
/-- R199, R205, R209: QCFG gives an idle descriptor its two words and starts its indices at 0, and QCFG.OFF leaves it
unconfigured; a busy descriptor or an invalid pair of words traps with cause 0x21 and the ring's number. R215, R223: QTEST reads a
descriptor, a queue or an error bit into a predicate and never waits; QFENCE enters one fence over the queues of its mask, which
is gone at once where those queues hold no earlier entry.
Logs 19, 28 and 69 name the model's choices that it rests on. -/
def Obligations.RingConfigurationAndTests : Prop :=
  (∀ (s : State) (q a : BitVec 6) (g : BitVec 4), guardOn g (landDue s).unit = true →
      let u := (landDue s).unit
      let w0 := gReg u a
      let w1 := gNat u (a.toNat + 1)
      let valid := ringValid w0 w1 u.pad.banks (gangMask u)
      hiddenRing u q = false →
      (ringBusy u q = false → valid = true → Acts (.qcfg q a g) s fun v => withRing q ⟨w0, w1, 0#16, 0#16, 0#16, 0#1024, 0#1024, 0#1024⟩ (discardHolds v q))
      ∧ (ringBusy u q = false → Acts (.qcfgOff q g) s fun v =>
        { discardHolds v q with pad := { v.pad with rings := v.pad.rings.set q.toNat none } })
      ∧ (ringBusy u q = true ∨ valid = false → Traps (.qcfg q a g) s 0x21 (q.setWidth 12))
      ∧ (ringBusy u q = true → Traps (.qcfgOff q g) s 0x21 (q.setWidth 12)))
  ∧ (∀ (s : State) (q m : BitVec 6) (p : BitVec 3) (t : BitVec 6) (g : BitVec 4), guardOn g (landDue s).unit = true →
      let u := (landDue s).unit
      let lands := fun (b : Bool) => Lands (.qtest q p t g) s 1 (.p p b) 0#6
      (∀ r, hiddenRing u q = false → ringAt u.pad q = some r →
        (t = 0#6 → lands (decide (1 ≤ r.filled))) ∧ (t = 1#6 → lands (decide (r.dist r.head r.rsv < r.n)))
        ∧ (t = 2#6 → lands (decide (r.head = r.tail ∧ r.tail = r.rsv))) ∧ (t = 3#6 → lands (decide (r.thr ≤ r.filled))))
      ∧ (hiddenRing u q = false → ringAt u.pad q = none → t.toNat < 4 → lands false)
      ∧ (hiddenRing u q = true → t.toNat < 4 → Traps (.qtest q p t g) s 0x1C 0#12)
      ∧ (8 ≤ t.toNat → t.toNat < 14 → lands (queueOf u (t.toNat - 8)).isEmpty)
      ∧ (16 ≤ t.toNat → t.toNat < 22 → lands (u.cr.qerr.getLsbD (t.toNat - 16)))
      ∧ (u.fences = [] → Acts (.qfence m g) s fun v => { v with
        qfences := (v.qfences ++ [(m, v.nextAcc)]).filter fun f =>
          (upto 0 6).any fun k => f.1.getLsbD k && (queueOf v k).any fun e => e.ord < f.2 }))

/-- R200, R208, R210, R214: QRESV takes slots of a plain ring at RSV, and QAWAIT looks at the slots at HEAD, as acquires; their
index and address land one cycle later. QRESV waits for room and QAWAIT for filled slots; the causes 0x1F, 0x20 and 0x22 carry the
ring's number. R202, R210, R211, R214: QCOMMIT moves TAIL, QREL moves HEAD and QFILL fills a ticket, each as a release that covers
the unit's accesses of the ring's class and of class 15; a count or ticket that the ring does not hold traps with cause 0x20, and
each instruction on an unconfigured descriptor, or on a ring of the wrong kind or consumer, with cause 0x1F. Logs 16, 27 and 69 name
the model's choices that it rests on. -/
def Obligations.RingAcquiresAndReleases : Prop :=
  (∀ (s : State) (q d c : BitVec 6) (g : BitVec 4) (r : Ring), guardOn g (landDue s).unit = true →
      let u := (landDue s).unit
      let value := fun (k : W16) (v : Machine.Unit) =>
        { v with landing := v.landing ++ [(⟨v.cyc + 1, v.nextAcc, .g d (BitVec.ofNat 64 (k.toNat * 2 ^ 32 + (r.base + k.toNat % r.n * r.size))), 0#6⟩ : Landing)] }
      hiddenRing u q = false → ringAt u.pad q = some r →
      (r.reorder = false → c.toNat ≤ r.n → mayProduce u r = true → c.toNat ≤ r.room →
        Acts (.qresv q d c g) s fun v => acquired r.scope (landDue s).stamp (value r.rsv (withRing q (r.reserve c.toNat) v)))
      ∧ (r.reorder = false → c.toNat ≤ r.n → mayProduce u r = true → r.room < c.toNat → Waits (.qresv q d c g) s true)
      ∧ (r.reorder = true → Traps (.qresv q d c g) s 0x1F (q.setWidth 12))
      ∧ (r.reorder = false → r.n < c.toNat → Traps (.qresv q d c g) s 0x20 (q.setWidth 12))
      ∧ (r.reorder = false → c.toNat ≤ r.n → mayProduce u r = false → Traps (.qresv q d c g) s 0x22 (q.setWidth 12))
      ∧ (r.reorder = true → mayProduce u r = true → 0 < r.room →
        Acts (.qtick q d g) s fun v => acquired r.scope (landDue s).stamp (value r.rsv (withRing q (r.reserve 1) v)))
      ∧ (r.reorder = true → mayProduce u r = true → r.room = 0 → Waits (.qtick q d g) s true)
      ∧ (r.cons = 0 → feederBound u q = false → c.toNat ≤ r.n → c.toNat ≤ r.filled →
        Acts (.qawait q d c g) s fun v => acquired r.scope (landDue s).stamp (value r.head v))
      ∧ (r.cons = 0 → feederBound u q = false → c.toNat ≤ r.n → r.filled < c.toNat → u.deferred = [] → Waits (.qawait q d c g) s true)
      ∧ (r.reorder = true → mayProduce u r = false → Traps (.qtick q d g) s 0x22 (q.setWidth 12))
      ∧ (r.cons = 0 → feederBound u q = false → r.n < c.toNat → Traps (.qawait q d c g) s 0x20 (q.setWidth 12))
      ∧ (r.cons ≠ 0 → Traps (.qawait q d c g) s 0x1F (q.setWidth 12))
      ∧ (r.cons = 0 → feederBound u q = true → Traps (.qawait q d c g) s 0x1C 0#12 ∧ Traps (.qrel q c g) s 0x1C 0#12))
  ∧ (∀ (s : State) (q a c : BitVec 6) (g : BitVec 4) (r : Ring), guardOn g (landDue s).unit = true →
      let u := (landDue s).unit
      let tk := (gReg u a).toNat / 2 ^ 32 % 2 ^ 16
      let rel := fun (r' : Ring) (head : Bool) (x : W16) (v : Machine.Unit) =>
        addRelease (withRing q r' v) ⟨q, head, x, covered v false (3 ≤ r.scope) r.cls, r.scope⟩
      let word := fun (x : Nat) => BitVec.ofNat 64 (2 ^ 63 + q.toNat * 2 ^ 32 + (r.base + x % r.n * r.size))
      hiddenRing u q = false → ringAt u.pad q = some r →
      (r.reorder = false → c.toNat ≤ r.dist r.tail r.rsv →
        Acts (.qcommit q c g) s fun v => rel (r.commit c.toNat) false r.tail (sigEvent v (word r.tail.toNat) (BitVec.ofNat 64 c.toNat)))
      ∧ (r.reorder = false → r.dist r.tail r.rsv < c.toNat → Traps (.qcommit q c g) s 0x20 (q.setWidth 12))
      ∧ (r.reorder = true → Traps (.qcommit q c g) s 0x1F (q.setWidth 12))
      ∧ (r.cons = 0 → feederBound u q = false → c.toNat ≤ r.filled → Acts (.qrel q c g) s fun v => rel (r.free c.toNat) true r.head v)
      ∧ (r.cons = 0 → feederBound u q = false → r.filled < c.toNat → Traps (.qrel q c g) s 0x20 (q.setWidth 12))
      ∧ (r.reorder = true → r.canFill tk = true → Acts (.qfill q a g) s fun v =>
        rel (r.fill (BitVec.ofNat 16 tk)) false (BitVec.ofNat 16 tk) (sigEvent v (word tk) (BitVec.ofNat 64 tk)))
      ∧ (r.reorder = true → r.canFill tk = false → Traps (.qfill q a g) s 0x20 (q.setWidth 12))
      ∧ (r.cons ≠ 0 → Traps (.qrel q c g) s 0x1F (q.setWidth 12))
      ∧ (r.reorder = false → Traps (.qfill q a g) s 0x1F (q.setWidth 12) ∧ Traps (.qtick q a g) s 0x1F (q.setWidth 12)))
  ∧ (∀ (s : State) (q d c : BitVec 6) (g : BitVec 4), guardOn g (landDue s).unit = true →
      ∀ i ∈ [Instr.qresv q d c g, .qtick q d g, .qcommit q c g, .qfill q d g, .qawait q d c g, .qrel q c g],
        (hiddenRing (landDue s).unit q = true → Traps i s 0x1C 0#12)
        ∧ (hiddenRing (landDue s).unit q = false → ringAt (landDue s).unit.pad q = none → Traps i s 0x1F (q.setWidth 12)))

/-- R200, R202: every operation on a ring keeps its indices below WRAP, its filled slots within its reserved ones and those within its
size, where each finds what it needs. -/
def Obligations.RingOperationsKeepIndices : Prop :=
  ∀ (r : Ring) (c tk : Nat),
    let ok := fun (r : Ring) => r.head.toNat < r.wrap ∧ r.tail.toNat < r.wrap ∧ r.rsv.toNat < r.wrap
      ∧ r.dist r.head r.tail ≤ r.dist r.head r.rsv ∧ r.dist r.head r.rsv ≤ r.n
    ok r →
    (c ≤ r.room → ok (r.reserve c)) ∧ (c ≤ r.dist r.tail r.rsv → ok (r.commit c)) ∧ (c ≤ r.filled → ok (r.free c))
    ∧ (r.canFill tk = true → ok (r.fill (BitVec.ofNat 16 tk)))
    ∧ (∀ w0 w1, ok ⟨w0, w1, 0#16, 0#16, 0#16, 0#1024, 0#1024, 0#1024⟩)
    ∧ (r.gone = 0#1024 → r.head ≠ r.tail → r.freeAt r.head = r.free 1)
    ∧ (r.tail ≠ r.rsv → r.hasBit r.held r.tail = false → r.commitOne = r.commit 1 ∧ ok r.commitOne)
    ∧ (r.tail ≠ r.rsv → r.hasBit r.held r.tail = true → r.commitOne = r)

/-! ### Global accesses at their homes, and their answers -/
/-- R33, R218, R220, R254, R287, R324, R325: an access whose parts have all been answered leaves the access path and gives its pool entry
back. R34, R125, R283, R284: a load puts its value into Gd, an atomic the old value into Gd, or into Gd and the next register where it is of
16 bytes, and VLDG its words into the enabled lanes and with Z zeros into the others, where no later bundle or slot has written that
register in the same issue cycle. An aborted access leaves an error for a deferred trap and writes no register, and a refused contribution
sets CR.REDREF.
Log 26 names the model's choices that it rests on. -/
def Obligations.AccessAnswersReachUnit : Prop :=
  ∀ (s : State) (acc : Nat) (a : Access), accAt s.unit acc = some a → a.resolved = true →
    let u := s.unit
    let left := u.accs.filter fun b => b.id != acc
    let same := fun (t : State) => t.unit.v = u.v ∧ t.unit.m = u.m ∧ t.unit.p = u.p ∧ t.unit.pad = u.pad ∧ t.dram = s.dram
      ∧ t.llc = s.llc ∧ t.unit.accs = left
    let whole := abortedCode a = none ∧ a.parts.any (fun p => p.stage == .refused) = false
    let answered := fun (t : State) => t.unit.m = u.m ∧ t.unit.p = u.p ∧ t.unit.pad = u.pad ∧ t.dram = s.dram ∧ t.llc = s.llc
      ∧ t.unit.accs = left ∧ t.unit.nl = u.nl - 1 ∧ t.unit.deferred = u.deferred
    let newest := ∀ l ∈ u.ctx.landed, l.ord ≤ acc
    (∀ d n, a.kind = .load d n → whole → newest →
      ∃ t, exec (.loadResponse acc) s = .next t ∧ same t ∧ t.unit.nl = u.nl - 1 ∧ t.unit.deferred = u.deferred
        ∧ ∀ r, gReg t.unit r = if r = d ∧ r ≠ 0#6 then BitVec.ofNat 64 (accValue a 0 n) else gReg u r)
    ∧ (∀ d n l w, a.kind = .load d n → whole → l ∈ u.ctx.landed → acc < l.ord → l.dest = .g d w →
      ∃ t, exec (.loadResponse acc) s = .next t ∧ same t ∧ t.unit.nl = u.nl - 1 ∧ t.unit.deferred = u.deferred
        ∧ ∀ r, r ≠ 0#6 → gReg t.unit r = gReg u r)
    ∧ (∀ op ty d v e, a.kind = .atom op ty d v e → whole → newest →
      ∃ t, exec (.loadResponse acc) s = .next t ∧ answered t ∧ t.unit.v = u.v
        ∧ ∀ r, r ≠ 0#6 → gReg t.unit r = if r = d then BitVec.ofNat 64 (accValue a 0 (min ty.bytes 8))
          else if ty.bytes = 16 ∧ r = d + 1#6 then BitVec.ofNat 64 (accValue a 8 8) else gReg u r)
    ∧ (∀ d mask z, a.kind = .vload d mask z → whole → newest →
      ∃ t, exec (.loadResponse acc) s = .next t ∧ answered t ∧ t.unit.g = u.g ∧ (∀ r, r ≠ d → vReg t.unit r = vReg u r)
        ∧ ∀ k < 64, lane (vReg t.unit d) k = if mask.getLsbD k then accValue a (4 * k) 4 else if z then 0 else lane (vReg u d) k)
    ∧ (∀ c, a.kind.counter = 0 → abortedCode a = some c →
      ∃ t, exec (.loadResponse acc) s = .next t ∧ same t ∧ t.unit.nl = u.nl - 1 ∧ t.unit.g = u.g
        ∧ t.unit.deferred = u.deferred ++ [⟨acc, 0, 0x2D#8, c, a.va, none, 0⟩])
    ∧ (a.kind.counter = 1 → whole →
      ∃ t, exec (.storeAck acc) s = .next t ∧ same t ∧ t.unit.ns = u.ns - 1 ∧ t.unit.g = u.g ∧ t.unit.deferred = u.deferred
        ∧ t.unit.cr = u.cr)
    ∧ (∀ c, a.kind.counter = 1 → abortedCode a = some c →
      ∃ t, exec (.storeAck acc) s = .next t ∧ same t ∧ t.unit.ns = u.ns - 1 ∧ t.unit.g = u.g
        ∧ t.unit.deferred = u.deferred ++ [⟨acc, 1, 0x2D#8, c, a.va, none, 0⟩])
    ∧ (a.kind.counter = 1 → abortedCode a = none → a.parts.any (fun p => p.stage == .refused) = true →
      ∃ t, exec (.storeAck acc) s = .next t ∧ same t ∧ t.unit.ns = u.ns - 1 ∧ t.unit.g = u.g ∧ t.unit.cr.redref = true)

/-- R267 to R269, R279, R280, R284, R292: a part of an access that is ready and translates to main memory. A read whose line is
valid sends one packet with the line's bytes; a write makes its bytes the bytes of memory, and an atomic makes its result so in one
step with its read; every other byte reads as before. A read of a sector whose bytes are bad is aborted, and its job is to be
cancelled (R489). Room is then made for the line in its slice and its partition's share (R3, R279, R485). In a pinned frame the
access passes to the pin slice, and does the same there. Logs 6, 29, 32, 33 and 89 name the model's choices that it rests on. -/
def Obligations.AccessesPerformAtHome : Prop :=
  ∀ (s s' : State) (acc i : Nat) (a : Access) (p : Part) (pa key : Nat), readyPart s acc i = some (a, p) →
    let at_ := partPas p pa
    let ids := at_.map (·.1)
    let found := fun (va : W64) (kind : Nat) => locate s (unitWho s.unit a.cls 0#2) va kind true = (s', .ok (.mem pa key false))
    let wrote := fun (b t : State) => (∀ e ∈ at_, ∀ k, memByte t k e.1 = e.2)
      ∧ ∀ q k, q ∉ ids → memByte t k q = memByte b k q
    let h := homeSlice (partVa a p).toNat
    let packet : Packet := ⟨h, pa / 128, memBytes s' key (pa / 128 * 128) 128, [(acc, i)], []⟩
    let room := fun (t b : State) => t.llc = (makeRoom b h (pa / 4096)).llc ∧ t.dram = (makeRoom b h (pa / 4096)).dram
    (a.kind.isRead = true → found (partVa a p) 0 → isPinned s' pa = false → badSector s' pa p.bytes.length = none →
      missing s' ids = 0#4 →
      (∀ g ∈ s'.groups, g.queued = true ∨ g.line ≠ pa / 128) →
      ∃ t, exec (.sliceReadRequest (.unit acc) i) s = .next t ∧ t.packets = s'.packets ++ [(s'.nextPkt, packet)]
        ∧ t.dram = s'.dram ∧ t.llc = s'.llc ∧ t.unit.g = s'.unit.g)
    ∧ (a.kind.isRead = true → found (partVa a p) 0 → isPinned s' pa = true →
      exec (.sliceReadRequest (.unit acc) i) s = .next (setStage s' acc i (.atPin pa)))
    ∧ (∀ x, a.kind.isRead = true → found (partVa a p) 0 → isPinned s' pa = false → badSector s' pa p.bytes.length = some x →
      exec (.sliceReadRequest (.unit acc) i) s = .next (setStage { s' with
        owed := s'.owed ++ [(s'.unit.cr.part, s'.unit.cr.job, x)], freeCtr := s'.freeCtr + 1 } acc i (.aborted (Config.abortCode s'.freeCtr))))
    ∧ (a.kind = .store → found (partVa a p) 1 → isPinned s' pa = false → ids.Nodup → p.bytes ≠ [] →
      ∃ t b, exec (.sliceWriteRequest (.unit acc) i) s = .next t ∧ b = { splitGroups s' h (pa / 128) with llc := b.llc, stamp := s'.stamp + 1 }
        ∧ wrote s' b ∧ room t b ∧ t.unit.g = s'.unit.g)
    ∧ (∀ op ty d v e, i = 0 → a.kind = .atom op ty d v e → partVa a p = a.va → found a.va 2 → isPinned s' pa = false →
      badSector s' pa ty.bytes = none →
      let n := ty.bytes
      let read := wholeRead s' h key (pa / 128) (upto pa n) []
      read.2 = memBytes s' key pa n
      ∧ ∃ t, exec (.sliceAtomic (.unit acc)) s = .next t ∧ t.unit.g = s'.unit.g
        ∧ match atomNew op ty (leNat read.2) v.toNat e.toNat with
          | none => t.llc = read.1.llc ∧ t.dram = read.1.dram
          | some x => ∃ b, b = { splitGroups read.1 h (pa / 128) with llc := b.llc, stamp := read.1.stamp + 1 } ∧ room t b
            ∧ memBytes b key pa n = leBytes x n ∧ ∀ q, q < pa ∨ pa + n ≤ q → memByte b key q = memByte read.1 key q)
    ∧ (∀ ty nm1 rank v, i = 0 → a.kind = .red ty nm1 rank v → found a.va 2 → isPinned s' pa = false → nm1 ≠ 0#12 →
      (∀ g ∈ s'.reds, g.va ≠ a.va) → redRoom s' (homeSlice a.va.toNat) nm1 = true →
      ∃ t, exec (.redContribution (.unit acc)) s = .next t ∧ t.llc = s'.llc ∧ t.dram = s'.dram
        ∧ t.reds = s'.reds ++ [⟨homeSlice a.va.toNat, s'.unit.cr.asidSlot, s'.unit.cr.asidGen, a.va, pa, ty, nm1, [(rank.toNat, v)], [acc]⟩])
    ∧ (∀ e c level k, a.kind.isRead = true → locate s (unitWho s.unit a.cls 0#2) (partVa a p) 0 true = (s', .error (.fault c level e)) →
      freePark s' h = some k → k < 64 → (accAt s'.unit acc).isSome = true → heldBeside s' a (partVa a p) = none →
      ∃ t, exec (.sliceReadRequest (.unit acc) i) s = .next t ∧ t.llc = s'.llc ∧ t.dram = s'.dram ∧ t.unit.g = s'.unit.g
        ∧ t.parks = s'.parks ++ [⟨h, BitVec.ofNat 6 k, .access acc i, partVa a p,
          slotPart s' s.unit.cr.asidSlot, c, s.unit.cr.asidSlot, s.unit.cr.asidGen, 0⟩])

/-- R268, R280, R287, R292, R302: a read that waits for a merge group is served once one is free; a completed fill sends its group's
packet, with the bytes valid when the group opened before those of the fill; a packet gives a merged read its bytes; a contribution
that waits opens its group; and an access at a pin slice performs there. R273, R323, R326: a flush read returns and its writes no
longer wait; an access that the host port cannot complete is aborted with code 0x9 and a record; system software takes the oldest
record of a full fault ring and the first one held for it follows; a finished zeroing clears Z of its leaf. R279, R485: a slice and
a partition within their sizes evict nothing, and what an evicted sector held dirty stands in main memory. R264: the flush read of a
release. R302: the lines that another core's ladle read brings into the scratchpad. Logs 1, 31, 32, 33 and 79 name the model's
choices that it rests on. -/
def Obligations.SliceAndHostEvents : Prop :=
  (∀ (s : State) (h : BitVec 6),
      (∀ g, s.groups.find? (fun x => x.queued && x.slice == h) = some g → groupsAt s h < Config.mergeGroups →
        (∀ x ∈ s.groups, x.queued = true ∨ x.line ≠ g.line) → (∀ k < 128, (llcByte s (128 * g.line + k)).isSome = true) →
        ∃ t, exec (.mergeGroupWait h) s = .next t ∧ t.groups = s.groups.erase g ∧ t.llc = s.llc ∧ t.dram = s.dram
          ∧ t.packets = s.packets ++ [(s.nextPkt, ⟨h, g.line, memBytes s g.key (128 * g.line) 128, g.members, g.puts⟩)])
      ∧ (∀ g line, (s.groups.filter fun x => !x.queued && x.slice == h && x.line == line) = [g] →
        ∃ t, exec (.sectorFillComplete h line) s = .next t
          ∧ t.llc = (fillSectors s h g.key line g.sectors).llc ∧ t.dram = (fillSectors s h g.key line g.sectors).dram
          ∧ t.groups = s.groups.filter (fun x => x.queued || !(x.slice == h && x.line == line))
          ∧ t.packets = s.packets ++ [(s.nextPkt,
            ⟨h, line, (upto 0 128).map fun k => (nth g.overlay k none).getD (dramByte s g.key (128 * line + k)), g.members, g.puts⟩)])
      ∧ (∀ n k acc i a p, mget s.packets n = some k → k.members = [(acc, i)] → k.puts = [] → accAt s.unit acc = some a →
        a.parts[i]? = some p → (∀ e ∈ s.packets, e.1 < n → e.2.slice ≠ k.slice) →
        ∃ t, exec (.clusterStopDelivery (.packet n)) s = .next t ∧ t.packets = mdel s.packets n ∧ t.llc = s.llc ∧ t.dram = s.dram
          ∧ t.unit.g = s.unit.g ∧ t.unit.pad = s.unit.pad
          ∧ ((accAt t.unit acc).bind fun b => b.parts[i]?) = some { p with
            bytes := p.bytes.map fun e => (e.1, nth k.data ((a.va + BitVec.ofNat 64 e.1).toNat % 128) 0#8), stage := .done })
      ∧ (∀ w acc a s' ty nm1 rank v pa key z, s.redWait.find? (fun x => x.1 == h) = some w → w.2 = .unit acc → accAt s.unit acc = some a →
        a.kind = .red ty nm1 rank v → redRoom s h nm1 = true → nm1 ≠ 0#12 →
        locate { s with redWait := s.redWait.erase w } (unitWho s.unit a.cls 0#2) a.va 2 true = (s', .ok (.mem pa key z)) →
        redRoom s' h nm1 = true → (∀ g ∈ s'.reds, g.va ≠ a.va) →
        ∃ t, exec (.redWaitOpen h) s = .next t ∧ t.redWait = s'.redWait ∧ t.reds.length = s'.reds.length + 1 ∧ t.llc = s'.llc)
      ∧ (∀ acc i a p pa, accAt s.unit acc = some a → a.parts[i]? = some p → p.stage = .atPin pa → a.kind = .store →
        ((partPas p pa).map (·.1)).Nodup → p.bytes ≠ [] →
        let r := fun (b : State) => makeRoom b (homeSlice pa) (pa / 4096)
        ∃ t b, exec (.pinSliceAccess acc i) s = .next t ∧ t.llc = (r b).llc ∧ t.dram = (r b).dram ∧ t.unit.g = s.unit.g
          ∧ b = { splitGroups s (homeSlice pa) (pa / 128) with llc := b.llc, stamp := s.stamp + 1 }
          ∧ (∀ e ∈ partPas p pa, ∀ k, memByte b k e.1 = e.2)
          ∧ ∀ q k, q ∉ (partPas p pa).map (·.1) → memByte b k q = memByte s k q)
      ∧ (∀ f p d, mget s.owners f = some p → mget s.pkg.parts p.toNat = some d →
        (llcLines s fun i _ => mget s.owners (i / 128) == some p && !isPinned s (32 * i)).length + (pinnedBytes s p + 127) / 128
          ≤ d.llcQ * Config.linesPerMiB →
        (llcLines s fun i c => c.home == h && !isPinned s (32 * i)).length + 32 * pinnedAtSlice s h ≤ Config.sliceLines →
        makeRoom s h f = s)
      ∧ (∀ key sec c i, mget s.llc sec = some c → i < 32 → c.dirty.getLsbD i = true → 32 * sec + 32 ≤ Config.mainBytes →
        isPinned s (32 * sec) = false →
        let t := writeBack s key sec
        t.llc = mdel s.llc sec ∧ memByte t key (32 * sec + i) = BitVec.ofNat 8 (c.data.toNat / 2 ^ (8 * i)) ∧ t.unit = s.unit)
      ∧ (∀ (x : FarPut) o bs, x.core = s.unit.cr.lcore → inGang s.unit x.core.toNat = true → s.unit.run = .running → x.ring = none →
        x.bytes = [(o, bs)] →
        ∃ t, exec (.clusterStopDelivery (.far x)) s = .next t
          ∧ readBytes t.unit.pad.bytes (x.addr.toNat + o) bs.length = bs
          ∧ (∀ a, a < x.addr.toNat + o ∨ x.addr.toNat + o + bs.length ≤ a → readByte t.unit.pad.bytes a = readByte s.unit.pad.bytes a)
          ∧ t = { s with inbound := t.inbound, unit := { s.unit with pad := { s.unit.pad with bytes := t.unit.pad.bytes } } })
      ∧ (∃ t, exec (.sliceStatsClear h) s = .next t ∧ t = { s with stats := t.stats } ∧ t.stats[h.toNat]'h.isLt = ⟨0#64, 0#64, 0#64, 0#64, 0#64⟩
        ∧ ∀ k : Fin 64, k.val ≠ h.toNat → t.stats[k] = s.stats[k]))
  ∧ (∀ (s : State),
      (∀ (package : BitVec 6) f, flushFence s.unit package.toNat = some f →
        ∃ t, exec (.flushReadReturn package) s = .next t ∧ t.unit.g = s.unit.g ∧ t.unit.accs = s.unit.accs
          ∧ t.unit.posted = s.unit.posted.filter fun p =>
            !(p.package == package.toNat && p.id < f.before && f.classes.getLsbD p.cls.toNat))
      ∧ (∀ (package : BitVec 6) l, flushFence s.unit package.toNat = none → flushRelease s.unit package.toNat = some l →
        ∃ t, exec (.flushReadReturn package) s = .next t ∧ t.unit.g = s.unit.g ∧ t.unit.accs = s.unit.accs
          ∧ t.unit.posted = s.unit.posted.filter fun p => !(p.package == package.toNat && l.accs.contains p.id))
      ∧ (∀ acc i a p s' pa, readyPart s acc i = some (a, p) →
        locate s (unitWho s.unit a.cls 0#2) (partVa a p) a.kind.right true = (s', .ok (.host pa)) →
        accAt s'.unit acc = accAt s.unit acc →
        ∃ t, exec (.hostPortError acc i) s = .next t ∧ t.faults.length + t.heldFlt.length = s'.faults.length + s'.heldFlt.length + 1
          ∧ ((accAt t.unit acc).bind fun b => b.parts[i]?).map (·.stage) = some (.aborted 9#4))
      ∧ (∀ (h : BitVec 6) r o, s.heldFlt.find? (fun x => x.2.slice == h) = some r → (s.faults.filter fun x => x.1 == r.1).head? = some o →
        faultCap s r.1 ≤ (s.faults.filter fun x => x.1 == r.1).length →
        exec (.faultRecordRelease h) s = .next { s with
          faults := s.faults.erase o ++ [r], heldFlt := s.heldFlt.erase r
          ringOut := mset s.ringOut r.1.toNat ((mget s.ringOut r.1.toNat).getD 0 + 1) })
      ∧ (∀ pa big, Config.mainBytes < pa + 8 → exec (.zeroFillDone pa big) s = .fault (.noSuchAddress pa))
      ∧ (∀ pa, pa + 8 ≤ Config.mainBytes → pa % 8 = 0 →
        let key := (mget s.dramKey (pa / 32)).getD 0
        let x := dramRead8 s key pa
        x.getLsbD 0 = true → x.getLsbD 1 = true → x.getLsbD 8 = true → x.getLsbD 9 = false → fld x 12 40 ≠ pa / 4096 →
        ∃ t, exec (.zeroFillDone pa false) s = .next t ∧ dramRead8 t key pa = x &&& ~~~0x100#64 ∧ t.unit = s.unit))

/-! ### Translation commands -/
/-- R308, R311, R319, R320, R323, R324, R328: ASSIGN makes an identifier of the next generation live; RELEASE and the invalidations remove
every translation of their range; TWRITE writes one entry under the partition's key, and of the bytes beside it only those of a sector
written under another key may read otherwise; RESUME and ABORT let a parked access go on or complete with its code, and wait while its
record waits for room in the fault ring; each ends with a status record, 1 where the command is refused, an ABORT's once the abort has come
back to the unit. That a TWRITE beyond main memory writes nothing is the model's choice (log 12).
Logs 12 and 66 name the model's choices that it rests on. -/
def Obligations.TranslationCommands : Prop :=
  ∀ (s : State) (part : BitVec 4) (slot : BitVec 12) (root : BitVec 40) (va : W64) (count : Nat) (h k : BitVec 6),
    let status := fun (t : State) (n : Nat) => t.tcmds = s.tcmds ++ [⟨part, n⟩]
    let old := (asidOf s slot).getD ⟨false, 0#4, part, 0#40⟩
    let purged := fun (t : State) (lo n : Nat) => ∀ e ∈ t.tlb, e.slot = slot → ¬(e.va < lo + n ∧ lo < e.va + e.size)
    (slotInPart s part slot = true → old.v = false → old.gen ≠ 15#4 →
      ∃ t, exec (.assign part slot root) s = .next t ∧ status t 0 ∧ mget t.asids slot.toNat = some ⟨true, old.gen + 1#4, part, root⟩
        ∧ t = { s with asids := t.asids, tcmds := t.tcmds })
    ∧ (slotInPart s part slot = false ∨ old.v = true → ∃ t, exec (.assign part slot root) s = .next t ∧ status t 1
      ∧ t = { s with tcmds := t.tcmds })
    ∧ (slotInPart s part slot = true → s.unit.cr.asidSlot ≠ slot →
      (∃ t, exec (.release part slot) s = .next t ∧ status t 0 ∧ purged t 0 (2 ^ 57) ∧ (∀ e, mget t.asids slot.toNat = some e → e.v = false))
      ∧ (∃ t, exec (.invalRange part slot va count) s = .next t ∧ status t 0
        ∧ purged t (va.toNat % 2 ^ 57 / 4096 * 4096) (4096 * count) ∧ t.asids = s.asids)
      ∧ (∃ t, exec (.invalAsid part slot) s = .next t ∧ status t 0 ∧ purged t 0 (2 ^ 57) ∧ t.asids = s.asids))
    ∧ (slotInPart s part slot = false → ∀ i ∈ [Instr.release part slot, .invalRange part slot va count, .invalAsid part slot],
      ∃ t, exec i s = .next t ∧ status t 1 ∧ t = { s with tcmds := t.tcmds })
    ∧ (slotInPart s part s.unit.cr.asidSlot = false → ∃ t, exec (.invalAll part) s = .next t ∧ status t 0
      ∧ (∀ e ∈ t.tlb, slotInPart s part e.slot = false) ∧ t.asids = s.asids)
    ∧ (∀ pa, Config.mainBytes < pa + 8 → exec (.twrite part pa va) s = .next { s with tcmds := s.tcmds ++ [⟨part, 0⟩] })
    ∧ (∀ pa, pa + 8 ≤ Config.mainBytes → ∃ t, exec (.twrite part pa va) s = .next t ∧ status t 0
      ∧ readBytes t.dram pa 8 = leBytes va.toNat 8
      ∧ (∀ q, q / 32 < pa / 32 ∨ (pa + 7) / 32 < q / 32 → readByte t.dram q = readByte s.dram q)
      ∧ (∀ q, q < pa ∨ pa + 8 ≤ q → (∀ x, mget s.dramKey (q / 32) = some x → x = keyOf s part) →
        readByte t.dram q = readByte s.dram q)
      ∧ t = { s with dram := t.dram, dramKey := t.dramKey, zeroing := t.zeroing, tcmds := t.tcmds })
    ∧ (parkAt s part h k = none → ∀ i ∈ [Instr.resume part h k, .abort part h k],
      ∃ t, exec i s = .next t ∧ status t 1 ∧ t = { s with tcmds := t.tcmds })
    ∧ (∀ p, parkAt s part h k = some p → recordHeld s p = true →
      exec (.resume part h k) s = .next { s with twait := s.twait ++ [(part, h, k, false)] }
      ∧ exec (.abort part h k) s = .next { s with twait := s.twait ++ [(part, h, k, true)] })
    ∧ (∀ p acc i, parkAt s part h k = some p → p.who = .access acc i → recordHeld s p = false →
      (let b := setHeld { s with parks := s.parks.erase p } acc p.slice p.index (.aborted p.code)
       exec (.abort part h k) s = .next { b with tpend := b.tpend ++ [⟨part, [], [], [acc]⟩] })
      ∧ ∀ s' place, locate { s with parks := s.parks.erase p } (parkWho { s with parks := s.parks.erase p } p) p.va p.kind false
          = (s', .ok place) →
        exec (.resume part h k) s = .next (tcmdStatus (setHeld s' acc p.slice p.index .waiting) part 0))
    ∧ (∀ b, waitingEnd s part = some (part, h, k, b) → exec (.translationCommandComplete part) s
      = exec (if b then .abort part h k else .resume part h k) { s with twait := s.twait.erase (part, h, k, b) })
    ∧ (∀ c, waitingEnd s part = none → s.tpend.find? (fun t => t.part == part && tcmdReady s t) = some c →
      exec (.translationCommandComplete part) s = .next { s with tpend := s.tpend.erase c, tcmds := s.tcmds ++ [⟨part, 0⟩] })

/-! ### The sequencer's own events, the engines and the feeders -/
/-- R13, R17, R30, R34, R58, R213, R299, R363, R371: a bundle that the framing refuses takes the trap of R17 in its slot; a bundle
all of whose slots are guarded off issues without an effect. R19, R31, R35, R59, R84, of a bundle of two slots: both read their
registers at issue, a local load reads the banks before the bundle's store, EA enters CQ0 before EB enters CQ1, and where one slot
traps or waits no slot takes effect. Every result that is due lands; the time base advances by one nanosecond, and each 1,000,000 ns
the dispatcher's tick comes next; a counted stall that has lasted longer than CR.BLOCKLIM is a trap with cause 0x1E; and the barrier
block puts the oldest release record into a plain ring with room. Logs 55, 64, 69 and 80 name the model's choices that it rests on.
-/
def Obligations.SequencerEvents : Prop :=
  ∀ (s : State),
    (mayIssue s = true → ∀ k e, framed s.unit = .error (k, e) → exec .bundleIssue s = .next (trapHere s k e.cause 0#12))
    ∧ (mayIssue s = true → ∀ b n, framed s.unit = .ok (b, n) →
      (∀ x ∈ b, ∃ g, x.instr.guard? = some g ∧ guardOn g (landDue s).unit = false) →
      ∃ t, exec .bundleIssue s = .next t ∧ Issued n (landDue s) t ∧ t.unit.landing = (landDue s).unit.landing
        ∧ t = sequenced (landDue s) t)
    ∧ (mayIssue s = true → ∀ x y n, framed s.unit = .ok ([x, y], n) →
      let u := (landDue s).unit
      let issues := fun (f : Machine.Unit → Machine.Unit) => ∃ t, exec .bundleIssue s = .next t ∧ Issued n (landDue s) t
        ∧ t.unit.landing = (f u).landing ∧ t = sequenced ((landDue s).mapUnit f) t
      (∀ d a b g v j e, x.instr = .add d a b g → y.instr = .vmovg v j e → guardOn g u = true →
        let w := gReg u (e.setWidth 6)
        ∃ bits data, issues (fun r => { r with landing := r.landing
            ++ [⟨r.cyc + 1, r.nextAcc, .g d (gReg u a + gReg u b), 0#6⟩, ⟨r.cyc + 2, r.nextAcc, .v v bits data, 0#6⟩] })
          ∧ ∀ k < 64, (lane bits k = if k / 2 = j.toNat then 2 ^ 32 - 1 else 0)
            ∧ (k / 2 = j.toNat → lane data k = w.toNat / 2 ^ (32 * (k % 2)) % 2 ^ 32))
      ∧ (∀ d a c z g xl v cv b m vz yl, x.instr = .stl d a c z g xl → y.instr = .vldl v cv b m vz yl → guardOn g u = true →
        let va := (addrOf u a xl).toNat
        let row := fun (k : Nat) => (addrOf u (b.setWidth 6) yl + BitVec.ofNat 64 (4 * k)).toNat
        va < 0x200000 → u.pad.banks.getLsbD (va / 0x20000) = true → va % 2 ^ z.toNat = 0 →
        (∀ k < 64, (mReg u m).getLsbD k = true →
          row k < 0x200000 ∧ u.pad.banks.getLsbD (row k / 0x20000) = true ∧ row k % 4 = 0) →
        ∃ bits data, issues (fun r => { r with
            pad := padPut r.pad va (leBytes (gReg u d).toNat (2 ^ z.toNat))
            landing := r.landing ++ [⟨r.cyc + 6, r.nextAcc, .v v bits data, 0#6⟩] })
          ∧ ∀ k < 64, (mReg u m).getLsbD k = true →
            lane bits k = 2 ^ 32 - 1 ∧ lane data k = leNat (readBytes u.pad.bytes (row k) 4))
      ∧ (∀ a b c g a' b' c' g', x.instr = .cpyL2l a b c g → y.instr = .cpyL2l a' b' c' g' → guardOn g u = true → guardOn g' u = true →
        let first := entered 0 (copyClass u.pad (gReg u a) (gReg u c)) (.cpyL2l (gReg u a) (gReg u b) (gReg u c))
        canEnqueue u 0 = true → canEnqueue (first u) 1 = true → l2lCauses u (gReg u a) (gReg u b) (gReg u c) = [] →
        l2lCauses (first u) (gReg u a') (gReg u b') (gReg u c') = [] →
        issues fun r => entered 1 (copyClass u.pad (gReg u a') (gReg u c')) (.cpyL2l (gReg u a') (gReg u b') (gReg u c')) (first r))
      ∧ (∀ d a b g q c g' r, x.instr = .add d a b g → guardOn g' u = true → hiddenRing u q = false → ringAt u.pad q = some r →
        r.reorder = false →
        (y.instr = .qcommit q c g' → r.dist r.tail r.rsv < c.toNat →
          exec .bundleIssue s = .next (trapHere s y.index 0x20 (q.setWidth 12)))
        ∧ (∀ e, y.instr = .qresv q e c g' → c.toNat ≤ r.n → mayProduce u r = true → r.room < c.toNat →
          exec .bundleIssue s = .next (stall s true))))
    ∧ exec .resultLand s = .next (landDue s)
    ∧ (∃ t, exec .timeTick s = .next t ∧ t = { s with time := s.time + 1, agenda := t.agenda }
      ∧ t.agenda = if (s.time + 1) % 1000000 = 0 then .schedulingTick :: s.agenda else s.agenda)
    ∧ (∀ since x, s.unit.run = .running → divertDue s = none → (landDue s).unit.cr.blocklim ≠ 0#32 → s.unit.ctx.since = some since →
      blockingSlot s = some x →
      ((landDue s).unit.cr.blocklim.toNat < s.time - since → exec .blockTimeout s = .next (trapHere s x.index 0x1E (blockCode x.instr)))
      ∧ (s.time - since ≤ (landDue s).unit.cr.blocklim.toNat → exec .blockTimeout s = .next s))
    ∧ (∀ q gen rest r, s.unit.run = .running → barrierAdvance s = s → s.unit.cr.cbarRecs = (q, gen) :: rest →
      ringAt s.unit.pad q = some r → r.reorder = false → r.held = 0#1024 → (shownRing s.unit q r).room ≠ 0 →
      r.head.toNat < r.wrap → r.tail.toNat < r.wrap → r.rsv.toNat < r.wrap → r.dist r.head r.tail ≤ r.dist r.head r.rsv →
      r.dist r.head r.rsv ≤ r.n →
      ∃ t, exec .barrierRecordCommit s = .next t ∧ t.unit.cr.cbarRecs = rest ∧ t.unit.g = s.unit.g ∧ t.dram = s.dram
        ∧ ringAt t.unit.pad q = some { r with rsv := r.adv r.rsv 1, tail := r.adv r.tail 1 }
        ∧ readBytes t.unit.pad.bytes (r.addr r.rsv) 8 = leBytes gen.toNat 8
        ∧ ∀ a, a < r.addr r.rsv ∨ r.addr r.rsv + 8 ≤ a → readByte t.unit.pad.bytes a = readByte s.unit.pad.bytes a)

/-- R206, R232, R236, R248, R249: a copy between local ranges at the head of its queue fires on its source ring when a slot is filled that
no other copy has taken; one without a ring begins. R151, R158, R237: one whose source leaves its banks completes with error 0x26, one
whose formats have no chain, whose rows break a block or whose ranges run through banks of unlike formats with 0x27; a begun copy performs,
writes its rows as its transform chain gives them, frees the slot of its source ring and leaves the queue with its NC entry given
back. A row whose format has no scales arrives byte for byte.
Logs 6, 35, 37, 71, 72 and 78 name the model's choices that it rests on: that the far range of an .L2L is tested as the copy begins, with
KIND 0x26, and that unlike formats give 0x27 (log 78), and the conversion's flags (logs 71 and 72). -/
def Obligations.LocalCopyBeginsAndPerforms : Prop :=
  ∀ (s : State) (cq1 : Bool) (e : QEntry) (near far ctl : W64),
    let i := bit01 cq1
    let o := localOp .l2l near far ctl
    let u := s.unit
    let sw := fun (src : Nat) => nth e.fmts.toList (src / Config.bankBytes) 0#64
    let head := fun (ev : Instr) (st : Stage) => exec ev s = .next (s.mapUnit fun u => setHead u i { e with stage := st })
    readyEntry u i = some e → e.cmd = .cpyL2l near far ctl → e.halt = .none → ldRing near = false →
    (∀ r, e.stage = .waiting → ldRing far = true → ringAt u.pad (ldQ far) = some r →
      let shown := shownRing u (ldQ far) r
      let taken := takenFrom u (ldQ far) shown
      (taken < shown.filled → head (.engineFire cq1) (.begun (shown.addr (shown.adv shown.head taken)) (ldAddr near) [] []))
      ∧ (shown.filled ≤ taken → exec (.engineFire cq1) s = .next s))
    ∧ (e.stage = .waiting → ldRing far = false →
      let a := sw (ldAddr far)
      let b := sw (ldAddr near)
      let fits := padOk u.pad.banks (ldAddr far) (spanOf a (ldPitch far) o.e0 o.e1 false) = true
      let fails := fun (kind : BitVec 8) =>
        ∃ t, exec (.copyBegin cq1) s = .next t ∧ t.unit.pad = u.pad ∧ t.unit.nc = u.nc - 1 ∧ queueOf t.unit i = (queueOf u i).tail
          ∧ t.unit.cr.qerr = u.cr.qerr ||| BitVec.ofNat 6 (2 ^ i) ∧ t.unit.g = u.g ∧ t.dram = s.dram
          ∧ t.unit.deferred = u.deferred ++ [⟨e.ord, 2, kind, 0#4, 0#64, none, 0⟩]
      let uniform := fun (at_ span : Nat) => ∀ k, at_ / Config.bankBytes ≤ k → k ≤ (at_ + span - 1) / Config.bankBytes →
        sw (k * Config.bankBytes) <<< 8 = sw at_ <<< 8
      let fit := chainOf a b o.t ≠ none ∧ localAligned a (ldAddr far) (ldPitch far) o.e0 o.e1 = true
        ∧ localAligned b (ldAddr near) (ldPitch near) o.dn o.dr = true
        ∧ uniform (ldAddr far) (spanOf a (ldPitch far) o.e0 o.e1 false) ∧ uniform (ldAddr near) (spanOf b (ldPitch near) o.dn o.dr true)
      (fits → fit → head (.copyBegin cq1) (.begun (ldAddr far) (ldAddr near) [] [0#64]))
      ∧ (¬fits → fails 0x26#8) ∧ (fits → ¬fit → fails 0x27#8))
    ∧ (∀ src dst, e.stage = .begun src dst [] [0#64] →
      let rows := localRows u.pad (sw src) src (ldPitch far) o.e0 o.e1
      let out := convertRows ((chainOf (sw src) (sw dst) o.t).getD .same) (sw src) (fmtOf (sw dst)) rows
      let pad := putRows u.pad (sw dst) dst (ldPitch near) (if o.t then transpose o.e0 out.1 else out.1)
      ∃ t, exec (.copyPerform cq1) s = .next t ∧ t.unit.nc = u.nc - 1 ∧ queueOf t.unit i = (queueOf u i).tail ∧ t.unit.g = u.g
        ∧ t.dram = s.dram ∧ t.llc = s.llc ∧ t.unit.deferred = u.deferred
        ∧ t.unit.pad = (if ldRing far then modRing pad (ldQ far) fun r =>
          r.freeAt (r.adv (BitVec.ofNat 16 ((src - r.base) / r.size)) 0) else pad)
        ∧ t.unit.cr = { u.cr with cpystat := u.cr.cpystat ||| (out.2.setWidth 64 &&& 0x1F#64) }
        ∧ (fmtOf (sw src) = fmtOf (sw dst) → metaBytes (sw dst) = 0 → o.e1 = 1 → o.t = false →
          ∀ a, readByte t.unit.pad.bytes a =
            if dst ≤ a ∧ a < dst + rowBytes (sw dst) o.e0 then readByte u.pad.bytes (src + (a - dst)) else readByte u.pad.bytes a))

/-- R176, R177, R240 to R242, R492: a feeder bound to a handle generates the fetch of its next panel while its hidden ring and its
queue have room; the slices that another core sends land in the buffers of the feeders that receive them, as far as there is room,
and those of a ring of this core one by one, its slot freed after the last, as it is where feeders of other cores alone take it; a
chunk whose check matches is written at its address, and one that does not match is refused, the second time for good; and a CPY.PE
whose chunk fails twice completes with KIND 0x28, after a push has sent a chunk once more. A binding that is due takes effect before
(log 80). Logs 18, 24, 33 and 36 name the model's choices that it rests on. -/
def Obligations.FeederAndPeerEvents : Prop :=
  ∀ (s : State) (north cq1 : Bool),
    let b := landBinds s
    let u := b.unit
    let f := feederOf u north
    let i := feederQueue north
    (∀ d0 d1 r, f.src = some (.handle d0 d1) → queueOf u i = [] → ringAt u.pad (BitVec.ofNat 6 (fld d0 16 6)) = some r → 0 < r.room →
      f.fetched < fld d0 32 32 → canDraw u u.nt 1 = true →
      ∃ t, exec (.feederPanelFetch north) s = .next t ∧ t.unit.nt = u.nt + 1 ∧ t.unit.pad = u.pad ∧ t.unit.g = u.g
        ∧ feederOf t.unit north = { f with fetched := f.fetched + 1 } ∧ t.dram = s.dram
        ∧ queueOf t.unit i = [⟨u.nextAcc, nth u.seqs.toList i 0#32, u.pc, BitVec.ofNat 4 (fld f.fmt 56 4),
          .panel north f.bind f.fetched d0 d1, u.pad.fmt.setIfInBounds (r.base / Config.bankBytes) f.fmt, .waiting, .none⟩])
    ∧ (∀ w xs, f.src = some (.mesh w) → meshMembers u north = [north] → meshSlotFor u w 1 = true → fld w 0 4 ≠ u.cr.lcore.toNat →
      f.landing.length < 4 →
      let got := xs.take (4 - f.landing.length)
      ∃ t, exec (.meshFlitInject north (.slices xs)) s = .next t
        ∧ t.unit = setFeeder u north { f with landing := f.landing ++ got, fetched := f.fetched + got.length }
        ∧ t = { b with unit := t.unit, peers := t.peers }
        ∧ (∀ c, c ≠ fld w 0 4 → mget t.peers c = mget b.peers c)
        ∧ mget t.peers (fld w 0 4) = (mget b.peers (fld w 0 4)).map fun p => modRing p (BitVec.ofNat 6 (fld w 4 6)) fun r =>
          r.free (min r.filled (slotsPassed f.fmt f.fetched got.length)))
    ∧ (∀ w xs x, f.src = some (.mesh w) → meshMembers u north = [north] → meshSlotFor u w 1 = true → fld w 0 4 = u.cr.lcore.toNat →
      f.landing.length < 4 → localFlit u w f = some x →
      let u1 := setFeeder u north { f with landing := f.landing ++ [x], fetched := f.fetched + 1 }
      exec (.meshFlitInject north (.slices xs)) s = .next { b with
        unit := if slotsPassed f.fmt f.fetched 1 = 1 then { u1 with pad := modRing u1.pad (BitVec.ofNat 6 (fld w 4 6)) fun r => r.free 1 }
          else u1 })
    ∧ (∀ q r, ringAt u.pad q = some r → (shownRing u q r).filled ≠ 0 → boundRing u u.mx.west ≠ some q.toNat →
      boundRing u u.mx.north ≠ some q.toNat →
      exec (.meshFlitInject north (.away q)) s
        = .next { b with unit := { u with pad := modRing u.pad q fun r => r.free 1 } })
    ∧ (∀ (c : Chunk) va pa key, mget s.pkg.resets c.part.toNat = none → crc32c c.payload = c.crc → c.land = 0#16 →
      c.dest = [(some va, c.payload.length)] → c.payload ≠ [] → va.toNat % 128 + c.payload.length ≤ 128 →
      let s0 := unholdChunk s c
      let h := homeOf s0 va.toNat pa
      locate s (chunkWho c) va 1 true = (s, .ok (.mem pa key false)) → locate s0 (chunkWho c) va 1 true = (s0, .ok (.mem pa key false)) →
      ∃ t b, exec (.peerChunkArrival c) s = .next t ∧ t.unit.g = s.unit.g ∧ t.unit.pad = s.unit.pad
        ∧ t.pkg = { s0.pkg with badChunks := s0.pkg.badChunks.filter (· != (c.src, c.seq, c.index)) }
        ∧ b = { splitGroups s0 h (pa / 128) with llc := b.llc, stamp := s0.stamp + 1 }
        ∧ t.llc = (makeRoom b h (pa / 4096)).llc ∧ t.dram = (makeRoom b h (pa / 4096)).dram
        ∧ (∀ j < c.payload.length, ∀ k, memByte b k (pa + j) = nth c.payload j 0#8)
        ∧ ∀ q, q < pa ∨ pa + c.payload.length ≤ q → ∀ k, memByte b k q = memByte s k q)
    ∧ (∀ (c : Chunk), (mget s.pkg.resets c.part.toNat).isSome = true ∨ crc32c c.payload ≠ c.crc →
      (s.pkg.badChunks.contains (c.src, c.seq, c.index) = false →
        ∃ t, exec (.peerChunkArrival c) s = .next t ∧ t.pkg.badChunks = (c.src, c.seq, c.index) :: s.pkg.badChunks
          ∧ t.pkg.landings = s.pkg.landings ∧ t.unit.g = s.unit.g)
      ∧ (s.pkg.badChunks.contains (c.src, c.seq, c.index) = true →
        ∃ t, exec (.peerChunkArrival c) s = .next t ∧ t.pkg.badChunks = s.pkg.badChunks.erase (c.src, c.seq, c.index)
          ∧ t.pkg.landings = s.pkg.landings.map fun l =>
            (l.1, l.2.1, l.2.2 || (l.1.part == c.part && l.1.index == c.land && c.land != 0#16))))
    ∧ (∀ e near far0 far1 ctl src dst w cs ws, readyEntry s.unit (bit01 cq1) = some e → e.cmd = .cpyPe near far0 far1 ctl →
      ldRing near = false →
      let fails := ∃ t, exec (.peerChunkFail cq1 true) s = .next t ∧ t.unit.nc = s.unit.nc - 1 ∧ t.unit.g = s.unit.g
        ∧ queueOf t.unit (bit01 cq1) = (queueOf s.unit (bit01 cq1)).tail
        ∧ t.unit.cr.qerr = s.unit.cr.qerr ||| BitVec.ofNat 6 (2 ^ bit01 cq1) ∧ t.unit.deferred = s.unit.deferred
        ∧ t.unit.pad.rings = s.unit.pad.rings ∧ (fbit ctl 57 = false → t.unit.pad = s.unit.pad)
      (fbit ctl 57 = false → e.stage = .sent src cs ws → fails ∧ (cs ≠ [] → ∃ c ∈ cs, exec (.peerChunkFail cq1 false) s
        = .next { s with freeCtr := s.freeCtr + 1
                         pkg := { s.pkg with outbox := s.pkg.outbox ++ [((peerOf s (Handle.of ws)).getD 0, c)] } }))
      ∧ (fbit ctl 57 = true → e.stage = .begun src dst [] (w :: ws) → fails ∧ exec (.peerChunkFail cq1 false) s = .next s))

/-- R220, R249, R418 to R420, R426 to R428, R430, R432: at the head of RQ, RASM configures its mortar table; RTCFG replaces its
route table by the words of its handle, or, where the handle is not in the object table, empties it and leaves a deferred trap; a
RRET whose header is not valid completes with KIND 0x3B, and the return of one that names this unit reaches its mortar table,
which discards and counts it where no round is open; the return of another unit leaves this one's tables alone, and waits while that
unit is not resident (R204). R419,
R422 to R425, R427, R428, R430, R431: a ROUTE whose table cannot hold its round completes with KIND 0x3A, and otherwise opens its
round with its ranks and packets as the assignments give them; the round obtains its output slot; a packet takes a ticket of its
ring, is written and filled, and its NT entry returns; a return lands in its rank's place, and a late or foreign one is discarded
and counted; a deadline that has come ends every pending rank; and a round with every row done and every packet out commits:
status block, slot, table and queue entry.
Log 46 names the model's choices that it rests on. -/
def Obligations.RouteTablesAndRounds : Prop :=
  (∀ (s : State) (e : QEntry) (a b : W64), readyEntry s.unit 4 = some e →
      let u := s.unit
      let left := fun (t : State) => t.unit.nc = u.nc - 1 ∧ t.unit.rq = u.rq.tail ∧ t.unit.g = u.g ∧ t.unit.pad = u.pad
      (e.cmd = .rasm a b → ∃ t, exec .rasmExec s = .next t ∧ left t ∧ t.dram = s.dram
        ∧ ∀ k : Fin 4, t.unit.rt.ra[k] = if k.val = fld a 40 2 then { u.rt.ra[k] with conf := some (a, b) } else u.rt.ra[k])
      ∧ (NoRounds u → e.cmd = .rtcfg a b → e.halt = .none → e.stage = .waiting →
        (u.cr.otlen.toNat ≤ fld a 0 16 → ∃ t, exec .rtcfgExec s = .next t ∧ left t ∧ t.dram = s.dram
          ∧ nth t.unit.rt.tables.toList (fld b 0 2) [] = [] ∧ t.unit.cr.qerr = u.cr.qerr ||| 16#6
          ∧ t.unit.deferred = u.deferred ++ [⟨e.ord, 2, 0x24#8, 0#4, 0#64, none, 0⟩])
        ∧ (∀ s1 s2 ws bs, readHandle s (unitWho u e.cls 3#2) (fld a 0 16) = (s1, some (.ok ws)) →
          let h := Handle.of ws
          let n := fld b 16 12 + 1
          h.ok = true → h.tgt = 0 → h.rights.testBit 3 = true → h.fault = false → h.fmt = 0xC → fld (nth ws 6 0#64) 1 2 = 0 →
          vread s1 (unitWho u e.cls 3#2) 0 (w64 h.base) (4 * min (nth h.dims 0 1) (4 * n)) = (s2, .ok bs) →
          ∃ t, exec .rtcfgExec s = .next t ∧ left t ∧ t.dram = s2.dram ∧ t.unit.deferred = u.deferred
            ∧ ∀ k < 4, nth t.unit.rt.tables.toList k [] = if k = fld b 0 2 then routeEntries n bs else nth u.rt.tables.toList k []))
      ∧ (NoRounds u → e.cmd = .rret a b → e.stage = .waiting →
        let at_ := fun (o n : Nat) => padRead u.pad (b.toNat + o) n
        let rlen := at_ 6 2
        let good := at_ 3 1 % 8 = 0 ∧ at_ 13 3 = 0 ∧ at_ 18 14 = 0 ∧ rlen % 4 = 0 ∧ 4 ≤ rlen ∧ rlen ≤ 4096
          ∧ at_ 8 4 < u.launch.units.toNat ∧ padOk u.pad.banks a.toNat rlen = true
        (¬good → ∃ t, exec .rretExec s = .next t ∧ left t ∧ t.unit.rt = u.rt ∧ t.unit.cr.qerr = u.cr.qerr ||| 16#6
          ∧ t.unit.deferred = u.deferred)
        ∧ (good → unitResident s (at_ 8 4) = true → at_ 8 4 = u.cr.unit.toNat → ∃ t, exec .rretExec s = .next t ∧ left t ∧ t.unit.cr = u.cr
          ∧ ∀ k : Fin 4, t.unit.rt.ra[k] =
            if k.val = at_ 3 1 / 16 % 4 then
              { u.rt.ra[k] with late := u.rt.ra[k].late + 1, lateSinceCommit := u.rt.ra[k].lateSinceCommit + 1 }
            else u.rt.ra[k])
        ∧ (good → unitResident s (at_ 8 4) = true → at_ 8 4 ≠ u.cr.unit.toNat →
          ∃ t, exec .rretExec s = .next t ∧ left t ∧ t.unit.rt = u.rt ∧ t.unit.cr = u.cr)
        ∧ (good → unitResident s (at_ 8 4) = false → ∃ t, exec .rretExec s = .next t ∧ t.unit.nc = u.nc ∧ t.unit.rt = u.rt
          ∧ t.unit.rq.length = u.rq.length ∧ t.unit.cr = u.cr ∧ t.unit.g = u.g ∧ t.unit.pad = u.pad)))
  ∧ (∀ (s : State) (n : Fin 4) (x y : W64), (s.unit.rt.ra[n]).conf = some (x, y) →
      let u := s.unit
      let own := u.cr.lcore.toNat
      let q := BitVec.ofNat 6 (fld x 32 6)
      let now := fun (t : State) => t.unit.rt.ra[n]
      let table := BitVec.ofNat 2 n.val
      let same := fun (t : State) => t.unit.g = u.g ∧ t.unit.p = u.p ∧ t.dram = s.dram ∧ t.llc = s.llc
        ∧ ∀ k : Fin 4, k ≠ n → t.unit.rt.ra[k] = u.rt.ra[k]
      (∀ e a b issued, NoRounds u → nextRoute u = some (0, e) → e.cmd = .route a b issued → routeTable b = n →
        qfenceHolds u 4 e.ord = false → (∀ f ∈ u.fences, fenceHoldsEntry u f e.ord = false) →
        (routeUsable u a b = false → ∃ t, exec .routeBegin s = .next t ∧ same t ∧ t.unit.pad = u.pad ∧ t.unit.nc = u.nc - 1
          ∧ t.unit.rq = u.rq.tail ∧ t.unit.cr.qerr = u.cr.qerr ||| 16#6 ∧ now t = now s)
        ∧ (routeUsable u a b = true → (∀ r, engRing s own q = some r → r.room = 0) →
          (fld y 0 32 = 0 ∨ s.time < issued.toNat + fld y 0 32) →
          ∃ t, exec .routeBegin s = .next t ∧ same t ∧ t.unit.pad = u.pad ∧ t.unit.nc = u.nc ∧ t.unit.nt = u.nt
            ∧ (t.unit.rq.head?.map (·.stage)) = some (.begun 0 0 [] [])
            ∧ ∃ r, (now t).open_ = some r ∧ r.ord = e.ord ∧ r.id = (now s).round ∧ r.nr = rtRows a ∧ r.slot = none
              ∧ r.ranks = (assignAll s a b).1 ∧ r.packets = (assignAll s a b).2
              ∧ r.tile = readBytes u.pad.bytes (fld a 0 21) (rtRows a * rtRin a)))
      ∧ (∀ r, (∀ k : Fin 4, k ≠ n → (u.rt.ra[k]).open_ = none) → (now s).open_ = some r →
        (r.deadline.any fun d => decide (d ≤ s.time)) = false →
        ((∀ i < r.nr, (nth r.ranks i []).any (·.st == .pending) = true) → r.rowsDone.all id = false → r.slot = none →
          ∀ rg, ringAt u.pad q = some rg → 1 ≤ (shownRing u q rg).room →
          ∃ t, exec .routeOqSlot s = .next t ∧ same t ∧ t.unit.nc = u.nc
            ∧ ((now t).open_.bind (·.slot)) = some (rg.addr rg.rsv, rg.rsv.toNat) ∧ ringAt t.unit.pad q = some (rg.reserve 1))
        ∧ ((∀ i < r.nr, (nth r.ranks i []).any (·.st == .pending) = true) → r.rowsDone.all id = false → r.slot.isSome = true →
          ∀ p rg, r.packets = [p] → p.drawn = true → p.core = own → ringAt u.pad p.q = some rg → rg.reorder = true →
          1 ≤ (shownRing u p.q rg).room → unitResident s (coreUnit u own) = true → (rg.reserve 1).canFill rg.rsv.toNat = true →
          let bytes := packetHeader u n r p (raRout y) ++ (r.tile.drop (r.rin * p.row)).take r.rin
          ∃ t, exec .routePacketFill s = .next t ∧ same t ∧ t.unit.nt = u.nt - 1 ∧ t.unit.nc = u.nc
            ∧ (now t).open_ = some { r with packets := [] } ∧ ringAt t.unit.pad p.q = some ((rg.reserve 1).fill rg.rsv)
            ∧ t.unit.pad.bytes = writeBytes u.pad.bytes (rg.addr rg.rsv) bytes)
        ∧ (r.slot = none → ∀ (round : W16) (row : BitVec 6) (rank : BitVec 2) (bytes : List Byte),
          (∀ k, (nth r.ranks row.toNat [])[rank.toNat]? = some k → k.st = .pending → r.id = round →
            let place := fld x 0 21 + raRout y * (4 * row.toNat + rank.toNat)
            ∃ t, exec (.returnAccept table round row rank bytes) s = .next t ∧ same t ∧ t.unit.nc = u.nc ∧ t.unit.rq = u.rq
              ∧ t.unit.pad = padPut u.pad place (bytes.take (raRout y)) ∧ (now t).late = (now s).late
              ∧ (now t).open_ = some { r with ranks := modAt r.ranks row.toNat fun l => modAt l rank.toNat fun _ =>
                { k with st := .returned, len := min bytes.length (raRout y) } })
          ∧ (r.id ≠ round ∨ (∀ k, (nth r.ranks row.toNat [])[rank.toNat]? = some k → k.st ≠ .pending) →
            ∃ t, exec (.returnAccept table round row rank bytes) s = .next t ∧ same t ∧ t.unit.pad = u.pad ∧ (now t).open_ = some r
              ∧ (now t).late = (now s).late + 1))
        ∧ (r.slot = none → exec (.routeTimeout table) s = .next s)
        ∧ (∀ out ix e rest rg, r.slot = some (out, ix) → r.packets = [] → (∀ i < r.nr, nth r.rowsDone i true = true) → r.rowsDone.all id = true →
          u.rq = e :: rest → e.ord = r.ord → ringAt u.pad q = some rg → rg.reorder = false →
          ∃ t, exec .routeOqSlot s = .next t ∧ same t ∧ t.unit.nc = u.nc - 1 ∧ t.unit.rq = rest
            ∧ ringAt t.unit.pad q = some rg.commitOne ∧ t.unit.pad.bytes = writeBytes u.pad.bytes out (statusBlock (now s) r)
            ∧ now t = { now s with open_ := none, round := (now s).round + 1, lateSinceCommit := 0 }))
      ∧ (∀ r d, (∀ k : Fin 4, k ≠ n → (u.rt.ra[k]).open_ = none) → (now s).open_ = some r → r.deadline = some d → d ≤ s.time →
        r.slot = none →
        ∃ t, exec (.routeTimeout table) s = .next t ∧ same t ∧ t.unit.pad = u.pad ∧ t.unit.nt = u.nt - (r.packets.filter (·.drawn)).length
          ∧ ∃ r', (now t).open_ = some r' ∧ r'.packets = [] ∧ r'.id = r.id
            ∧ r'.ranks = r.ranks.map fun row => row.map fun k =>
              if k.st = .pending then { k with st := .timedOut, spill := false } else k))

/-- R330, R331, R391, R392, R400, R401: a KVMAP that maps its one page takes a frame from the pool and gives its sixteen leaves
the frames and the rights of R330, and one that finds a leaf valid completes with KIND 0x2F and nothing changed; a KVTRUNC that
releases no page writes its record; and a KVADV that stops leaves memory as it was. R393 to R399: PNLOOK writes KEY and, where an
entry matches, its state, references and frame, else 0 or, where another block has that key, 2; PNINS makes a private page the
shared page of a free entry, or says that the block is there (4) or that there is no room (5); PNREL clears the leaves of a shared
page; a pantry is registered where its fields are legal; and a purge empties an entry.
Log 47 names the model's choices that it rests on. -/
def Obligations.KvAndPantryEvents : Prop :=
  (∀ (s : State) (e : QEntry) (a b : W64), readyEntry s.unit 5 = some e → e.halt = .none → e.stage = .waiting → kvWaits s = false →
      let u := s.unit
      let left := fun (t : State) => t.unit.nc = u.nc - 1 ∧ t.unit.kq = u.kq.tail ∧ t.unit.g = u.g ∧ t.unit.pad = u.pad
        ∧ t.unit.deferred = u.deferred
      let ends := fun (t : State) => left t ∧ t.unit.cr = u.cr
      let fails := fun (t : State) (kind : Nat) => left t ∧ t.unit.cr.qerr = u.cr.qerr ||| 32#6
        ∧ (u.cr.qerr.getLsbD 5 = false → fld t.unit.cr.kverr 32 16 = kind)
      let leaf := fun (t : State) (at_ i : Nat) => dramRead8 t (unitKey s) (at_ + 8 * i)
      (e.cmd = .kvmap a b → fld b 0 2 = 0 → fld b 16 16 = 0 → ∀ at_ ls, pageLeaves s a.toNat = .ok (at_, ls) →
        (at_ % 8 = 0 → at_ + 128 ≤ Config.mainBytes → (∀ x ∈ ls, x.getLsbD 0 = false) → ∀ s1 f, poolPop s = (s1, .ok f) →
          ∃ t, exec .kvmapExec s = .next t ∧ ends t ∧ t.llc = s1.llc ∧ ∀ i < 16, leaf t at_ i = w64 ((f + i) * 4096 + 0x13F))
        ∧ ((∃ x ∈ ls, x.getLsbD 0 = true) → ∃ t, exec .kvmapExec s = .next t ∧ fails t 0x2F ∧ t.dram = s.dram ∧ t.llc = s.llc))
      ∧ (e.cmd = .kvtrunc a b → ∀ s1 bs, kvRead s 0 a 64 = (s1, .ok bs) →
        let r := seqRec bs
        let n := fld b 0 32
        (seqOk s1 r = false ∨ r.ntok < n → ∃ t, exec .kvtruncExec s = .next t ∧ fails t 0x38 ∧ t.dram = s1.dram ∧ t.llc = s1.llc)
        ∧ (seqOk s1 r = true → n ≤ r.ntok → truncBad s1 r = none → r.npages = ceilDiv n r.block →
          ∀ s2, seqWrite s1 a n r.npages (if r.npages = 0 then 0 else n - r.block * (r.npages - 1)) = (s2, .ok ⟨⟩) →
          ∃ t, exec .kvtruncExec s = .next t ∧ ends t ∧ t.dram = s2.dram ∧ t.llc = s2.llc))
      ∧ (e.cmd = .kvadv a b → ∀ s1 bs, kvRead s 2 a 64 = (s1, .ok bs) →
        ((windowOf s1 bs).ok = false → ∃ t, exec .kvadvExec s = .next t ∧ fails t 0x37 ∧ t.dram = s1.dram ∧ t.llc = s1.llc)
        ∧ (∀ s2 kind, (windowOf s1 bs).ok = true → advance s1 a (fbit b 0) (windowOf s1 bs) = (s2, .error (.err kind)) → kind < 2 ^ 16 →
          ∃ t, exec .kvadvExec s = .next t ∧ fails t kind ∧ t.dram = s1.dram ∧ t.llc = s1.llc)
        ∧ (∀ s2, (windowOf s1 bs).ok = true → advance s1 a (fbit b 0) (windowOf s1 bs) = (s2, .ok ⟨⟩) →
          ∃ t, exec .kvadvExec s = .next t ∧ t.dram = s2.dram ∧ t.llc = s2.llc ∧ ends t)))
  ∧ (∀ (s : State),
      let u := s.unit
      (∀ e x y z p, readyEntry u 5 = some e → e.halt = .none → e.stage = .waiting → kvWaits s = false →
        pantryOf s (fld z 0 4) = some p → (blockRec u.pad y.toNat).ok = true →
        let r := blockRec u.pad y.toNat
        let key := blockKey r
        let bk := pnBucket p key
        let left := fun (t : State) => t.unit.nc = u.nc - 1 ∧ t.unit.kq = u.kq.tail ∧ t.unit.g = u.g ∧ t.unit.cr = u.cr
          ∧ readBytes t.unit.pad.bytes (y.toNat + 32) key.length = key
        let out := fun (t : State) (o n : Nat) => padRead t.unit.pad (y.toNat + o) n
        (e.cmd = .pnlook x y z → pnFind s p bk (fun v => pnMatches v r key) = none →
          ∃ t, exec .pnlookExec s = .next t ∧ left t ∧ t.dram = s.dram ∧ out t 48 2 = 0 ∧ out t 56 8 = 0
            ∧ out t 5 1 = if (pnFind s p bk fun v => v.state == 1 && v.key == key).isSome then 2 else 0)
        ∧ (∀ i v, e.cmd = .pnlook x y z → x = 0#64 → pnFind s p bk (fun v => pnMatches v r key) = some (i, v) →
          ∃ t, exec .pnlookExec s = .next t ∧ left t ∧ t.dram = s.dram ∧ out t 5 1 = 1 ∧ out t 48 2 = v.refs ∧ out t 56 8 = v.frame)
        ∧ (∀ at_ ls, e.cmd = .pnins x y z → pageLeaves s x.toNat = .ok (at_, ls) → (∀ l ∈ ls, l.getLsbD 0 = true ∧ l.getLsbD 10 = false) →
          ((pnFind s p bk fun v => pnMatches v r key).isSome = true →
            ∃ t, exec .pninsExec s = .next t ∧ left t ∧ t.dram = s.dram ∧ out t 5 1 = 4)
          ∧ (pnFind s p bk (fun v => pnMatches v r key) = none → pnFind s p bk (fun v => v.state == 0) = none →
            pnFind s p bk (fun v => v.refs == 0) = none → ∃ t, exec .pninsExec s = .next t ∧ left t ∧ t.dram = s.dram ∧ out t 5 1 = 5)
          ∧ (∀ i v, pnFind s p bk (fun v => pnMatches v r key) = none → pnFind s p bk (fun v => v.state == 0) = some (i, v) →
            at_ % 8 = 0 → at_ + 128 ≤ Config.mainBytes →
            ∃ t, exec .pninsExec s = .next t ∧ left t ∧ out t 5 1 = 3 ∧ out t 48 2 = 1 ∧ out t 56 8 = leafFrame (nth ls 0 0#64)
              ∧ ∀ k < 16, dramRead8 t (unitKey s) (at_ + 8 * k) = (nth ls k 0#64 ||| 0x400#64) &&& ~~~0x88#64)))
      ∧ (∀ e a b p at_ ls, readyEntry u 5 = some e → e.halt = .none → e.stage = .waiting → kvWaits s = false → e.cmd = .pnrel a b →
        fld b 16 16 = 0 → pantryOf s (fld b 0 4) = some p → pageLeaves s a.toNat = .ok (at_, ls) →
        (∀ l ∈ ls, l.getLsbD 0 = true ∧ l.getLsbD 10 = true) → at_ % 8 = 0 → at_ + 128 ≤ Config.mainBytes →
        let w := backWord s p (leafFrame (nth ls 0 0#64))
        w ≠ 0 → (pnRead s p ((w - 1) / 8) ((w - 1) % 8)).refs ≠ 0 →
        ∃ t, exec .pnrelExec s = .next t ∧ t.unit.nc = u.nc - 1 ∧ t.unit.kq = u.kq.tail ∧ t.unit.cr = u.cr ∧ t.unit.g = u.g
          ∧ ∀ k < 16, dramRead8 t (unitKey s) (at_ + 8 * k) = 0#64)
      ∧ (∀ (part n : BitVec 4) buckets log2n backmap, buckets + 2560 * 2 ^ log2n ≤ Config.mainBytes →
        backmap + backBytes ≤ Config.mainBytes → buckets % 4096 = 0 → 6 ≤ log2n → log2n ≤ 24 →
        ∃ t, exec (.pantryRegister part n buckets log2n backmap) s = .next t ∧ t = { s with pantries := t.pantries }
          ∧ mget t.pantries (16 * part.toNat + n.toNat) = some ⟨buckets, log2n, backmap⟩)
      ∧ (∀ (part n : BitVec 4) bucket entry p, mget s.pantries (16 * part.toNat + n.toNat) = some p → entry < 8 → bucket < 2 ^ p.log2n →
        ∃ t, exec (.pantryPurge part n bucket entry) s = .next t ∧ t.unit = u ∧ t.llc = s.llc
          ∧ readBytes t.dram (pnAddr p bucket entry) 320 = List.replicate 320 0#8))

/-! ### Frame rings, the latent decoder and the encoder -/
/-- R461 to R464, R467, R476: a frame ring whose fields are legal and whose span is pinned for the partition is registered with free
slots, and one already there is left alone; it is unregistered where nothing names it; a reset frees its slots and lets waiting
tiles complete with KIND 0x3D; and a tile fires once its threshold of input slots that no other copy has taken is filled, is taken
into its frame's slot or completes with error, and frees its input slots; a tile of a unit on another core goes into its slot as
well. R470 to R473: BIND takes a session where the rate allows, ONE waits for the frame at FHEAD, and UNBIND, which reads no record,
ends the session; a BIND or ONE whose session record is not legal completes with KIND 0x3F, as does an UNBIND of a frame ring that
is not there; the encoder takes the next complete frame in round-robin order, reads it whole, and the record of that frame, once it
fits into the bitstream ring, frees the frame and moves FHEAD on. Logs 12, 48, 49 and 88 name the model's choices that it rests on.
-/
def Obligations.FrameRingsAndEncoder : Prop :=
  (∀ (s : State) (fr : BitVec 6),
      (∀ (r : FrameRingReg), (frameRegOk r = false ∨ (frameRing s r.fr).isSome = true → exec (.frameRingRegister r) s = .next s)
        ∧ (∀ f s1 bs, frameRegOk r = true → frameRing s r.fr = none → (∀ p < frSpan r / 4096, pinnedAt s r p = some (f p)) →
          vread s (regWho s r.slot) 0 r.affine 384 = (s1, .ok bs) →
          ∃ t, exec (.frameRingRegister r) s = .next t ∧ t.unit.g = s.unit.g ∧ t.unit.pad = s.unit.pad
            ∧ ∃ x, frameRing t r.fr = some x ∧ x.reg = r ∧ x.fhead = r.fhead0 ∧ x.slots = List.replicate r.nslot ⟨0, 0#32, 0, []⟩
              ∧ x.pages = (upto 0 (frSpan r / 4096)).map f ∧ x.scale.length + x.offs.length = (chunks 4 96 bs).length))
      ∧ ((∀ x ∈ s.enc.bound, x.fr ≠ fr) → (∀ b, s.enc.busy = some b → b.ses.fr ≠ fr) → (∀ x ∈ s.enc.ones, x.fr ≠ fr) →
        (∀ e ∈ s.unit.kq, cmdFrame e.cmd ≠ some fr) →
        exec (.frameRingUnregister fr) s = .next { s with frames := mdel s.frames fr.toNat })
      ∧ ((∃ x ∈ s.enc.bound, x.fr = fr) ∨ (∃ e ∈ s.unit.kq, cmdFrame e.cmd = some fr) →
        exec (.frameRingUnregister fr) s = .next s)
      ∧ (∀ r fhead, frameRing s fr = some r → (∀ x ∈ s.enc.ones, x.fr ≠ fr) →
        ∃ t, exec (.frameRingReset fr fhead) s = .next t ∧ t.unit.g = s.unit.g ∧ t.unit.pad = s.unit.pad
          ∧ mget t.frames r.reg.fr.toNat = some { r with slots := List.replicate r.reg.nslot ⟨0, 0#32, 0, []⟩, fhead := fhead }
          ∧ t.unit.kq.length = s.unit.kq.length
          ∧ ∀ e ∈ s.unit.kq, ∀ a b c, e.cmd = .pxtile a b c → e.stage = .waiting → BitVec.ofNat 6 (fld b 24 6) = fr →
            { e with stage := .fired 1 } ∈ t.unit.kq)
      ∧ (∀ e a b c ring, readyEntry s.unit 5 = some e → e.cmd = .pxtile a b c →
        ringAt s.unit.pad (BitVec.ofNat 6 (fld a 0 6)) = some ring → e.stage = .waiting →
        let w := fun r : FrameRing => regWho s r.reg.slot
        let u := s.unit
        let q := BitVec.ofNat 6 (fld a 0 6)
        let fn := w32 (fld b 32 32)
        let tile := (fld b 0 6, fld b 8 6)
        let shown := shownRing u q ring
        let taken := takenFrom u q shown
        let left := fun (t : State) => t.unit.nc = u.nc - 1 ∧ t.unit.kq = u.kq.tail ∧ t.unit.g = u.g
          ∧ ringAt t.unit.pad q = some ((upto 0 ring.thr).foldl (fun r i => r.freeAt (r.adv (shown.adv shown.head taken) i)) ring)
          ∧ t.unit.pad.bytes = u.pad.bytes
        (shown.filled < taken + ring.thr → exec .pxtileFire s = .next s)
        ∧ (∀ code va, taken + ring.thr ≤ shown.filled → e.halt = .aborted code va → ∃ t, exec .pxtileFire s = .next t ∧ left t
          ∧ t.unit.cr.qerr = u.cr.qerr ||| 32#6 ∧ t.frames = s.frames ∧ t.llc = s.llc ∧ t.dram = s.dram)
        ∧ (∀ h k, e.halt = .parked h k → exec .pxtileFire s = .next s)
        ∧ (taken + ring.thr ≤ shown.filled → e.halt = .none →
          (frameRing s (BitVec.ofNat 6 (fld b 24 6)) = none →
            ∃ t, exec .pxtileFire s = .next t ∧ left t ∧ t.unit.cr.qerr = u.cr.qerr ||| 32#6 ∧ t.llc = s.llc ∧ t.dram = s.dram)
          ∧ (∀ r, frameRing s (BitVec.ofNat 6 (fld b 24 6)) = some r → r.reg.part = u.cr.part →
            (r.admits fn = false → r.stale fn = false → exec .pxtileFire s = .next s)
            ∧ (r.admits fn = true → 64 * tile.1 < r.reg.w → 64 * tile.2 < r.reg.h →
              (r.slotOf fn).taken.contains tile = false → (r.slotOf fn).st < 2 →
              ∀ s1, vcheck s (w r) 1 (tileRanges r.reg fn tile.1 tile.2) = (s1, .ok ⟨⟩) →
              ∃ t, exec .pxtileFire s = .next t ∧ left t ∧ t.unit.cr = u.cr
                ∧ mget t.frames r.reg.fr.toNat = some (r.setSlot fn
                  ⟨if (r.slotOf fn).tiles + 1 = frTiles r.reg then 2 else 1, fn, (r.slotOf fn).tiles + 1, tile :: (r.slotOf fn).taken⟩))))
      ∧ (∀ part cluster b c xs ys r s1, frameRing s (BitVec.ofNat 6 (fld b 24 6)) = some r → r.reg.part = part →
        let fn := w32 (fld b 32 32)
        let tile := (fld b 0 6, fld b 8 6)
        r.admits fn = true → 64 * tile.1 < r.reg.w → 64 * tile.2 < r.reg.h → (r.slotOf fn).taken.contains tile = false →
        (r.slotOf fn).st < 2 → vcheck s (regWho s r.reg.slot) 1 (tileRanges r.reg fn tile.1 tile.2) = (s1, .ok ⟨⟩) →
        ∃ t, exec (.clusterStopDelivery (.tile part cluster b c xs ys)) s = .next t ∧ t.unit = { s.unit with l1 := t.unit.l1 }
          ∧ mget t.frames r.reg.fr.toNat = some (r.setSlot fn
            ⟨if (r.slotOf fn).tiles + 1 = frTiles r.reg then 2 else 1, fn, (r.slotOf fn).tiles + 1, tile :: (r.slotOf fn).taken⟩))))
  ∧ (∀ (s : State),
      (∀ op e a b s1 bs, encHead s op = some (e, a, b) → e.halt = .none → e.stage = .waiting →
        vread s (kvWho s.unit) 0 a 64 = (s1, .ok bs) →
        let u := s.unit
        let fr := BitVec.ofNat 6 (fld b 24 6)
        let left := fun (t : State) => t.unit.nc = u.nc - 1 ∧ t.unit.kq = u.kq.tail ∧ t.unit.g = u.g ∧ t.unit.pad = u.pad ∧ t.dram = s1.dram
        let ev : Nat → Instr := fun op => if op = 0 then .encfrmBind else .encfrmOne
        (op < 2 → (frameRing s fr = none ∨ (sessionRec bs).ok = false) →
          ∃ t, exec (ev op) s = .next t ∧ left t ∧ t.unit.cr.qerr = u.cr.qerr ||| 32#6 ∧ t.enc = s.enc)
        ∧ (∀ r, frameRing s fr = some r → r.reg.part = u.cr.part → (sessionRec bs).ok = true →
          let ses := fun fn => sessionOf s1 r a fn (sessionRec bs)
          (op = 0 → (∀ x ∈ s.enc.bound, x.fr ≠ r.reg.fr) → s.enc.bound.length < 4 →
            (rateSum (ses 0#32 :: s.enc.bound)).1 ≤ 497664000 * (rateSum (ses 0#32 :: s.enc.bound)).2 →
            ∃ t, exec .encfrmBind s = .next t ∧ left t ∧ t.unit.cr = u.cr
              ∧ t.enc = { s.enc with bound := s.enc.bound ++ [ses 0#32], turn := s.enc.turn ++ [r.reg.fr] })
          ∧ (op = 1 → (∀ x ∈ s.enc.bound, x.fr ≠ r.reg.fr) → w32 (fld b 32 32) = r.fhead →
            ∃ t, exec .encfrmOne s = .next t ∧ t.unit.nc = u.nc ∧ t.unit.g = u.g ∧ t.unit.pad = u.pad ∧ t.unit.cr = u.cr
              ∧ t.unit.kq = { e with stage := .begun 0 0 [] [] } :: u.kq.tail
              ∧ t.enc = { s.enc with ones := s.enc.ones ++ [ses (w32 (fld b 32 32))], turn := s.enc.turn ++ [r.reg.fr] })))
      ∧ (∀ e a b, encHead s 2 = some (e, a, b) → e.stage = .waiting →
        let u := s.unit
        let fr := BitVec.ofNat 6 (fld b 24 6)
        let left := fun (t : State) => t.unit.nc = u.nc - 1 ∧ t.unit.kq = u.kq.tail ∧ t.unit.g = u.g ∧ t.unit.pad = u.pad ∧ t.dram = s.dram
        (frameRing s fr = none →
          ∃ t, exec .encfrmUnbind s = .next t ∧ left t ∧ t.unit.cr.qerr = u.cr.qerr ||| 32#6 ∧ t.enc = s.enc)
        ∧ (∀ r, frameRing s fr = some r → r.reg.part = u.cr.part → (∃ x ∈ s.enc.bound, x.fr = fr) →
          (∀ b, s.enc.busy = some b → b.ses.fr ≠ fr) →
          ∃ t, exec .encfrmUnbind s = .next t ∧ left t ∧ t.unit.cr = u.cr
            ∧ t.enc = { s.enc with bound := s.enc.bound.filter (·.fr != fr), turn := s.enc.turn.erase fr }))
      ∧ (∀ fr x fn one r, s.enc.busy = none → s.enc.turn.find? (fun y => (encNext s y).isSome) = some fr →
        encNext s fr = some (x, fn, one) → frameRing s fr = some r →
        ∃ t, exec (.encoderTakeFrame fr) s = .next t ∧ t.enc.busy = some ⟨x, fn, one, s.time, .none⟩ ∧ t.enc.bound = s.enc.bound
          ∧ mget t.frames r.reg.fr.toNat = some (r.setSlot fn { r.slotOf fn with st := 3 })
          ∧ t.unit = { s.unit with l1 := t.unit.l1 })
      ∧ (∀ b fr payload s1 s2 s3 bs px r, s.enc.busy = some b → b.ses.fr = fr → b.halt = .none → b.one = false →
        let w := edgeWho b.ses.slot b.ses.gen
        vread s w 0 b.ses.rec_ 64 = (s1, .ok bs) →
        let x := sessionRec bs
        let size := 16 + ceilDiv payload 16 * 16
        let used := (x.wptr + 2 ^ 64 - x.rptr) % 2 ^ 64
        (size ≤ x.outlen → x.outlen < used + size → exec (.bitstreamRecordWrite fr payload) s = .next s1)
        ∧ (used + size ≤ x.outlen → frameRing s fr = some r → frameRead s1 r.reg b.fn = (s2, .ok px) →
          vcheck s2 w 1 ((wrapRuns x.outbase x.outlen x.wptr (List.replicate size 0#8)).map (fun y => (y.1, y.2.length))
            ++ [(b.ses.rec_ + 40, 8), (b.ses.rec_ + 56, 5)]) = (s3, .ok ⟨⟩) → r.reg.fr = fr →
          (r.slotOf b.fn).st = 3 → (r.slotOf b.fn).fn = b.fn →
          let from_ := codedFrom r.reg x (x.key b.fn) (coderKept s b.ses x) px
          ∃ t, exec (.bitstreamRecordWrite fr payload) s = .next t ∧ t.enc = { (keepCoder s b.ses from_).enc with busy := none }
            ∧ t.unit.g = s.unit.g
            ∧ t.unit.pad = s.unit.pad
            ∧ frameRing t fr = some { r.setSlot b.fn ⟨0, 0#32, 0, []⟩ with fhead := r.fhead + 1 })))

/-! ### The dispatcher -/
/-- R337, R340, R341, R343, R357: a graph of one launch submitted for an open session without a graph takes the next graph number;
a valid launch waits with every gang of it, an invalid one is reported with STATUS 2 and the lowest DETAIL, and so is its graph; a
graph for a job that is not open is refused. A job is created with the fields of its record, once for a number in use; a closed
job without a graph completes, with its record. R352, R364 to R372: the graph of a stream's phase is made of the launch records of
its current rung, each phase-bound and of the job's phase, once it is due; a tick at which every gang has its place, or no gang
may yield to one that has none, changes nothing but the marks of readiness; and a gang that must yield is asked to. Where a step of the
dispatcher makes a gang ready, complete or saved, or ends a graph, it is a scheduling point as a tick is (R371).
Logs 39, 45 and 67 name the model's choices that it rests on. -/
def Obligations.JobsGraphsAndStreams : Prop :=
  (∀ (s : State),
      (∀ (part : BitVec 4) (job : W32) l j, mget s.jobs (jobKey part job) = some j → j.graphs = [] → j.r.stream = false → j.open_ = true →
        j.done = false → j.r.part = part → j.r.job = job →
        let l' := lrSetPhase l (max (lrPhase l) j.phase.toNat)
        let d := launchDetail s j 0 l'
        (d = 0 → (∀ im, mget s.images (lrImage l') = some im → im.handles = []) →
          ∃ t j' x, exec (.graphSubmit part job [l]) s = .next (point s t) ∧ t.unit = s.unit ∧ t.dram = s.dram ∧ t.order = s.order + 1
            ∧ mget t.jobs (jobKey part job) = some j' ∧ j'.nextSeq = j.nextSeq + 1 ∧ j'.held = j.held
            ∧ j'.graphsOut = j.graphsOut + 1#32 ∧ j'.launchesOut = j.launchesOut + 1#32
            ∧ j'.graphs = [⟨j.nextSeq, [x], false, none⟩] ∧ x.rec_ = l' ∧ x.status = none ∧ x.order = s.order ∧ ∀ y ∈ x.gangs, y.st = .waiting)
        ∧ (d ≠ 0 → (∀ c ∈ s.text.ctxs, ¬(c.part = part ∧ c.job = job)) →
          ∃ t j', exec (.graphSubmit part job [l]) s = .next (point s t) ∧ t.unit = s.unit ∧ mget t.jobs (jobKey part job) = some j'
            ∧ j'.graphsOut = j.graphsOut ∧ j'.launchesOut = j.launchesOut ∧ j'.graphs.map (·.done) = [true]
            ∧ j'.held = j.held ++ [⟨job, j.nextSeq, 0#8, 1#8, 2#8, BitVec.ofNat 8 d, 0#8, j.phase, 0#64, s.time⟩,
              ⟨job, j.nextSeq, 0xFF#8, 2#8, 2#8, 0#8, 0#8, j.phase, 0#64, s.time⟩]))
      ∧ (∀ (part : BitVec 4) (job : W32) ls j, mget s.jobs (jobKey part job) = some j → j.open_ = false ∨ ls = [] ∨ 64 < ls.length →
        exec (.graphSubmit part job ls) s = .next s)
      ∧ (∀ (r : JobRec), (∀ j, mget s.jobs (jobKey r.part r.job) = some j → j.done = true) → (mget s.pkg.parts r.part.toNat).isSome = true →
        r.ladder = 0#64 → r.rung = 0#3 → r.stream = false →
        ∃ t j, exec (.jobCreate r) s = .next t ∧ t = { s with jobs := t.jobs } ∧ mget t.jobs (jobKey r.part r.job) = some j ∧ j.r = r
          ∧ j.open_ = true ∧ j.phase = 0#32 ∧ j.created = s.time ∧ j.drawBase = r.drawBase ∧ j.graphs = [] ∧ j.held = [] ∧ j.done = false)
      ∧ (∀ (r : JobRec) j, mget s.jobs (jobKey r.part r.job) = some j → j.done = false → exec (.jobCreate r) s = .next s)
      ∧ (∀ (part : BitVec 4) (job : W32) j, mget s.jobs (jobKey part job) = some j → j.graphs = [] → j.done = false → j.failed = false →
        ∃ t j', exec (.jobClose part job) s = .next (point s t) ∧ t.unit = s.unit ∧ t.dram = s.dram ∧ mget t.jobs (jobKey part job) = some j'
          ∧ j'.done = true ∧ j'.open_ = false
          ∧ ∃ seq, j'.held = j.held ++ [⟨j.r.job, seq, 0xFF#8, 4#8, j.status, 0#8, 0#8, j.phase, 0#64, s.time⟩]))
  ∧ (∀ (s : State),
      (∀ (part : BitVec 4) (job : W32) j due, mget s.jobs (jobKey part job) = some j → j.due = some due →
        (s.time < due → exec (.streamGraphInstantiate part job) s = .next s)
        ∧ (due ≤ s.time → j.open_ = true → (∀ p ∈ s.parks, p.who ≠ .ladder (jobKey part job)) →
          exec (.streamGraphInstantiate part job) s
            = .next (point s (settle (boundary (instantiate s (jobKey part job)) (jobKey part job)) (jobKey part job)))
          ∧ ∀ s1 s2 va count cscale bs, rungEntry s j j.rung.toNat (.ladder (jobKey part job)) = (s1, some (va, count, cscale)) →
            vread s1 (jobWho j) 0 va (128 * count) = (s2, .ok bs) →
            ∃ j' g, mget (instantiate s (jobKey part job)).jobs (jobKey part job) = some j' ∧ j'.due = none ∧ j'.nextSeq = j.nextSeq + 1
              ∧ j'.graphs.getLast? = some g ∧ g.seq = j.nextSeq ∧ g.launches.length = count
              ∧ ∀ x ∈ g.launches, lrPhase x.rec_ = j.phase.toNat ∧ lrPhb x.rec_ = true ∧ x.rung = j.rung ∧ x.cscale = cscale))
      ∧ (let m := markReady s
        let waited := fun part => (stuckGangs m part).findSome? (waiterFor m part)
        ((∀ p ∈ s.pkg.parts, ∀ x, firstStuck m p.2.part = some x → victimFor m p.2.part x = none ∧ waited p.2.part = none) →
          exec .schedulingTick s = .next m)
        ∧ ∀ p x y at_, s.pkg.parts = [p] → firstStuck m p.2.part = some x →
        victimFor m p.2.part x = some y ∨ victimFor m p.2.part x = none ∧ waited p.2.part = some y →
        y.g.st = .running at_ → ownGang s y.key y.seq y.launch y.gang = true → s.unit.run = .running →
        ∃ t, exec .schedulingTick s = .next t ∧ t.unit = { s.unit with request := some s.unit.cyc } ∧ t.cores = s.cores)
      ∧ (∀ t, workView s ≠ workView t → exec .schedulingTick t = .next (point s t)))

/-- R47, R48, R53, R121, R153, R337, R341, R371: a ready gang that nothing before it in the order can displace is placed, its cores
are taken, and the unit on the modelled core starts, a saved unit there being set aside: program counter at its entry, arguments in
G1 to G8, every other register and every byte of its banks zero; R342: the slot tables of its image stand in the routers of the
cores where it is placed. Logs 1, 43 and 52 name the model's choices that it rests on. -/
def Obligations.GangStartsItsUnits : Prop :=
  ∀ (s : State) (l : LaunchId) (gang : Nat) (at_ : Placement) (x : GangRef) (j : Job),
    let m := markReady s
    gangRef m l gang = some x → mget m.jobs (idKey l) = some j → launchOf m l = some x.l → x.g.st = .waiting → mayPlace m l.part x = true →
    admits m l.part x.l gang m.cores at_ = true →
    ∃ t, exec (.gangStart l gang at_) s = .next (afterPlacing t x) ∧ t.dram = s.dram ∧ t.time = s.time
      ∧ (firstStuck (markReady t) x.part = none → exec (.gangStart l gang at_) s = .next (markReady t))
      ∧ t.cores = s.cores ++ (placedCores x.l.rec_ at_).filterMap id
      ∧ (((launchOf t l).bind fun y => y.gangs[gang]?).map (·.st)) = some (.running at_)
      ∧ (∀ c im, s.unit.run = .none ∨ s.unit.run = .saved → modelledCore s.here x.l.rec_ at_ = some c →
        mget s.images (lrImage x.l.rec_) = some im →
        let u := t.unit
        t.aside = s.aside ++ (if s.unit.run = .saved then [⟨s.unit, s.peers, s.area, s.inbound, s.pkg.heldChunks.filter (chunkHere m)⟩] else [])
        ∧ u.launch.routers = physSlots x.l.rec_ at_ im.slots ∧ u.run = .running ∧ u.pc = im.entry.setWidth 19
        ∧ (∀ r : BitVec 6, gReg u r = if 1 ≤ r.toNat ∧ r.toNat ≤ 8 then lrWord x.l.rec_ (7 + r.toNat) else 0#64)
        ∧ (∀ r : BitVec 3, r ≠ 0#3 → pReg u r = false ∧ mReg u r = 0#64) ∧ (∀ r, vReg u r = 0#2048)
        ∧ u.pad.bytes = [] ∧ u.pad.banks = lrBanks x.l.rec_ ∧ u.loops = .empty ∧ u.landing = [] ∧ u.accs = []
        ∧ u.cr.lcore = BitVec.ofNat 4 c ∧ u.cr.rung = x.l.rung ∧ u.cr.blocklim = 0#32 ∧ u.cr.fflags = 0#6)

/-- R80, R346, R357 to R360: the unit that has exited and whose operations have performed completes, and with it its launch and graph, whose
records are held for the completion ring; a cancel of a launch that has not started completes it with STATUS 1; a TRIGGER whose release has
performed marks its unit; and a record is written once its slot of the ring is free. R383: with no such record to write, the oldest
unit-event record of the partition goes to EVRING, under the partition's first slot (log 66).
Logs 41, 44, 59 and 66 name the model's choices that it rests on. -/
def Obligations.UnitsAndLaunchesComplete : Prop :=
  ∀ (s : State) (l : LaunchId) (j : Job) (x : Launch) (g : Gang),
    let u := s.unit
    let key := idKey l
    let own := jobKey u.cr.part u.cr.job = key ∧ u.launch.graph = l.graph ∧ u.launch.launch = l.launch
    let records := fun (st : Byte) =>
      [(⟨j.r.job, l.graph, 0#8, 1#8, st, 0#8, 0#8, j.phase, 0#64, s.time⟩ : CompRecord),
        ⟨j.r.job, l.graph, 0xFF#8, 2#8, st, 0#8, 0#8, j.phase, 0#64, s.time⟩]
    (∀ at_ unit st d, OnlyLaunch s l j x g → g.st = .running at_ → own → u.run = .exited → u.launch.gang = 0 → u.cr.unit = unit →
      u.launch.nr = 1 → u.launch.nc = 1 → u.cr.lcore = 0#4 → u.cr.cbarPend = false → u.cr.cbarPeers = 0#16 → unitQuiet u = true →
      u.accs = [] → u.triggers = [] → u.deferred = [] →
      ∃ t j', exec (.unitComplete l unit st d) s = .next (point s t) ∧ t.unit.run = .completed ∧ t.unit.g = u.g ∧ t.unit.pad = u.pad
        ∧ t.cores = s.cores.filter (fun c => some c != placedCore x.rec_ at_ 0)
        ∧ mget t.jobs key = some j' ∧ j'.graphs.map (·.done) = [true] ∧ j'.held = j.held ++ records 0#8)
    ∧ (OnlyLaunch s l j x g → g.st = .waiting →
      ∃ t j', exec (.cancel (.launch l)) s = .next (point s t) ∧ t.unit.g = u.g ∧ t.unit.run = u.run ∧ t.cores = s.cores
        ∧ mget t.jobs key = some j' ∧ j'.graphs.map (·.done) = [true] ∧ j'.held = j.held ++ records 1#8)
    ∧ (∀ t0, launchOf s l = some x → ownUnit s l u.cr.unit = true → lrPaired x.rec_ = false →
      (u.triggers.find? fun t => u.accs.all fun a => decide (t ≤ a.id) || a.performed) = some t0 →
      ∃ t, exec (.triggerMark l u.cr.unit) s = .next t ∧ t.unit = { u with triggers := u.triggers.erase t0 } ∧ t = { s with unit := t.unit, jobs := t.jobs }
        ∧ ((launchOf t l).map fun y => (unitInfo y (unitKeyOf x u.launch.gang (coreRank u.launch.nc u.cr.lcore.toNat))).triggered) = some true)
    ∧ (∀ r rest s1 bs, mget s.jobs key = some j → j.held = r :: rest → j.halt = .none →
      let at_ := j.r.compRing + w64 (32 * j.compTail.toNat)
      vread s (jobWho j) 0 (at_ + 7) 1 = (s1, .ok bs) →
      (bs ≠ [0#8] → exec (.completionRecordWrite l.part l.job) s = .next s1)
      ∧ (∀ s2, bs = [0#8] → vcheck s1 (jobWho j) 1 [(at_, 32)] = (s2, .ok ⟨⟩) →
        ∃ t, exec (.completionRecordWrite l.part l.job) s = .next t ∧ t.unit = u ∧ t.time = s.time
          ∧ t.llc = (vwrite s2 (jobWho j) false at_
            (recordBytes r (if r.level = 3#8 ∨ r.level = 5#8 then r.phase else j.phase))).1.llc
          ∧ mget t.jobs key = some { j with held := rest, compTail := w32 ((j.compTail.toNat + 1) % j.r.compLen.toNat) }))
    ∧ (∀ d a ev rest, (∀ j, mget s.jobs key = some j → j.held = []) → mget s.pkg.parts l.part.toNat = some d → d.part = l.part →
      asidOf s (BitVec.ofNat 12 d.asidBase) = some a → a.v = true → mget s.ringPos l.part.toNat = none →
      s.events.filter (fun e => e.part == l.part) = ev :: rest →
      ∃ t, exec (.completionRecordWrite l.part l.job) s = .next t ∧ t.unit.g = u.g ∧ mget t.ringPos l.part.toNat = some 1
        ∧ t.llc = (vwrite s (edgeWho (BitVec.ofNat 12 d.asidBase) a.gen) false d.evRing (eventBytes ev)).1.llc)

/-! ### Pre-emption, freeze and resume -/
/-- R195, R374 to R379, R383: a request at a covered bundle diverts the unit to its stub with its results in flight kept as a
snapshot; the regions of the context area are written at CR.CTXBASE as they stand; the save half's end saves the context and frees the
core once nothing is in progress; a request that finds no stub in
time becomes a freeze; a stub that runs too long is a trap with cause 0x33; and a debugger halt freezes the unit before its next
bundle, writes its context and a unit-event record. R275, R373, R377, R381, R382, R384: a frozen unit is resumed at SAVEPC with
its snapshot re-landing and with the registers that system software has rewritten; one whose SAVEPC was given no word of the store
takes cause 0x12; one that is resumed while its gang is off its core goes on once the gang is placed again; and a saved gang is placed
again, its unit in the restore half with its banks and rings back. Where a block timeout meets the request its trap serves both (R383).
Logs 22, 51, 52 and 53 name the model's choices that it rests on. -/
def Obligations.PreemptFreezeAndResume : Prop :=
  (∀ (s : State),
      let u := s.unit
      (∀ stub, divertDue s = some stub →
        ∃ t a, exec .drainDivert s = .next t ∧ t.area = some a ∧ a.savepc = u.pc ∧ a.snapshot = snapshotOf u ∧ a.scalar = scalarOf u
          ∧ a.before = u.nextAcc ∧ a.resumed = none
          ∧ t.unit = { u with
              landing := [], pc := stub, stub := some u.cyc, stubpc := none, ctx := .start
              cr := { u.cr with savepc := u.pc, pending := true, restore := false } }
          ∧ t = { s with area := t.area, unit := t.unit })
      ∧ (divertDue s = none → exec .drainDivert s = .next s)
      ∧ (∀ a, s.area = some a → areaStale s = true → exec .contextSave s
        = .next ((areaRegions s (liveArea u a)).foldl (fun s r => edgeWriteL1 s (unitWho u 15#4 3#2) true none (u.cr.ctxbase + w64 r.1) r.2)
          { s with areaMem := some (u.cr.ctxbase, liveArea u a) }))
      ∧ (∀ a, u.run = .yielded → s.area = some a → unitQuiet u = true → areaStale s = false →
        ∃ t, exec .contextSave s = .next (point s t) ∧ t.unit = { u with run := .saved, request := none, stubpc := none } ∧ t.dram = s.dram
          ∧ t.area = some { a with
            kind := 1, reason := 0, banks := u.cr.livebanks, time := s.time, issued := u.cr.issued, rings := u.pad.rings, mx := u.mx
            stubpc := none, pad := bankBytes u.pad.bytes u.cr.livebanks })
      ∧ (unitQuiet u = false → areaStale s = false → exec .contextSave s = .next s)
      ∧ (requested u = true → divertDue s = none → u.ctx.since.isSome = true ∨ (∃ r, u.request = some r ∧ Config.fallbackCycles ≤ u.cyc - r) →
        (timeoutTrap s = none → exec .preemptFallback s = .next (freeze s .preempt u.pc))
        ∧ ∀ t, timeoutTrap s = some t → exec .preemptFallback s = .next t)
      ∧ (requested u = false → exec .preemptFallback s = .next s)
      ∧ (∀ c, u.run = .running → u.cr.pending = true → u.stub = some c → Config.stubCycles ≤ u.cyc - c →
        ∃ t, exec .stubOverrun s = .next t ∧ t.unit.run = .frozen .trap ∧ t.unit.pc = u.pc ∧ t.unit.stubpc = some u.pc ∧ t.unit.g = u.g
          ∧ fld t.unit.cr.faultinfo 0 8 = 0x33 ∧ fld t.unit.cr.faultinfo 32 19 = u.pc.toNat ∧ t.unit.landing = u.landing)
      ∧ (u.run = .running → u.cr.pending = false →
        ∃ t a, exec .debugHalt s = .next t ∧ t.area = some a ∧ a.savepc = u.pc ∧ a.scalar = scalarOf u ∧ a.snapshot = snapshotOf u ∧ a.v = u.v
          ∧ a.kind = 2 ∧ a.reason = 2 ∧ a.pad = u.pad.bytes
          ∧ t.unit = { u with run := .frozen .halt, landing := [], cr := { u.cr with savepc := u.pc }, ctx := { u.ctx with tried := false, since := none } }
          ∧ t.events = s.events ++ [⟨u.cr.part, u.cr.job, u.cr.unit, u.cr.lcore, 2, u.cr.faultinfo, u.cr.ctxbase⟩]))
  ∧ (∀ (s : State),
      let u := s.unit
      (∀ why a ws, u.run = .frozen why → s.area = some a → u.stubpc = none →
        (ws = [] → ∃ t, exec (.unitResume ws) s = .next t ∧ t.unit.run = .running ∧ t.unit.pc = u.cr.savepc ∧ t.unit.g = u.g ∧ t.unit.v = u.v
          ∧ t.unit.landing = relandFrom u a.snapshot ∧ t.unit.pad = u.pad ∧ t.unit.cr = u.cr ∧ t.dram = s.dram
          ∧ t.unit.l1bound = Vector.replicate 16 s.stamp)
        ∧ (∀ r v, ws = [.g r v] → ∃ t, exec (.unitResume ws) s = .next t ∧ t.unit.run = .running
          ∧ ∀ k, gReg t.unit k = if k = r ∧ r ≠ 0#6 then v else gReg u k)
        ∧ (∀ v : W64, ws = [.savepc v] → v.toNat < 524288 → v.toNat % 4 = 0 → ∃ t, exec (.unitResume ws) s = .next t ∧ t.unit.run = .running
          ∧ t.unit.pc = v.setWidth 19 ∧ t.unit.g = u.g)
        ∧ (∀ v : W64, ws = [.savepc v] → ¬(v.toNat < 524288 ∧ v.toNat % 4 = 0) → u.cr.pending = false →
          ∃ t, exec (.unitResume ws) s = .next t ∧ t.unit.run = .frozen .trap ∧ fld t.unit.cr.faultinfo 0 8 = 0x12 ∧ t.unit.g = u.g))
      ∧ (∀ a, u.run = .saved → s.area = some a → a.kind = 2 → a.resumed = none →
        exec (.unitResume []) s = .next { s with area := some { a with resumed := some true } })
      ∧ (∀ a b, u.run = .running → s.aside = [b] → b.unit.run = .saved → b.area = some a → a.kind = 2 → a.resumed = none →
        exec (.unitResume []) s = .next { s with aside := [{ b with area := some { a with resumed := some true } }] })
      ∧ (∀ l gang at_ x a c, let m := markReady s; gangRef m l gang = some x → x.g.st = .saved → mayPlace m l.part x = true →
        admits m l.part x.l gang m.cores at_ = true → ownGang s (idKey l) l.graph l.launch gang = true → u.run = .saved →
        s.area = some a → placedCore x.l.rec_ at_ u.cr.lcore.toNat = some c → (∀ z ∈ s.aside, z.of l gang = false) →
        ∃ t, exec (.gangResume l gang at_) s = .next (afterPlacing t x) ∧ t.unit.launch.routers = physSlots x.l.rec_ at_ u.launch.slots
          ∧ t.cores = s.cores ++ coresOf x at_ ∧ t.unit.cr.cluster = c.1 ∧ t.unit.cr.pcore = c.2
          ∧ t.dram = s.dram
          ∧ (a.kind = 1 → t.unit.run = .running ∧ t.unit.cr.restore = true ∧ t.unit.pad.bytes = a.pad ∧ t.unit.pad.rings = a.rings
            ∧ t.unit.v = Vector.replicate 32 0#2048 ∧ t.unit.landing = [] ∧ t.unit.loops.depth = 0)
          ∧ (a.kind = 2 → a.resumed = some true → u.stubpc = none → t.unit.run = .running ∧ t.unit.pc = u.cr.savepc)
          ∧ (a.kind = 2 → a.reason ≠ 3 → a.resumed = none → t.unit.run = .frozen (freezeReason a.reason) ∧ t.unit.g = u.g)))

/-! ### The text engines -/
/-- R405, R441 to R448: an idle tokeniser takes the request chosen among those that may come next and makes its tokens; its next
slot is written to the ring of a resident unit that permits it, with its count, END flag and position, as far as the slot holds, and
waits while the ring has no room; a vocabulary image that is legal is loaded into a free slot within the pin quota and measured, and
is unloaded once no request block names it. R449 to R459: a context takes the head slot of its ring and frees it, and sends what its
tokens pass; a request that is not valid is answered with its status, and a valid one becomes a job with its context and place in
the queue, made from the job record that its template names; a template whose rings serve is registered; and a session whose flow
fails ends without a reply, its job cancelled. What completes thereby does so in the same step. Logs 43, 45, 50, 57, 68 and 81 name
the model's choices that it rests on: which request is taken among several (log 45), that a tokeniser waits at a ring without its
permission (log 81), and which bytes of a vocabulary are measured and in what order (logs 57 and 68). -/
def Obligations.TextEngineEvents : Prop :=
  (∀ (s : State) (engine : BitVec 3) (slot part : BitVec 4) (asid : BitVec 12) (va : W64),
      let e : Tokeniser := s.text.toks[engine.toNat]'engine.isLt
      (∀ r v, e.req = none → (nextRequests s)[Config.tokChoice s.freeCtr % (nextRequests s).length]? = some r →
        mget s.text.vocabs r.vocab.toNat = some v →
        ∃ t, exec (.tokenise engine) s = .next t ∧ t.unit = s.unit ∧ t.text.queue = s.text.queue.erase r
          ∧ t.text.toks[engine.toNat]'engine.isLt = ⟨some r, bodyTokens v r.special r.body, 0, false, r.replay.map fun _ => 0⟩
          ∧ t = { s with
            freeCtr := t.freeCtr, text := { s.text with queue := t.text.queue, toks := t.text.toks, shares := sharesAfter s r } })
      ∧ (∀ r ring, e.req = some r → e.ended = false → ringCore s r.part r.job r.inRing.unit = some s.unit.cr.lcore.toNat →
        ringAt s.unit.pad r.inRing.q = some ring → ring.reorder = false →
        (ring.perm.testBit 20 = false → exec (.tokeniserSlotCommit engine) s = .next s)
        ∧ (ring.perm.testBit 20 = true →
        let cap := (ring.size - 8) / 4
        let now := e.tokens.take cap
        let rest := e.tokens.drop cap
        ((shownRing s.unit r.inRing.q ring).room = 0 → exec (.tokeniserSlotCommit engine) s = .next s)
        ∧ ((shownRing s.unit r.inRing.q ring).room ≠ 0 →
          ∃ t, exec (.tokeniserSlotCommit engine) s = .next t ∧ t.unit.g = s.unit.g ∧ t.dram = s.dram
            ∧ ringAt t.unit.pad r.inRing.q = some (ring.reserve 1).commitOne
            ∧ t.unit.pad.bytes = writeBytes s.unit.pad.bytes (ring.addr ring.rsv)
              (leBytes now.length 2 ++ leBytes (bit01 rest.isEmpty) 1 ++ leBytes 0 1 ++ leBytes e.pos 4 ++ now.flatMap fun v => leBytes v.toNat 4)
            ∧ t.text.toks[engine.toNat]'engine.isLt = if rest = [] ∧ e.rpos = none then .idle
              else { e with tokens := rest, pos := e.pos + now.length, ended := rest.isEmpty })))
      ∧ (mget s.text.vocabs slot.toNat ≠ none → exec (.vocabLoad slot part asid va) s = .next s)
      ∧ (∀ s1 s2 head ms tb sp pool v, mget s.text.vocabs slot.toNat = none →
        vread s (regWho s asid) 0 va vocabHeadBytes = (s1, .ok head) → (vocabHead head).ok = true →
        readRanges s1 (regWho s asid) [(va + w64 (vocabHead head).mergeoff, 16 * (vocabHead head).nmerge),
          (va + w64 (vocabHead head).tboff, 8 * (vocabHead head).ntok), (va + w64 (vocabHead head).specoff, 72 * (vocabHead head).nspec),
          (va + w64 (vocabHead head).pooloff, (vocabHead head).poollen)] = (s2, .ok [ms, tb, sp, pool]) →
        parseVocab part head ms tb sp pool = some v → pinnedBytes s part + v.bytes ≤ pinQuota s part →
        ∃ t, exec (.vocabLoad slot part asid va) s = .next t ∧ t.unit = s.unit ∧ t.dram = s2.dram
          ∧ mget t.text.vocabs slot.toNat = some v
          ∧ nth t.pkg.meas.toList 2 0#512 = digestWord (sha3_512 (leBytes (nth s.pkg.meas.toList 2 0#512).toNat 64
            ++ sha3_512 (head ++ ms ++ tb ++ sp ++ pool))))
      ∧ ((∀ b ∈ s.text.blocks, b.vocab ≠ slot) →
        exec (.vocabUnload slot) s = .next { s with text := { s.text with vocabs := mdel s.text.vocabs slot.toNat } })
      ∧ ((∃ b ∈ s.text.blocks, b.vocab = slot) → exec (.vocabUnload slot) s = .next s))
  ∧ (∀ (s : State),
      (∀ ctx c ring v, s.text.ctxs[ctx]? = some c → c.ended = false → ringCore s c.part c.job c.ring.unit = some s.unit.cr.lcore.toNat →
        ringAt s.unit.pad c.ring.q = some ring → ring.cons = 1 → mget s.text.vocabs c.vocab.toNat = some v →
        let shown := shownRing s.unit c.ring.q ring
        let x := shown.adv shown.head (takenFrom s.unit c.ring.q shown)
        takenFrom s.unit c.ring.q shown < shown.filled →
        let a := ring.addr x
        let count := padRead s.unit.pad a 2
        let r := ((upto 0 count).map fun i => w32 (padRead s.unit.pad (a + 8 + 4 * i) 4)).foldl (detokStep v) (c, [], none)
        count ≤ (ring.size - 8) / 4 → r.2.2 = none → padRead s.unit.pad (a + 2) 1 % 2 = 0 →
        ∃ t, exec (.detokeniseSlot ctx) s = .next (point s (settle t (jobKey c.part c.job))) ∧ t.unit.g = s.unit.g
          ∧ ringAt t.unit.pad c.ring.q = some (ring.freeAt (ring.adv x 0)) ∧ t.unit.pad.bytes = s.unit.pad.bytes
          ∧ t.text.replies = s.text.replies
            ++ if r.2.1 = [] then [] else [⟨r.1.flow, replyBytes r.1.session false 0 r.1.seq r.2.1⟩])
      ∧ (∀ (part : BitVec 4) flow record, requestStatus s part record ≠ 0 →
        exec (.mirotRequest part flow record) s = .next (sendReply s flow
          (replyBytes (w64 (byteField record 16 8)) true (requestStatus s part record) 0 [])))
      ∧ (∀ (part : BitVec 4) flow record tm s1 bytes, requestStatus s part record = 0 →
        (s.text.templates.find? fun t => t.part == part && t.template.toNat == byteField record 24 2) = some tm →
        vread s (regWho s tm.slot) 0 tm.jobRec 128 = (s1, .ok bytes) →
        let num := freshJob s1 part
        let key := jobKey part num
        ∃ t j c q, (exec (.mirotRequest part flow record) s = .next t
            ∨ exec (.mirotRequest part flow record) s
              = .next (point t (settle (submit t key (templateGraph t key) j.rung 256) key)))
          ∧ mget t.jobs key = some j ∧ j.open_ = true ∧ j.r.drawKey = w64 (byteField record 40 8) ∧ j.created = s.time ∧ j.r.stream = false
          ∧ j.r.kvBase = w64 (byteField bytes 16 8) ∧ j.r.compRing = w64 (byteField bytes 40 8)
          ∧ t.text.ctxs = s.text.ctxs ++ [c] ∧ c.flow = flow ∧ c.session = w64 (byteField record 16 8) ∧ c.job = num
          ∧ t.text.queue = s.text.queue ++ [q] ∧ q.body = (record.drop 200).take (byteField record 68 4) ∧ q.job = num
          ∧ t.text.replies = s.text.replies ∧ t.unit = s.unit)
      ∧ (∀ (t : TemplateReg), t.graph.length ≤ 64 → templateRing s t t.inRing (fun r => r.perm.testBit 20) = true →
        templateRing s t t.rpRing (fun r => r.perm.testBit 20) = true → templateRing s t t.outRing (fun r => r.cons == 1) = true →
        exec (.templateRegister t) s = .next { s with text := { s.text with
          templates := s.text.templates.filter (fun o => !(o.part == t.part && o.template == t.template)) ++ [t] } })
      ∧ (∀ (part : BitVec 4) flow, (∀ b ∈ s.text.blocks, ¬(b.part = part ∧ b.flow = flow)) →
        exec (.uetFlowFail part flow) s = .next s)
      ∧ (∀ b flow j, s.text.blocks = [b] → b.flow = flow → mget s.jobs (jobKey b.part b.job) = some j → j.graphs = [] →
        j.done = false → j.r.part = b.part → j.r.job = b.job →
        ∃ t j', exec (.uetFlowFail b.part flow) s = .next (point s t) ∧ t.text.replies = s.text.replies
          ∧ mget t.jobs (jobKey b.part b.job) = some j' ∧ j'.done = true ∧ j'.open_ = false))

/-! ### Partitions, pins, links and the package -/
/-- R280, R484, R487, R488, R492, R493: a partition whose descriptor is legal and fits is created whole, with a fresh key; a change
is made whole or not at all; a reset of a partition without an open job invalidates its slots, drops its pins, gives it a fresh key
and is acknowledged; a range is pinned whole, reading zero, and unpinned; and landings and endpoints are registered. Logs 56 and 61
name the model's choices that it rests on. -/
def Obligations.PartitionsAndPins : Prop :=
  ∀ (s : State) (part : BitVec 4),
    (∀ (d : PartDesc), d.part = part → s.pkg.boot = .running →
      (mget s.pkg.parts part.toNat = none → descLimits d = true → descFits s d = true →
        ∃ t, exec (.partitionCreate d) s = .next t ∧ t.unit = s.unit ∧ t.dram = s.dram ∧ t.llc = s.llc
          ∧ t.pkg.parts = mset s.pkg.parts part.toNat d ∧ mget t.pkg.keys part.toNat = some s.pkg.nextKey
          ∧ t.pkg.nextKey = s.pkg.nextKey + 1)
      ∧ (mget s.pkg.parts part.toNat ≠ none ∨ descLimits d = false ∨ descFits s d = false → exec (.partitionCreate d) s = .next s))
    ∧ (∀ (d o : PartDesc), d.part = part → mget s.pkg.parts part.toNat = some o →
      let moved := o.clusters ≠ d.clusters ∨ o.asidBase ≠ d.asidBase ∨ o.asidCount ≠ d.asidCount
      (descLimits d = true → descFits s d = true → (moved → hasOpenJob s part = false) →
        exec (.partitionChange d) s = .next { s with pkg := { s.pkg with parts := mset s.pkg.parts part.toNat d } })
      ∧ (descLimits d = false ∨ descFits s d = false ∨ (moved ∧ hasOpenJob s part = true) → exec (.partitionChange d) s = .next s))
    ∧ (∀ o, mget s.pkg.parts part.toNat = some o → mget s.pkg.resets part.toNat = none → hasOpenJob s part = false → encodes s part = false →
      ∃ t, exec (.partitionReset part) s = .next t ∧ t.unit.g = s.unit.g ∧ t.pkg.acks = s.pkg.acks ++ [part]
        ∧ mget t.pkg.resets part.toNat = none ∧ mget t.pkg.keys part.toNat = some s.pkg.nextKey ∧ t.pkg.parts = s.pkg.parts
        ∧ (∀ f, mget t.pinned f ≠ some part) ∧ (∀ c ∈ t.text.ctxs, c.part ≠ part) ∧ (∀ e ∈ t.frames, e.2.reg.part ≠ part)
        ∧ ∀ (slot : BitVec 12) a, slotInPart s part slot = true → mget t.asids slot.toNat = some a → a.v = false)
    ∧ (mget s.pkg.parts part.toNat = none → exec (.partitionReset part) s = .next s)
    ∧ (∀ pa bytes, let fs := framesOf pa bytes
      (fs ≠ [] → (∀ f ∈ fs, f < Config.mainFrames ∧ mget s.pinned f = none) → pinnedBytes s part + 4096 * fs.length ≤ pinQuota s part →
        (∀ h : BitVec 6, pinnedAtSlice { s with pinned := fs.foldl (fun m f => mset m f part) s.pinned } h ≤ 16384) →
        ∃ t, exec (.pinRange part pa bytes) s = .next t ∧ t.unit = s.unit ∧ t.pkg = s.pkg
          ∧ (∀ f, mget t.pinned f = if f ∈ fs then some part else mget s.pinned f)
          ∧ ∀ q, q / 4096 ∈ fs → llcByte t q = some 0#8)
      ∧ ((∃ f ∈ fs, Config.mainFrames ≤ f ∨ mget s.pinned f ≠ none) ∨ pinQuota s part < pinnedBytes s part + 4096 * fs.length →
        exec (.pinRange part pa bytes) s = .next s)
      ∧ ∃ t, exec (.unpinRange part pa bytes) s = .next t ∧ t.unit = s.unit ∧ t.dram = s.dram
        ∧ ∀ f, mget t.pinned f = if f ∈ fs ∧ mget s.pinned f = some part then none else mget s.pinned f)
    ∧ (∀ (l : LandingReg), l.index ≠ 0#16 → exec (.landingRegister l) s = .next { s with pkg := { s.pkg with
      landings := s.pkg.landings.filter (fun x => !(x.1.part == l.part && x.1.index == l.index)) ++ [(l, 0, false)] } })
    ∧ (∀ (epid : W16) peer, exec (.endpointTableWrite part epid peer) s = .next { s with pkg := { s.pkg with
      endpoints := s.pkg.endpoints.filter (fun e => !(e.1 == part && e.2.1 == epid)) ++ [(part, epid, peer)] } })

/-- R323, R489, R491, R494 to R497: the boot ROM runs a firmware that verifies, and measures it, and otherwise stays in recovery; a
report holds the nonce, the measurements and its signature; a legal power limit is taken; a thermal trip stops issue; links go down
and up; a domain is formed with this package in it, and left; a machine check is recorded, raises its vector and cancels its job,
and its sector's bytes are lost; one whose error is known already has no second record; corrected errors are counted; and without
main power the state is that of reset. Logs 57, 58, 68, 89 and 91 name the model's choices that it rests on: the bytes that a
measurement hashes (logs 57 and 68), how long an error stays (log 89), and ML-DSA-87 as FIPS 204 gives it (log 91). -/
def Obligations.PackageEvents : Prop :=
  ∀ (s : State),
    let k := s.pkg
    (∀ firmware version signature,
      (k.boot = .off → ∃ t, exec (.boot firmware version signature) s = .next t ∧ t = { s with pkg := t.pkg }
        ∧ ((firmwareOk firmware signature = true ∧ Config.fusedVersion ≤ version) →
          t.pkg = { k with boot := .running, meas := t.pkg.meas }
          ∧ t.pkg.meas.toList = digestWord (sha3_512 (leBytes (nth k.meas.toList 0 0#512).toNat 64 ++ sha3_512 firmware)) :: k.meas.toList.tail)
        ∧ (¬(firmwareOk firmware signature = true ∧ Config.fusedVersion ≤ version) → t.pkg = { k with boot := .recovery }))
      ∧ (k.boot ≠ .off → exec (.boot firmware version signature) s = .next s))
    ∧ (∀ (nonce : BitVec 512) (part : BitVec 4) d, k.boot = .running → mget k.parts part.toNat = some d →
      ∃ t body rest, exec (.attestationRequest nonce part) s = .next t ∧ t = { s with pkg := { k with reports := t.pkg.reports } }
        ∧ t.pkg.reports = k.reports ++ [body ++ Config.attestSign body]
        ∧ body = leBytes nonce.toNat 64 ++ (k.meas.toList.flatMap fun m => leBytes m.toNat 64) ++ rest)
    ∧ (∀ watts, (k.boot = .running → 600 ≤ watts → watts ≤ 1400 →
        exec (.powerLimitSet watts) s = .next { s with pkg := { k with power := watts } })
      ∧ (k.boot ≠ .running ∨ watts < 600 ∨ 1400 < watts → exec (.powerLimitSet watts) s = .next s))
    ∧ (∃ t, exec .thermalTrip s = .next t ∧ t.pkg.tripped = true ∧ mayIssue t = false)
    ∧ exec .linkDown s = .next { s with pkg := { k with link := false } }
    ∧ exec .linkUp s = .next { s with pkg := { k with link := true } }
    ∧ (∀ (self : BitVec 5) (members : BitVec 32),
      (members.getLsbD self.toNat = true → exec (.domainForm self members) s = .next { s with pkg := { k with number := self, members := members } })
      ∧ (members.getLsbD self.toNat = false → exec (.domainForm self members) s = .next s))
    ∧ (∀ (n : BitVec 5), ∃ t, exec (.packageLeaveDomain n) s = .next t ∧ t.unit.g = s.unit.g ∧ t.dram = s.dram
      ∧ (n = k.number → t.pkg = { k with number := 0#5, members := 0#32 })
      ∧ (n ≠ k.number → (∀ i : BitVec 5, t.pkg.members.getLsbD i.toNat = (k.members.getLsbD i.toNat && i != n))
        ∧ ∀ p ∈ t.unit.posted, p.package ≠ n.toNat))
    ∧ (∀ src (addr : W64) (place : W16) job,
      let known := (mcSector src addr).any s.bad.contains
      let lost := match mcSector src addr with
        | some i => if s.bad.contains i then s.bad else s.bad ++ [i]
        | none => s.bad
      let marked := fun (p : Option (BitVec 4)) => { s with
        bad := lost, owed := s.owed.filter fun o => some (some o.1, some o.2.1, o.2.2) != some (p, job, fld addr 5 47) }
      exec (.machineCheck src none addr place job) s = .next { marked none with pkg := { k with logged := k.logged + 1 } }
      ∧ (∀ p, mget k.resets p.toNat = none → mcJob s src place job = none → known = false →
        exec (.machineCheck src (some p) addr place job) s = .next { marked (some p) with pkg := { k with
          mchecks := k.mchecks ++ [⟨p, mcAddr src addr, mcCode src, place, 0#64, s.time⟩], sentIrq := k.sentIrq ++ [(p, Config.mcVector)] } })
      ∧ (∀ p, mcJob s src place job = none → known = true →
        exec (.machineCheck src (some p) addr place job) s = .next (marked (some p)))
      ∧ (∀ p n j, mget k.resets p.toNat = none → mcJob s src place job = some n → mget s.jobs (jobKey p n) = some j → known = false →
        let t := { marked (some p) with pkg := { k with
          mchecks := k.mchecks ++ [⟨p, mcAddr src addr, mcCode src, place, w64 (p.toNat * 2 ^ 60 + n.toNat), s.time⟩]
          sentIrq := k.sentIrq ++ [(p, Config.mcVector)] } }
        exec (.machineCheck src (some p) addr place job) s = .next (point t (settle (cancelJob t (jobKey p n) 5#8) (jobKey p n)))))
    ∧ (∀ src, ∃ t, exec (.correctedError src) s = .next t ∧ t = { s with pkg := { k with corrected := t.pkg.corrected } }
      ∧ ∀ i < 6, nth t.pkg.corrected.toList i 0 = nth k.corrected.toList i 0 + if i = mcCode src then 1 else 0)
    ∧ exec .mainPowerLoss s = .next { State.reset with images := s.images, agenda := s.agenda, freeCtr := s.freeCtr }
end

