-- ==== Sys2Proof/Laws/Memory.lean ====
section
/-! SUPPORT. Maps and memory: what a key reads after each operation on a map, and that every operation on a map or a memory keeps its
canonical form. -/

namespace Sys2Proof.Machine

/-! ### What a key reads -/

@[simp] theorem mget_nil {α : Type} (k : Nat) : mget ([] : List (Nat × α)) k = none := rfl

theorem mget_cons {α : Type} (a k : Nat) (v : α) (m : List (Nat × α)) :
    mget ((a, v) :: m) k = if a = k then some v else mget m k := by
  by_cases h : a = k <;> simp [mget, h]

theorem mget_mset {α : Type} (m : List (Nat × α)) (k a : Nat) (v : α) :
    mget (mset m k v) a = if k = a then some v else mget m a := by
  induction m with
  | nil => simp [mset, mget_cons]
  | cons e m ih =>
    obtain ⟨b, w⟩ := e
    by_cases h1 : k = b
    · subst h1; by_cases h2 : k = a <;> simp [mset, mget_cons, h2]
    · by_cases h2 : k < b
      · simp [mset, mget_cons, h1, h2]
      · simp only [mset, beq_iff_eq, h1, h2, if_false, mget_cons, ih]
        by_cases h3 : b = a
        · subst h3; simp [h1]
        · simp [h3]

theorem mget_mdel {α : Type} (m : List (Nat × α)) (k a : Nat) : mget (mdel m k) a = if k = a then none else mget m a := by
  induction m with
  | nil => simp [mdel]
  | cons e m ih =>
    obtain ⟨b, w⟩ := e
    by_cases h1 : k = b
    · subst h1
      by_cases h2 : k = a
      · subst h2; simp [mdel, ih]
      · simp [mdel, mget_cons, ih, h2]
    · simp only [mdel, beq_iff_eq, h1, if_false, mget_cons, ih]
      by_cases h3 : b = a
      · subst h3; simp [h1]
      · simp [h3]

/-! ### The canonical form of a map -/

/-- A rising map read as: its keys are in order, and all above the bound. -/
theorem mrising_iff {α : Type} (lo : Option Nat) (m : List (Nat × α)) :
    mrising lo m = true ↔ m.Pairwise (fun a b => a.1 < b.1) ∧ ∀ l, lo = some l → ∀ e ∈ m, l < e.1 := by
  induction m generalizing lo with
  | nil => simp [mrising]
  | cons e m ih =>
    obtain ⟨k, v⟩ := e
    simp only [mrising, Bool.and_eq_true, ih, List.pairwise_cons, List.mem_cons, Option.some.injEq]
    cases lo with
    | none =>
      constructor
      · rintro ⟨-, h1, h2⟩; exact ⟨⟨h2 k rfl, h1⟩, by simp⟩
      · rintro ⟨⟨h1, h2⟩, -⟩; exact ⟨rfl, h2, by rintro _ rfl; exact h1⟩
    | some l =>
      simp only [decide_eq_true_eq]
      constructor
      · rintro ⟨h0, h1, h2⟩
        refine ⟨⟨h2 k rfl, h1⟩, ?_⟩
        rintro _ h e (rfl | he)
        · cases h; exact h0
        · cases h; exact h0.trans (h2 k rfl e he)
      · rintro ⟨⟨h1, h2⟩, h3⟩
        exact ⟨h3 l rfl _ (.inl rfl), h2, by rintro _ rfl; exact h1⟩

theorem mwf_iff {α : Type} (m : List (Nat × α)) : mwf m = true ↔ m.Pairwise fun a b => a.1 < b.1 := by
  simp [mwf, mrising_iff]

theorem mwf_filter {α : Type} (m : List (Nat × α)) (f : Nat × α → Bool) (h : mwf m = true) : mwf (m.filter f) = true :=
  (mwf_iff _).2 (((mwf_iff m).1 h).filter _)

theorem mem_mset {α : Type} {m : List (Nat × α)} {k : Nat} {v : α} {e : Nat × α} (h : e ∈ mset m k v) : e = (k, v) ∨ e ∈ m := by
  induction m with
  | nil => simpa [mset] using h
  | cons b m ih =>
    simp only [mset] at h
    split at h
    · simp only [List.mem_cons] at h ⊢; tauto
    · split at h
      · simpa using h
      · simp only [List.mem_cons] at h ⊢
        rcases h with h | h
        · exact .inr (.inl h)
        · rcases ih h with h | h
          · exact .inl h
          · exact .inr (.inr h)

theorem mdel_eq_filter {α : Type} (m : List (Nat × α)) (k : Nat) : mdel m k = m.filter fun e => k != e.1 := by
  induction m with
  | nil => rfl
  | cons e m ih =>
    obtain ⟨b, v⟩ := e
    by_cases h : k = b
    · subst h; simpa [mdel] using ih
    · simp [mdel, h, ih]

theorem mwf_mset {α : Type} (m : List (Nat × α)) (k : Nat) (v : α) (h : mwf m = true) : mwf (mset m k v) = true := by
  rw [mwf_iff] at h ⊢
  induction m with
  | nil => simp [mset]
  | cons e m ih =>
    obtain ⟨b, w⟩ := e
    obtain ⟨h1, h2⟩ := List.pairwise_cons.1 h
    simp only [mset, beq_iff_eq]
    split
    · next h3 => subst h3; exact List.pairwise_cons.2 ⟨h1, h2⟩
    · split
      · next h3 =>
        refine List.pairwise_cons.2 ⟨fun e he => ?_, h⟩
        rcases List.mem_cons.1 he with rfl | he
        · exact h3
        · exact h3.trans (h1 e he)
      · next h3 h4 =>
        refine List.pairwise_cons.2 ⟨fun e he => ?_, ih h2⟩
        rcases mem_mset he with rfl | he
        · show b < k; omega
        · exact h1 e he

theorem mwf_mdel {α : Type} (m : List (Nat × α)) (k : Nat) (h : mwf m = true) : mwf (mdel m k) = true := by
  rw [mdel_eq_filter]; exact mwf_filter _ _ h

theorem mwf_mclear {α : Type} (m : List (Nat × α)) (lo hi : Nat) (h : mwf m = true) : mwf (mclear m lo hi) = true := mwf_filter _ _ h

/-! ### The canonical form of memory, kept by every operation -/

theorem wf_iff (m : Memory) : Memory.wf m = true ↔ mwf m = true ∧ ∀ e ∈ m, e.2 ≠ 0#8 := by
  simp only [Memory.wf, Bool.and_eq_true, List.all_eq_true, bne_iff_ne]

theorem wf_writeByte (m : Memory) (a : Nat) (b : Byte) (h : Memory.wf m = true) : Memory.wf (writeByte m a b) = true := by
  obtain ⟨h1, h2⟩ := (wf_iff m).1 h
  unfold writeByte
  split
  · refine (wf_iff _).2 ⟨mwf_mdel m a h1, fun e he => h2 e ?_⟩
    rw [mdel_eq_filter] at he; exact (List.mem_filter.1 he).1
  · next hb =>
    refine (wf_iff _).2 ⟨mwf_mset m a b h1, fun e he => ?_⟩
    rcases mem_mset he with rfl | he
    · simpa using hb
    · exact h2 e he

theorem wf_writeBytes (bs : List Byte) (m : Memory) (a : Nat) (h : Memory.wf m = true) : Memory.wf (writeBytes m a bs) = true := by
  induction bs generalizing m a with
  | nil => exact h
  | cons b bs ih => exact ih _ _ (wf_writeByte m a b h)

theorem wf_writeNat (m : Memory) (a n v : Nat) (h : Memory.wf m = true) : Memory.wf (writeNat m a n v) = true := wf_writeBytes _ _ _ h

theorem wf_filter (m : Memory) (f : Host.Cell → Bool) (h : Memory.wf m = true) : Memory.wf (m.filter f) = true := by
  obtain ⟨h1, h2⟩ := (wf_iff m).1 h
  exact (wf_iff _).2 ⟨mwf_filter m f h1, fun e he => h2 e (List.mem_filter.1 he).1⟩

theorem wf_mclear (m : Memory) (lo hi : Nat) (h : Memory.wf m = true) : Memory.wf (mclear m lo hi) = true := wf_filter m _ h

theorem reset_memory_wf : Memory.wf State.reset.dram = true ∧ Memory.wf State.reset.unit.pad.bytes = true := ⟨rfl, rfl⟩

end Sys2Proof.Machine
end

