-- ==== Sys2Proof/Laws/State.lean ====
section
/-! SUPPORT. One lemma per field for each update of the state that the meanings share, and what a register reads after a write. -/

namespace Sys2Proof.Machine

/-! ### The unit replaced -/

@[simp] theorem mapUnit_unit (s : State) (f : Unit → Unit) : (s.mapUnit f).unit = f s.unit := rfl
@[simp] theorem mapUnit_here (s : State) (f : Unit → Unit) : (s.mapUnit f).here = s.here := rfl
@[simp] theorem mapUnit_peers (s : State) (f : Unit → Unit) : (s.mapUnit f).peers = s.peers := rfl
@[simp] theorem mapUnit_area (s : State) (f : Unit → Unit) : (s.mapUnit f).area = s.area := rfl
@[simp] theorem mapUnit_areaMem (s : State) (f : Unit → Unit) : (s.mapUnit f).areaMem = s.areaMem := rfl
@[simp] theorem mapUnit_ringPos (s : State) (f : Unit → Unit) : (s.mapUnit f).ringPos = s.ringPos := rfl
@[simp] theorem mapUnit_ringOut (s : State) (f : Unit → Unit) : (s.mapUnit f).ringOut = s.ringOut := rfl
@[simp] theorem mapUnit_aside (s : State) (f : Unit → Unit) : (s.mapUnit f).aside = s.aside := rfl
@[simp] theorem mapUnit_time (s : State) (f : Unit → Unit) : (s.mapUnit f).time = s.time := rfl
@[simp] theorem mapUnit_dram (s : State) (f : Unit → Unit) : (s.mapUnit f).dram = s.dram := rfl
@[simp] theorem mapUnit_dramKey (s : State) (f : Unit → Unit) : (s.mapUnit f).dramKey = s.dramKey := rfl
@[simp] theorem mapUnit_llc (s : State) (f : Unit → Unit) : (s.mapUnit f).llc = s.llc := rfl
@[simp] theorem mapUnit_bad (s : State) (f : Unit → Unit) : (s.mapUnit f).bad = s.bad := rfl
@[simp] theorem mapUnit_owed (s : State) (f : Unit → Unit) : (s.mapUnit f).owed = s.owed := rfl
@[simp] theorem mapUnit_pinned (s : State) (f : Unit → Unit) : (s.mapUnit f).pinned = s.pinned := rfl
@[simp] theorem mapUnit_owners (s : State) (f : Unit → Unit) : (s.mapUnit f).owners = s.owners := rfl
@[simp] theorem mapUnit_zeroing (s : State) (f : Unit → Unit) : (s.mapUnit f).zeroing = s.zeroing := rfl
@[simp] theorem mapUnit_stats (s : State) (f : Unit → Unit) : (s.mapUnit f).stats = s.stats := rfl
@[simp] theorem mapUnit_groups (s : State) (f : Unit → Unit) : (s.mapUnit f).groups = s.groups := rfl
@[simp] theorem mapUnit_packets (s : State) (f : Unit → Unit) : (s.mapUnit f).packets = s.packets := rfl
@[simp] theorem mapUnit_nextPkt (s : State) (f : Unit → Unit) : (s.mapUnit f).nextPkt = s.nextPkt := rfl
@[simp] theorem mapUnit_inbound (s : State) (f : Unit → Unit) : (s.mapUnit f).inbound = s.inbound := rfl
@[simp] theorem mapUnit_tlb (s : State) (f : Unit → Unit) : (s.mapUnit f).tlb = s.tlb := rfl
@[simp] theorem mapUnit_walks (s : State) (f : Unit → Unit) : (s.mapUnit f).walks = s.walks := rfl
@[simp] theorem mapUnit_reads (s : State) (f : Unit → Unit) : (s.mapUnit f).reads = s.reads := rfl
@[simp] theorem mapUnit_parks (s : State) (f : Unit → Unit) : (s.mapUnit f).parks = s.parks := rfl
@[simp] theorem mapUnit_faults (s : State) (f : Unit → Unit) : (s.mapUnit f).faults = s.faults := rfl
@[simp] theorem mapUnit_heldFlt (s : State) (f : Unit → Unit) : (s.mapUnit f).heldFlt = s.heldFlt := rfl
@[simp] theorem mapUnit_reds (s : State) (f : Unit → Unit) : (s.mapUnit f).reds = s.reds := rfl
@[simp] theorem mapUnit_redWait (s : State) (f : Unit → Unit) : (s.mapUnit f).redWait = s.redWait := rfl
@[simp] theorem mapUnit_asids (s : State) (f : Unit → Unit) : (s.mapUnit f).asids = s.asids := rfl
@[simp] theorem mapUnit_tcmds (s : State) (f : Unit → Unit) : (s.mapUnit f).tcmds = s.tcmds := rfl
@[simp] theorem mapUnit_tpend (s : State) (f : Unit → Unit) : (s.mapUnit f).tpend = s.tpend := rfl
@[simp] theorem mapUnit_twait (s : State) (f : Unit → Unit) : (s.mapUnit f).twait = s.twait := rfl
@[simp] theorem mapUnit_images (s : State) (f : Unit → Unit) : (s.mapUnit f).images = s.images := rfl
@[simp] theorem mapUnit_jobs (s : State) (f : Unit → Unit) : (s.mapUnit f).jobs = s.jobs := rfl
@[simp] theorem mapUnit_order (s : State) (f : Unit → Unit) : (s.mapUnit f).order = s.order := rfl
@[simp] theorem mapUnit_events (s : State) (f : Unit → Unit) : (s.mapUnit f).events = s.events := rfl
@[simp] theorem mapUnit_cores (s : State) (f : Unit → Unit) : (s.mapUnit f).cores = s.cores := rfl
@[simp] theorem mapUnit_frames (s : State) (f : Unit → Unit) : (s.mapUnit f).frames = s.frames := rfl
@[simp] theorem mapUnit_enc (s : State) (f : Unit → Unit) : (s.mapUnit f).enc = s.enc := rfl
@[simp] theorem mapUnit_pantries (s : State) (f : Unit → Unit) : (s.mapUnit f).pantries = s.pantries := rfl
@[simp] theorem mapUnit_text (s : State) (f : Unit → Unit) : (s.mapUnit f).text = s.text := rfl
@[simp] theorem mapUnit_pkg (s : State) (f : Unit → Unit) : (s.mapUnit f).pkg = s.pkg := rfl
@[simp] theorem mapUnit_freeCtr (s : State) (f : Unit → Unit) : (s.mapUnit f).freeCtr = s.freeCtr := rfl
@[simp] theorem mapUnit_stamp (s : State) (f : Unit → Unit) : (s.mapUnit f).stamp = s.stamp := rfl
@[simp] theorem mapUnit_agenda (s : State) (f : Unit → Unit) : (s.mapUnit f).agenda = s.agenda := rfl

/-! ### The control registers replaced -/

@[simp] theorem mapCr_unit (s : State) (f : Cregs → Cregs) : (s.mapCr f).unit = { s.unit with cr := f s.unit.cr } := rfl
@[simp] theorem mapCr_here (s : State) (f : Cregs → Cregs) : (s.mapCr f).here = s.here := rfl
@[simp] theorem mapCr_peers (s : State) (f : Cregs → Cregs) : (s.mapCr f).peers = s.peers := rfl
@[simp] theorem mapCr_area (s : State) (f : Cregs → Cregs) : (s.mapCr f).area = s.area := rfl
@[simp] theorem mapCr_areaMem (s : State) (f : Cregs → Cregs) : (s.mapCr f).areaMem = s.areaMem := rfl
@[simp] theorem mapCr_ringPos (s : State) (f : Cregs → Cregs) : (s.mapCr f).ringPos = s.ringPos := rfl
@[simp] theorem mapCr_ringOut (s : State) (f : Cregs → Cregs) : (s.mapCr f).ringOut = s.ringOut := rfl
@[simp] theorem mapCr_aside (s : State) (f : Cregs → Cregs) : (s.mapCr f).aside = s.aside := rfl
@[simp] theorem mapCr_time (s : State) (f : Cregs → Cregs) : (s.mapCr f).time = s.time := rfl
@[simp] theorem mapCr_dram (s : State) (f : Cregs → Cregs) : (s.mapCr f).dram = s.dram := rfl
@[simp] theorem mapCr_dramKey (s : State) (f : Cregs → Cregs) : (s.mapCr f).dramKey = s.dramKey := rfl
@[simp] theorem mapCr_llc (s : State) (f : Cregs → Cregs) : (s.mapCr f).llc = s.llc := rfl
@[simp] theorem mapCr_bad (s : State) (f : Cregs → Cregs) : (s.mapCr f).bad = s.bad := rfl
@[simp] theorem mapCr_owed (s : State) (f : Cregs → Cregs) : (s.mapCr f).owed = s.owed := rfl
@[simp] theorem mapCr_pinned (s : State) (f : Cregs → Cregs) : (s.mapCr f).pinned = s.pinned := rfl
@[simp] theorem mapCr_owners (s : State) (f : Cregs → Cregs) : (s.mapCr f).owners = s.owners := rfl
@[simp] theorem mapCr_zeroing (s : State) (f : Cregs → Cregs) : (s.mapCr f).zeroing = s.zeroing := rfl
@[simp] theorem mapCr_stats (s : State) (f : Cregs → Cregs) : (s.mapCr f).stats = s.stats := rfl
@[simp] theorem mapCr_groups (s : State) (f : Cregs → Cregs) : (s.mapCr f).groups = s.groups := rfl
@[simp] theorem mapCr_packets (s : State) (f : Cregs → Cregs) : (s.mapCr f).packets = s.packets := rfl
@[simp] theorem mapCr_nextPkt (s : State) (f : Cregs → Cregs) : (s.mapCr f).nextPkt = s.nextPkt := rfl
@[simp] theorem mapCr_inbound (s : State) (f : Cregs → Cregs) : (s.mapCr f).inbound = s.inbound := rfl
@[simp] theorem mapCr_tlb (s : State) (f : Cregs → Cregs) : (s.mapCr f).tlb = s.tlb := rfl
@[simp] theorem mapCr_walks (s : State) (f : Cregs → Cregs) : (s.mapCr f).walks = s.walks := rfl
@[simp] theorem mapCr_reads (s : State) (f : Cregs → Cregs) : (s.mapCr f).reads = s.reads := rfl
@[simp] theorem mapCr_parks (s : State) (f : Cregs → Cregs) : (s.mapCr f).parks = s.parks := rfl
@[simp] theorem mapCr_faults (s : State) (f : Cregs → Cregs) : (s.mapCr f).faults = s.faults := rfl
@[simp] theorem mapCr_heldFlt (s : State) (f : Cregs → Cregs) : (s.mapCr f).heldFlt = s.heldFlt := rfl
@[simp] theorem mapCr_reds (s : State) (f : Cregs → Cregs) : (s.mapCr f).reds = s.reds := rfl
@[simp] theorem mapCr_redWait (s : State) (f : Cregs → Cregs) : (s.mapCr f).redWait = s.redWait := rfl
@[simp] theorem mapCr_asids (s : State) (f : Cregs → Cregs) : (s.mapCr f).asids = s.asids := rfl
@[simp] theorem mapCr_tcmds (s : State) (f : Cregs → Cregs) : (s.mapCr f).tcmds = s.tcmds := rfl
@[simp] theorem mapCr_tpend (s : State) (f : Cregs → Cregs) : (s.mapCr f).tpend = s.tpend := rfl
@[simp] theorem mapCr_twait (s : State) (f : Cregs → Cregs) : (s.mapCr f).twait = s.twait := rfl
@[simp] theorem mapCr_images (s : State) (f : Cregs → Cregs) : (s.mapCr f).images = s.images := rfl
@[simp] theorem mapCr_jobs (s : State) (f : Cregs → Cregs) : (s.mapCr f).jobs = s.jobs := rfl
@[simp] theorem mapCr_order (s : State) (f : Cregs → Cregs) : (s.mapCr f).order = s.order := rfl
@[simp] theorem mapCr_events (s : State) (f : Cregs → Cregs) : (s.mapCr f).events = s.events := rfl
@[simp] theorem mapCr_cores (s : State) (f : Cregs → Cregs) : (s.mapCr f).cores = s.cores := rfl
@[simp] theorem mapCr_frames (s : State) (f : Cregs → Cregs) : (s.mapCr f).frames = s.frames := rfl
@[simp] theorem mapCr_enc (s : State) (f : Cregs → Cregs) : (s.mapCr f).enc = s.enc := rfl
@[simp] theorem mapCr_pantries (s : State) (f : Cregs → Cregs) : (s.mapCr f).pantries = s.pantries := rfl
@[simp] theorem mapCr_text (s : State) (f : Cregs → Cregs) : (s.mapCr f).text = s.text := rfl
@[simp] theorem mapCr_pkg (s : State) (f : Cregs → Cregs) : (s.mapCr f).pkg = s.pkg := rfl
@[simp] theorem mapCr_freeCtr (s : State) (f : Cregs → Cregs) : (s.mapCr f).freeCtr = s.freeCtr := rfl
@[simp] theorem mapCr_stamp (s : State) (f : Cregs → Cregs) : (s.mapCr f).stamp = s.stamp := rfl
@[simp] theorem mapCr_agenda (s : State) (f : Cregs → Cregs) : (s.mapCr f).agenda = s.agenda := rfl

/-! ### A result in flight -/

@[simp] theorem push_run (u : Unit) (lat : Nat) (d : Dest) (flags : BitVec 6) : (push u lat d flags).run = u.run := rfl
@[simp] theorem push_pc (u : Unit) (lat : Nat) (d : Dest) (flags : BitVec 6) : (push u lat d flags).pc = u.pc := rfl
@[simp] theorem push_istore (u : Unit) (lat : Nat) (d : Dest) (flags : BitVec 6) : (push u lat d flags).istore = u.istore := rfl
@[simp] theorem push_cyc (u : Unit) (lat : Nat) (d : Dest) (flags : BitVec 6) : (push u lat d flags).cyc = u.cyc := rfl
@[simp] theorem push_g (u : Unit) (lat : Nat) (d : Dest) (flags : BitVec 6) : (push u lat d flags).g = u.g := rfl
@[simp] theorem push_p (u : Unit) (lat : Nat) (d : Dest) (flags : BitVec 6) : (push u lat d flags).p = u.p := rfl
@[simp] theorem push_v (u : Unit) (lat : Nat) (d : Dest) (flags : BitVec 6) : (push u lat d flags).v = u.v := rfl
@[simp] theorem push_m (u : Unit) (lat : Nat) (d : Dest) (flags : BitVec 6) : (push u lat d flags).m = u.m := rfl
@[simp] theorem push_loops (u : Unit) (lat : Nat) (d : Dest) (flags : BitVec 6) : (push u lat d flags).loops = u.loops := rfl
@[simp] theorem push_landing (u : Unit) (lat : Nat) (d : Dest) (flags : BitVec 6) : (push u lat d flags).landing = u.landing ++ [⟨u.cyc + lat, u.nextAcc, d, flags⟩] := rfl
@[simp] theorem push_cr (u : Unit) (lat : Nat) (d : Dest) (flags : BitVec 6) : (push u lat d flags).cr = u.cr := rfl
@[simp] theorem push_pad (u : Unit) (lat : Nat) (d : Dest) (flags : BitVec 6) : (push u lat d flags).pad = u.pad := rfl
@[simp] theorem push_mx (u : Unit) (lat : Nat) (d : Dest) (flags : BitVec 6) : (push u lat d flags).mx = u.mx := rfl
@[simp] theorem push_nl (u : Unit) (lat : Nat) (d : Dest) (flags : BitVec 6) : (push u lat d flags).nl = u.nl := rfl
@[simp] theorem push_ns (u : Unit) (lat : Nat) (d : Dest) (flags : BitVec 6) : (push u lat d flags).ns = u.ns := rfl
@[simp] theorem push_nc (u : Unit) (lat : Nat) (d : Dest) (flags : BitVec 6) : (push u lat d flags).nc = u.nc := rfl
@[simp] theorem push_nt (u : Unit) (lat : Nat) (d : Dest) (flags : BitVec 6) : (push u lat d flags).nt = u.nt := rfl
@[simp] theorem push_cq0 (u : Unit) (lat : Nat) (d : Dest) (flags : BitVec 6) : (push u lat d flags).cq0 = u.cq0 := rfl
@[simp] theorem push_cq1 (u : Unit) (lat : Nat) (d : Dest) (flags : BitVec 6) : (push u lat d flags).cq1 = u.cq1 := rfl
@[simp] theorem push_fqw (u : Unit) (lat : Nat) (d : Dest) (flags : BitVec 6) : (push u lat d flags).fqw = u.fqw := rfl
@[simp] theorem push_fqn (u : Unit) (lat : Nat) (d : Dest) (flags : BitVec 6) : (push u lat d flags).fqn = u.fqn := rfl
@[simp] theorem push_rq (u : Unit) (lat : Nat) (d : Dest) (flags : BitVec 6) : (push u lat d flags).rq = u.rq := rfl
@[simp] theorem push_kq (u : Unit) (lat : Nat) (d : Dest) (flags : BitVec 6) : (push u lat d flags).kq = u.kq := rfl
@[simp] theorem push_seqs (u : Unit) (lat : Nat) (d : Dest) (flags : BitVec 6) : (push u lat d flags).seqs = u.seqs := rfl
@[simp] theorem push_rels (u : Unit) (lat : Nat) (d : Dest) (flags : BitVec 6) : (push u lat d flags).rels = u.rels := rfl
@[simp] theorem push_qfences (u : Unit) (lat : Nat) (d : Dest) (flags : BitVec 6) : (push u lat d flags).qfences = u.qfences := rfl
@[simp] theorem push_nextAcc (u : Unit) (lat : Nat) (d : Dest) (flags : BitVec 6) : (push u lat d flags).nextAcc = u.nextAcc := rfl
@[simp] theorem push_accs (u : Unit) (lat : Nat) (d : Dest) (flags : BitVec 6) : (push u lat d flags).accs = u.accs := rfl
@[simp] theorem push_fences (u : Unit) (lat : Nat) (d : Dest) (flags : BitVec 6) : (push u lat d flags).fences = u.fences := rfl
@[simp] theorem push_deferred (u : Unit) (lat : Nat) (d : Dest) (flags : BitVec 6) : (push u lat d flags).deferred = u.deferred := rfl
@[simp] theorem push_posted (u : Unit) (lat : Nat) (d : Dest) (flags : BitVec 6) : (push u lat d flags).posted = u.posted := rfl
@[simp] theorem push_l1 (u : Unit) (lat : Nat) (d : Dest) (flags : BitVec 6) : (push u lat d flags).l1 = u.l1 := rfl
@[simp] theorem push_l1bound (u : Unit) (lat : Nat) (d : Dest) (flags : BitVec 6) : (push u lat d flags).l1bound = u.l1bound := rfl
@[simp] theorem push_rt (u : Unit) (lat : Nat) (d : Dest) (flags : BitVec 6) : (push u lat d flags).rt = u.rt := rfl
@[simp] theorem push_launch (u : Unit) (lat : Nat) (d : Dest) (flags : BitVec 6) : (push u lat d flags).launch = u.launch := rfl
@[simp] theorem push_ctx (u : Unit) (lat : Nat) (d : Dest) (flags : BitVec 6) : (push u lat d flags).ctx = u.ctx := rfl
@[simp] theorem push_sig (u : Unit) (lat : Nat) (d : Dest) (flags : BitVec 6) : (push u lat d flags).sig = u.sig := rfl
@[simp] theorem push_request (u : Unit) (lat : Nat) (d : Dest) (flags : BitVec 6) : (push u lat d flags).request = u.request := rfl
@[simp] theorem push_triggers (u : Unit) (lat : Nat) (d : Dest) (flags : BitVec 6) : (push u lat d flags).triggers = u.triggers := rfl
@[simp] theorem push_wdheld (u : Unit) (lat : Nat) (d : Dest) (flags : BitVec 6) : (push u lat d flags).wdheld = u.wdheld := rfl
@[simp] theorem push_stub (u : Unit) (lat : Nat) (d : Dest) (flags : BitVec 6) : (push u lat d flags).stub = u.stub := rfl
@[simp] theorem push_stubpc (u : Unit) (lat : Nat) (d : Dest) (flags : BitVec 6) : (push u lat d flags).stubpc = u.stubpc := rfl

/-! ### Writes at the controllers -/

@[simp] theorem dramWrite_unit (s : State) (key pa : Nat) (bs : List Byte) : (dramWrite s key pa bs).unit = s.unit := rfl
@[simp] theorem dramWrite_here (s : State) (key pa : Nat) (bs : List Byte) : (dramWrite s key pa bs).here = s.here := rfl
@[simp] theorem dramWrite_peers (s : State) (key pa : Nat) (bs : List Byte) : (dramWrite s key pa bs).peers = s.peers := rfl
@[simp] theorem dramWrite_area (s : State) (key pa : Nat) (bs : List Byte) : (dramWrite s key pa bs).area = s.area := rfl
@[simp] theorem dramWrite_areaMem (s : State) (key pa : Nat) (bs : List Byte) : (dramWrite s key pa bs).areaMem = s.areaMem := rfl
@[simp] theorem dramWrite_ringPos (s : State) (key pa : Nat) (bs : List Byte) : (dramWrite s key pa bs).ringPos = s.ringPos := rfl
@[simp] theorem dramWrite_ringOut (s : State) (key pa : Nat) (bs : List Byte) : (dramWrite s key pa bs).ringOut = s.ringOut := rfl
@[simp] theorem dramWrite_aside (s : State) (key pa : Nat) (bs : List Byte) : (dramWrite s key pa bs).aside = s.aside := rfl
@[simp] theorem dramWrite_time (s : State) (key pa : Nat) (bs : List Byte) : (dramWrite s key pa bs).time = s.time := rfl
@[simp] theorem dramWrite_dram (s : State) (key pa : Nat) (bs : List Byte) : (dramWrite s key pa bs).dram = writeBytes ((foreignSectors s key pa bs.length).foldl (fun t i => rekeySector t key i) s).dram pa bs := rfl
@[simp] theorem dramWrite_dramKey (s : State) (key pa : Nat) (bs : List Byte) : (dramWrite s key pa bs).dramKey = (sectorsOf pa bs.length).foldl (fun m i => mset m i key) s.dramKey := rfl
@[simp] theorem dramWrite_llc (s : State) (key pa : Nat) (bs : List Byte) : (dramWrite s key pa bs).llc = s.llc := rfl
@[simp] theorem dramWrite_bad (s : State) (key pa : Nat) (bs : List Byte) : (dramWrite s key pa bs).bad = s.bad := rfl
@[simp] theorem dramWrite_owed (s : State) (key pa : Nat) (bs : List Byte) : (dramWrite s key pa bs).owed = s.owed := rfl
@[simp] theorem dramWrite_pinned (s : State) (key pa : Nat) (bs : List Byte) : (dramWrite s key pa bs).pinned = s.pinned := rfl
@[simp] theorem dramWrite_owners (s : State) (key pa : Nat) (bs : List Byte) : (dramWrite s key pa bs).owners = s.owners := rfl
@[simp] theorem dramWrite_zeroing (s : State) (key pa : Nat) (bs : List Byte) : (dramWrite s key pa bs).zeroing = s.zeroing := rfl
@[simp] theorem dramWrite_stats (s : State) (key pa : Nat) (bs : List Byte) : (dramWrite s key pa bs).stats = s.stats := rfl
@[simp] theorem dramWrite_groups (s : State) (key pa : Nat) (bs : List Byte) : (dramWrite s key pa bs).groups = s.groups := rfl
@[simp] theorem dramWrite_packets (s : State) (key pa : Nat) (bs : List Byte) : (dramWrite s key pa bs).packets = s.packets := rfl
@[simp] theorem dramWrite_nextPkt (s : State) (key pa : Nat) (bs : List Byte) : (dramWrite s key pa bs).nextPkt = s.nextPkt := rfl
@[simp] theorem dramWrite_inbound (s : State) (key pa : Nat) (bs : List Byte) : (dramWrite s key pa bs).inbound = s.inbound := rfl
@[simp] theorem dramWrite_tlb (s : State) (key pa : Nat) (bs : List Byte) : (dramWrite s key pa bs).tlb = s.tlb := rfl
@[simp] theorem dramWrite_walks (s : State) (key pa : Nat) (bs : List Byte) : (dramWrite s key pa bs).walks = s.walks := rfl
@[simp] theorem dramWrite_reads (s : State) (key pa : Nat) (bs : List Byte) : (dramWrite s key pa bs).reads = s.reads := rfl
@[simp] theorem dramWrite_parks (s : State) (key pa : Nat) (bs : List Byte) : (dramWrite s key pa bs).parks = s.parks := rfl
@[simp] theorem dramWrite_faults (s : State) (key pa : Nat) (bs : List Byte) : (dramWrite s key pa bs).faults = s.faults := rfl
@[simp] theorem dramWrite_heldFlt (s : State) (key pa : Nat) (bs : List Byte) : (dramWrite s key pa bs).heldFlt = s.heldFlt := rfl
@[simp] theorem dramWrite_reds (s : State) (key pa : Nat) (bs : List Byte) : (dramWrite s key pa bs).reds = s.reds := rfl
@[simp] theorem dramWrite_redWait (s : State) (key pa : Nat) (bs : List Byte) : (dramWrite s key pa bs).redWait = s.redWait := rfl
@[simp] theorem dramWrite_asids (s : State) (key pa : Nat) (bs : List Byte) : (dramWrite s key pa bs).asids = s.asids := rfl
@[simp] theorem dramWrite_tcmds (s : State) (key pa : Nat) (bs : List Byte) : (dramWrite s key pa bs).tcmds = s.tcmds := rfl
@[simp] theorem dramWrite_tpend (s : State) (key pa : Nat) (bs : List Byte) : (dramWrite s key pa bs).tpend = s.tpend := rfl
@[simp] theorem dramWrite_twait (s : State) (key pa : Nat) (bs : List Byte) : (dramWrite s key pa bs).twait = s.twait := rfl
@[simp] theorem dramWrite_images (s : State) (key pa : Nat) (bs : List Byte) : (dramWrite s key pa bs).images = s.images := rfl
@[simp] theorem dramWrite_jobs (s : State) (key pa : Nat) (bs : List Byte) : (dramWrite s key pa bs).jobs = s.jobs := rfl
@[simp] theorem dramWrite_order (s : State) (key pa : Nat) (bs : List Byte) : (dramWrite s key pa bs).order = s.order := rfl
@[simp] theorem dramWrite_events (s : State) (key pa : Nat) (bs : List Byte) : (dramWrite s key pa bs).events = s.events := rfl
@[simp] theorem dramWrite_cores (s : State) (key pa : Nat) (bs : List Byte) : (dramWrite s key pa bs).cores = s.cores := rfl
@[simp] theorem dramWrite_frames (s : State) (key pa : Nat) (bs : List Byte) : (dramWrite s key pa bs).frames = s.frames := rfl
@[simp] theorem dramWrite_enc (s : State) (key pa : Nat) (bs : List Byte) : (dramWrite s key pa bs).enc = s.enc := rfl
@[simp] theorem dramWrite_pantries (s : State) (key pa : Nat) (bs : List Byte) : (dramWrite s key pa bs).pantries = s.pantries := rfl
@[simp] theorem dramWrite_text (s : State) (key pa : Nat) (bs : List Byte) : (dramWrite s key pa bs).text = s.text := rfl
@[simp] theorem dramWrite_pkg (s : State) (key pa : Nat) (bs : List Byte) : (dramWrite s key pa bs).pkg = s.pkg := rfl
@[simp] theorem dramWrite_freeCtr (s : State) (key pa : Nat) (bs : List Byte) : (dramWrite s key pa bs).freeCtr = s.freeCtr := rfl
@[simp] theorem dramWrite_stamp (s : State) (key pa : Nat) (bs : List Byte) : (dramWrite s key pa bs).stamp = s.stamp := rfl
@[simp] theorem dramWrite_agenda (s : State) (key pa : Nat) (bs : List Byte) : (dramWrite s key pa bs).agenda = s.agenda := rfl

/-! ### A slice counts -/

@[simp] theorem addStats_unit (s : State) (h : BitVec 6) (f : SliceStats → SliceStats) : (addStats s h f).unit = s.unit := rfl
@[simp] theorem addStats_here (s : State) (h : BitVec 6) (f : SliceStats → SliceStats) : (addStats s h f).here = s.here := rfl
@[simp] theorem addStats_peers (s : State) (h : BitVec 6) (f : SliceStats → SliceStats) : (addStats s h f).peers = s.peers := rfl
@[simp] theorem addStats_area (s : State) (h : BitVec 6) (f : SliceStats → SliceStats) : (addStats s h f).area = s.area := rfl
@[simp] theorem addStats_areaMem (s : State) (h : BitVec 6) (f : SliceStats → SliceStats) : (addStats s h f).areaMem = s.areaMem := rfl
@[simp] theorem addStats_ringPos (s : State) (h : BitVec 6) (f : SliceStats → SliceStats) : (addStats s h f).ringPos = s.ringPos := rfl
@[simp] theorem addStats_ringOut (s : State) (h : BitVec 6) (f : SliceStats → SliceStats) : (addStats s h f).ringOut = s.ringOut := rfl
@[simp] theorem addStats_aside (s : State) (h : BitVec 6) (f : SliceStats → SliceStats) : (addStats s h f).aside = s.aside := rfl
@[simp] theorem addStats_time (s : State) (h : BitVec 6) (f : SliceStats → SliceStats) : (addStats s h f).time = s.time := rfl
@[simp] theorem addStats_dram (s : State) (h : BitVec 6) (f : SliceStats → SliceStats) : (addStats s h f).dram = s.dram := rfl
@[simp] theorem addStats_dramKey (s : State) (h : BitVec 6) (f : SliceStats → SliceStats) : (addStats s h f).dramKey = s.dramKey := rfl
@[simp] theorem addStats_llc (s : State) (h : BitVec 6) (f : SliceStats → SliceStats) : (addStats s h f).llc = s.llc := rfl
@[simp] theorem addStats_bad (s : State) (h : BitVec 6) (f : SliceStats → SliceStats) : (addStats s h f).bad = s.bad := rfl
@[simp] theorem addStats_owed (s : State) (h : BitVec 6) (f : SliceStats → SliceStats) : (addStats s h f).owed = s.owed := rfl
@[simp] theorem addStats_pinned (s : State) (h : BitVec 6) (f : SliceStats → SliceStats) : (addStats s h f).pinned = s.pinned := rfl
@[simp] theorem addStats_owners (s : State) (h : BitVec 6) (f : SliceStats → SliceStats) : (addStats s h f).owners = s.owners := rfl
@[simp] theorem addStats_zeroing (s : State) (h : BitVec 6) (f : SliceStats → SliceStats) : (addStats s h f).zeroing = s.zeroing := rfl
@[simp] theorem addStats_stats (s : State) (h : BitVec 6) (f : SliceStats → SliceStats) : (addStats s h f).stats = s.stats.set h.toNat (f s.stats[h.toNat]) h.isLt := rfl
@[simp] theorem addStats_groups (s : State) (h : BitVec 6) (f : SliceStats → SliceStats) : (addStats s h f).groups = s.groups := rfl
@[simp] theorem addStats_packets (s : State) (h : BitVec 6) (f : SliceStats → SliceStats) : (addStats s h f).packets = s.packets := rfl
@[simp] theorem addStats_nextPkt (s : State) (h : BitVec 6) (f : SliceStats → SliceStats) : (addStats s h f).nextPkt = s.nextPkt := rfl
@[simp] theorem addStats_inbound (s : State) (h : BitVec 6) (f : SliceStats → SliceStats) : (addStats s h f).inbound = s.inbound := rfl
@[simp] theorem addStats_tlb (s : State) (h : BitVec 6) (f : SliceStats → SliceStats) : (addStats s h f).tlb = s.tlb := rfl
@[simp] theorem addStats_walks (s : State) (h : BitVec 6) (f : SliceStats → SliceStats) : (addStats s h f).walks = s.walks := rfl
@[simp] theorem addStats_reads (s : State) (h : BitVec 6) (f : SliceStats → SliceStats) : (addStats s h f).reads = s.reads := rfl
@[simp] theorem addStats_parks (s : State) (h : BitVec 6) (f : SliceStats → SliceStats) : (addStats s h f).parks = s.parks := rfl
@[simp] theorem addStats_faults (s : State) (h : BitVec 6) (f : SliceStats → SliceStats) : (addStats s h f).faults = s.faults := rfl
@[simp] theorem addStats_heldFlt (s : State) (h : BitVec 6) (f : SliceStats → SliceStats) : (addStats s h f).heldFlt = s.heldFlt := rfl
@[simp] theorem addStats_reds (s : State) (h : BitVec 6) (f : SliceStats → SliceStats) : (addStats s h f).reds = s.reds := rfl
@[simp] theorem addStats_redWait (s : State) (h : BitVec 6) (f : SliceStats → SliceStats) : (addStats s h f).redWait = s.redWait := rfl
@[simp] theorem addStats_asids (s : State) (h : BitVec 6) (f : SliceStats → SliceStats) : (addStats s h f).asids = s.asids := rfl
@[simp] theorem addStats_tcmds (s : State) (h : BitVec 6) (f : SliceStats → SliceStats) : (addStats s h f).tcmds = s.tcmds := rfl
@[simp] theorem addStats_tpend (s : State) (h : BitVec 6) (f : SliceStats → SliceStats) : (addStats s h f).tpend = s.tpend := rfl
@[simp] theorem addStats_twait (s : State) (h : BitVec 6) (f : SliceStats → SliceStats) : (addStats s h f).twait = s.twait := rfl
@[simp] theorem addStats_images (s : State) (h : BitVec 6) (f : SliceStats → SliceStats) : (addStats s h f).images = s.images := rfl
@[simp] theorem addStats_jobs (s : State) (h : BitVec 6) (f : SliceStats → SliceStats) : (addStats s h f).jobs = s.jobs := rfl
@[simp] theorem addStats_order (s : State) (h : BitVec 6) (f : SliceStats → SliceStats) : (addStats s h f).order = s.order := rfl
@[simp] theorem addStats_events (s : State) (h : BitVec 6) (f : SliceStats → SliceStats) : (addStats s h f).events = s.events := rfl
@[simp] theorem addStats_cores (s : State) (h : BitVec 6) (f : SliceStats → SliceStats) : (addStats s h f).cores = s.cores := rfl
@[simp] theorem addStats_frames (s : State) (h : BitVec 6) (f : SliceStats → SliceStats) : (addStats s h f).frames = s.frames := rfl
@[simp] theorem addStats_enc (s : State) (h : BitVec 6) (f : SliceStats → SliceStats) : (addStats s h f).enc = s.enc := rfl
@[simp] theorem addStats_pantries (s : State) (h : BitVec 6) (f : SliceStats → SliceStats) : (addStats s h f).pantries = s.pantries := rfl
@[simp] theorem addStats_text (s : State) (h : BitVec 6) (f : SliceStats → SliceStats) : (addStats s h f).text = s.text := rfl
@[simp] theorem addStats_pkg (s : State) (h : BitVec 6) (f : SliceStats → SliceStats) : (addStats s h f).pkg = s.pkg := rfl
@[simp] theorem addStats_freeCtr (s : State) (h : BitVec 6) (f : SliceStats → SliceStats) : (addStats s h f).freeCtr = s.freeCtr := rfl
@[simp] theorem addStats_stamp (s : State) (h : BitVec 6) (f : SliceStats → SliceStats) : (addStats s h f).stamp = s.stamp := rfl
@[simp] theorem addStats_agenda (s : State) (h : BitVec 6) (f : SliceStats → SliceStats) : (addStats s h f).agenda = s.agenda := rfl

/-! ### A status record of a translation command -/

@[simp] theorem tcmdStatus_unit (s : State) (part : BitVec 4) (n : Nat) : (tcmdStatus s part n).unit = s.unit := rfl
@[simp] theorem tcmdStatus_here (s : State) (part : BitVec 4) (n : Nat) : (tcmdStatus s part n).here = s.here := rfl
@[simp] theorem tcmdStatus_peers (s : State) (part : BitVec 4) (n : Nat) : (tcmdStatus s part n).peers = s.peers := rfl
@[simp] theorem tcmdStatus_area (s : State) (part : BitVec 4) (n : Nat) : (tcmdStatus s part n).area = s.area := rfl
@[simp] theorem tcmdStatus_areaMem (s : State) (part : BitVec 4) (n : Nat) : (tcmdStatus s part n).areaMem = s.areaMem := rfl
@[simp] theorem tcmdStatus_ringPos (s : State) (part : BitVec 4) (n : Nat) : (tcmdStatus s part n).ringPos = s.ringPos := rfl
@[simp] theorem tcmdStatus_ringOut (s : State) (part : BitVec 4) (n : Nat) : (tcmdStatus s part n).ringOut = s.ringOut := rfl
@[simp] theorem tcmdStatus_aside (s : State) (part : BitVec 4) (n : Nat) : (tcmdStatus s part n).aside = s.aside := rfl
@[simp] theorem tcmdStatus_time (s : State) (part : BitVec 4) (n : Nat) : (tcmdStatus s part n).time = s.time := rfl
@[simp] theorem tcmdStatus_dram (s : State) (part : BitVec 4) (n : Nat) : (tcmdStatus s part n).dram = s.dram := rfl
@[simp] theorem tcmdStatus_dramKey (s : State) (part : BitVec 4) (n : Nat) : (tcmdStatus s part n).dramKey = s.dramKey := rfl
@[simp] theorem tcmdStatus_llc (s : State) (part : BitVec 4) (n : Nat) : (tcmdStatus s part n).llc = s.llc := rfl
@[simp] theorem tcmdStatus_bad (s : State) (part : BitVec 4) (n : Nat) : (tcmdStatus s part n).bad = s.bad := rfl
@[simp] theorem tcmdStatus_owed (s : State) (part : BitVec 4) (n : Nat) : (tcmdStatus s part n).owed = s.owed := rfl
@[simp] theorem tcmdStatus_pinned (s : State) (part : BitVec 4) (n : Nat) : (tcmdStatus s part n).pinned = s.pinned := rfl
@[simp] theorem tcmdStatus_owners (s : State) (part : BitVec 4) (n : Nat) : (tcmdStatus s part n).owners = s.owners := rfl
@[simp] theorem tcmdStatus_zeroing (s : State) (part : BitVec 4) (n : Nat) : (tcmdStatus s part n).zeroing = s.zeroing := rfl
@[simp] theorem tcmdStatus_stats (s : State) (part : BitVec 4) (n : Nat) : (tcmdStatus s part n).stats = s.stats := rfl
@[simp] theorem tcmdStatus_groups (s : State) (part : BitVec 4) (n : Nat) : (tcmdStatus s part n).groups = s.groups := rfl
@[simp] theorem tcmdStatus_packets (s : State) (part : BitVec 4) (n : Nat) : (tcmdStatus s part n).packets = s.packets := rfl
@[simp] theorem tcmdStatus_nextPkt (s : State) (part : BitVec 4) (n : Nat) : (tcmdStatus s part n).nextPkt = s.nextPkt := rfl
@[simp] theorem tcmdStatus_inbound (s : State) (part : BitVec 4) (n : Nat) : (tcmdStatus s part n).inbound = s.inbound := rfl
@[simp] theorem tcmdStatus_tlb (s : State) (part : BitVec 4) (n : Nat) : (tcmdStatus s part n).tlb = s.tlb := rfl
@[simp] theorem tcmdStatus_walks (s : State) (part : BitVec 4) (n : Nat) : (tcmdStatus s part n).walks = s.walks := rfl
@[simp] theorem tcmdStatus_reads (s : State) (part : BitVec 4) (n : Nat) : (tcmdStatus s part n).reads = s.reads := rfl
@[simp] theorem tcmdStatus_parks (s : State) (part : BitVec 4) (n : Nat) : (tcmdStatus s part n).parks = s.parks := rfl
@[simp] theorem tcmdStatus_faults (s : State) (part : BitVec 4) (n : Nat) : (tcmdStatus s part n).faults = s.faults := rfl
@[simp] theorem tcmdStatus_heldFlt (s : State) (part : BitVec 4) (n : Nat) : (tcmdStatus s part n).heldFlt = s.heldFlt := rfl
@[simp] theorem tcmdStatus_reds (s : State) (part : BitVec 4) (n : Nat) : (tcmdStatus s part n).reds = s.reds := rfl
@[simp] theorem tcmdStatus_redWait (s : State) (part : BitVec 4) (n : Nat) : (tcmdStatus s part n).redWait = s.redWait := rfl
@[simp] theorem tcmdStatus_asids (s : State) (part : BitVec 4) (n : Nat) : (tcmdStatus s part n).asids = s.asids := rfl
@[simp] theorem tcmdStatus_tcmds (s : State) (part : BitVec 4) (n : Nat) : (tcmdStatus s part n).tcmds = s.tcmds ++ [⟨part, n⟩] := rfl
@[simp] theorem tcmdStatus_tpend (s : State) (part : BitVec 4) (n : Nat) : (tcmdStatus s part n).tpend = s.tpend := rfl
@[simp] theorem tcmdStatus_twait (s : State) (part : BitVec 4) (n : Nat) : (tcmdStatus s part n).twait = s.twait := rfl
@[simp] theorem tcmdStatus_images (s : State) (part : BitVec 4) (n : Nat) : (tcmdStatus s part n).images = s.images := rfl
@[simp] theorem tcmdStatus_jobs (s : State) (part : BitVec 4) (n : Nat) : (tcmdStatus s part n).jobs = s.jobs := rfl
@[simp] theorem tcmdStatus_order (s : State) (part : BitVec 4) (n : Nat) : (tcmdStatus s part n).order = s.order := rfl
@[simp] theorem tcmdStatus_events (s : State) (part : BitVec 4) (n : Nat) : (tcmdStatus s part n).events = s.events := rfl
@[simp] theorem tcmdStatus_cores (s : State) (part : BitVec 4) (n : Nat) : (tcmdStatus s part n).cores = s.cores := rfl
@[simp] theorem tcmdStatus_frames (s : State) (part : BitVec 4) (n : Nat) : (tcmdStatus s part n).frames = s.frames := rfl
@[simp] theorem tcmdStatus_enc (s : State) (part : BitVec 4) (n : Nat) : (tcmdStatus s part n).enc = s.enc := rfl
@[simp] theorem tcmdStatus_pantries (s : State) (part : BitVec 4) (n : Nat) : (tcmdStatus s part n).pantries = s.pantries := rfl
@[simp] theorem tcmdStatus_text (s : State) (part : BitVec 4) (n : Nat) : (tcmdStatus s part n).text = s.text := rfl
@[simp] theorem tcmdStatus_pkg (s : State) (part : BitVec 4) (n : Nat) : (tcmdStatus s part n).pkg = s.pkg := rfl
@[simp] theorem tcmdStatus_freeCtr (s : State) (part : BitVec 4) (n : Nat) : (tcmdStatus s part n).freeCtr = s.freeCtr := rfl
@[simp] theorem tcmdStatus_stamp (s : State) (part : BitVec 4) (n : Nat) : (tcmdStatus s part n).stamp = s.stamp := rfl
@[simp] theorem tcmdStatus_agenda (s : State) (part : BitVec 4) (n : Nat) : (tcmdStatus s part n).agenda = s.agenda := rfl

/-! ### A partition descriptor written -/

@[simp] theorem putPart_unit (s : State) (d : PartDesc) : (putPart s d).unit = s.unit := rfl
@[simp] theorem putPart_here (s : State) (d : PartDesc) : (putPart s d).here = s.here := rfl
@[simp] theorem putPart_peers (s : State) (d : PartDesc) : (putPart s d).peers = s.peers := rfl
@[simp] theorem putPart_area (s : State) (d : PartDesc) : (putPart s d).area = s.area := rfl
@[simp] theorem putPart_areaMem (s : State) (d : PartDesc) : (putPart s d).areaMem = s.areaMem := rfl
@[simp] theorem putPart_ringPos (s : State) (d : PartDesc) : (putPart s d).ringPos = s.ringPos := rfl
@[simp] theorem putPart_ringOut (s : State) (d : PartDesc) : (putPart s d).ringOut = s.ringOut := rfl
@[simp] theorem putPart_aside (s : State) (d : PartDesc) : (putPart s d).aside = s.aside := rfl
@[simp] theorem putPart_time (s : State) (d : PartDesc) : (putPart s d).time = s.time := rfl
@[simp] theorem putPart_dram (s : State) (d : PartDesc) : (putPart s d).dram = s.dram := rfl
@[simp] theorem putPart_dramKey (s : State) (d : PartDesc) : (putPart s d).dramKey = s.dramKey := rfl
@[simp] theorem putPart_llc (s : State) (d : PartDesc) : (putPart s d).llc = s.llc := rfl
@[simp] theorem putPart_bad (s : State) (d : PartDesc) : (putPart s d).bad = s.bad := rfl
@[simp] theorem putPart_owed (s : State) (d : PartDesc) : (putPart s d).owed = s.owed := rfl
@[simp] theorem putPart_pinned (s : State) (d : PartDesc) : (putPart s d).pinned = s.pinned := rfl
@[simp] theorem putPart_owners (s : State) (d : PartDesc) : (putPart s d).owners = s.owners := rfl
@[simp] theorem putPart_zeroing (s : State) (d : PartDesc) : (putPart s d).zeroing = s.zeroing := rfl
@[simp] theorem putPart_stats (s : State) (d : PartDesc) : (putPart s d).stats = s.stats := rfl
@[simp] theorem putPart_groups (s : State) (d : PartDesc) : (putPart s d).groups = s.groups := rfl
@[simp] theorem putPart_packets (s : State) (d : PartDesc) : (putPart s d).packets = s.packets := rfl
@[simp] theorem putPart_nextPkt (s : State) (d : PartDesc) : (putPart s d).nextPkt = s.nextPkt := rfl
@[simp] theorem putPart_inbound (s : State) (d : PartDesc) : (putPart s d).inbound = s.inbound := rfl
@[simp] theorem putPart_tlb (s : State) (d : PartDesc) : (putPart s d).tlb = s.tlb := rfl
@[simp] theorem putPart_walks (s : State) (d : PartDesc) : (putPart s d).walks = s.walks := rfl
@[simp] theorem putPart_reads (s : State) (d : PartDesc) : (putPart s d).reads = s.reads := rfl
@[simp] theorem putPart_parks (s : State) (d : PartDesc) : (putPart s d).parks = s.parks := rfl
@[simp] theorem putPart_faults (s : State) (d : PartDesc) : (putPart s d).faults = s.faults := rfl
@[simp] theorem putPart_heldFlt (s : State) (d : PartDesc) : (putPart s d).heldFlt = s.heldFlt := rfl
@[simp] theorem putPart_reds (s : State) (d : PartDesc) : (putPart s d).reds = s.reds := rfl
@[simp] theorem putPart_redWait (s : State) (d : PartDesc) : (putPart s d).redWait = s.redWait := rfl
@[simp] theorem putPart_asids (s : State) (d : PartDesc) : (putPart s d).asids = s.asids := rfl
@[simp] theorem putPart_tcmds (s : State) (d : PartDesc) : (putPart s d).tcmds = s.tcmds := rfl
@[simp] theorem putPart_tpend (s : State) (d : PartDesc) : (putPart s d).tpend = s.tpend := rfl
@[simp] theorem putPart_twait (s : State) (d : PartDesc) : (putPart s d).twait = s.twait := rfl
@[simp] theorem putPart_images (s : State) (d : PartDesc) : (putPart s d).images = s.images := rfl
@[simp] theorem putPart_jobs (s : State) (d : PartDesc) : (putPart s d).jobs = s.jobs := rfl
@[simp] theorem putPart_order (s : State) (d : PartDesc) : (putPart s d).order = s.order := rfl
@[simp] theorem putPart_events (s : State) (d : PartDesc) : (putPart s d).events = s.events := rfl
@[simp] theorem putPart_cores (s : State) (d : PartDesc) : (putPart s d).cores = s.cores := rfl
@[simp] theorem putPart_frames (s : State) (d : PartDesc) : (putPart s d).frames = s.frames := rfl
@[simp] theorem putPart_enc (s : State) (d : PartDesc) : (putPart s d).enc = s.enc := rfl
@[simp] theorem putPart_pantries (s : State) (d : PartDesc) : (putPart s d).pantries = s.pantries := rfl
@[simp] theorem putPart_text (s : State) (d : PartDesc) : (putPart s d).text = s.text := rfl
@[simp] theorem putPart_pkg (s : State) (d : PartDesc) : (putPart s d).pkg = { s.pkg with parts := mset s.pkg.parts d.part.toNat d } := rfl
@[simp] theorem putPart_freeCtr (s : State) (d : PartDesc) : (putPart s d).freeCtr = s.freeCtr := rfl
@[simp] theorem putPart_stamp (s : State) (d : PartDesc) : (putPart s d).stamp = s.stamp := rfl
@[simp] theorem putPart_agenda (s : State) (d : PartDesc) : (putPart s d).agenda = s.agenda := rfl

/-! ### A fresh key -/

@[simp] theorem freshKey_unit (s : State) (part : BitVec 4) : (freshKey s part).unit = s.unit := rfl
@[simp] theorem freshKey_here (s : State) (part : BitVec 4) : (freshKey s part).here = s.here := rfl
@[simp] theorem freshKey_peers (s : State) (part : BitVec 4) : (freshKey s part).peers = s.peers := rfl
@[simp] theorem freshKey_area (s : State) (part : BitVec 4) : (freshKey s part).area = s.area := rfl
@[simp] theorem freshKey_areaMem (s : State) (part : BitVec 4) : (freshKey s part).areaMem = s.areaMem := rfl
@[simp] theorem freshKey_ringPos (s : State) (part : BitVec 4) : (freshKey s part).ringPos = s.ringPos := rfl
@[simp] theorem freshKey_ringOut (s : State) (part : BitVec 4) : (freshKey s part).ringOut = s.ringOut := rfl
@[simp] theorem freshKey_aside (s : State) (part : BitVec 4) : (freshKey s part).aside = s.aside := rfl
@[simp] theorem freshKey_time (s : State) (part : BitVec 4) : (freshKey s part).time = s.time := rfl
@[simp] theorem freshKey_dram (s : State) (part : BitVec 4) : (freshKey s part).dram = s.dram := rfl
@[simp] theorem freshKey_dramKey (s : State) (part : BitVec 4) : (freshKey s part).dramKey = s.dramKey := rfl
@[simp] theorem freshKey_llc (s : State) (part : BitVec 4) : (freshKey s part).llc = s.llc := rfl
@[simp] theorem freshKey_bad (s : State) (part : BitVec 4) : (freshKey s part).bad = s.bad := rfl
@[simp] theorem freshKey_owed (s : State) (part : BitVec 4) : (freshKey s part).owed = s.owed := rfl
@[simp] theorem freshKey_pinned (s : State) (part : BitVec 4) : (freshKey s part).pinned = s.pinned := rfl
@[simp] theorem freshKey_owners (s : State) (part : BitVec 4) : (freshKey s part).owners = s.owners := rfl
@[simp] theorem freshKey_zeroing (s : State) (part : BitVec 4) : (freshKey s part).zeroing = s.zeroing := rfl
@[simp] theorem freshKey_stats (s : State) (part : BitVec 4) : (freshKey s part).stats = s.stats := rfl
@[simp] theorem freshKey_groups (s : State) (part : BitVec 4) : (freshKey s part).groups = s.groups := rfl
@[simp] theorem freshKey_packets (s : State) (part : BitVec 4) : (freshKey s part).packets = s.packets := rfl
@[simp] theorem freshKey_nextPkt (s : State) (part : BitVec 4) : (freshKey s part).nextPkt = s.nextPkt := rfl
@[simp] theorem freshKey_inbound (s : State) (part : BitVec 4) : (freshKey s part).inbound = s.inbound := rfl
@[simp] theorem freshKey_tlb (s : State) (part : BitVec 4) : (freshKey s part).tlb = s.tlb := rfl
@[simp] theorem freshKey_walks (s : State) (part : BitVec 4) : (freshKey s part).walks = s.walks := rfl
@[simp] theorem freshKey_reads (s : State) (part : BitVec 4) : (freshKey s part).reads = s.reads := rfl
@[simp] theorem freshKey_parks (s : State) (part : BitVec 4) : (freshKey s part).parks = s.parks := rfl
@[simp] theorem freshKey_faults (s : State) (part : BitVec 4) : (freshKey s part).faults = s.faults := rfl
@[simp] theorem freshKey_heldFlt (s : State) (part : BitVec 4) : (freshKey s part).heldFlt = s.heldFlt := rfl
@[simp] theorem freshKey_reds (s : State) (part : BitVec 4) : (freshKey s part).reds = s.reds := rfl
@[simp] theorem freshKey_redWait (s : State) (part : BitVec 4) : (freshKey s part).redWait = s.redWait := rfl
@[simp] theorem freshKey_asids (s : State) (part : BitVec 4) : (freshKey s part).asids = s.asids := rfl
@[simp] theorem freshKey_tcmds (s : State) (part : BitVec 4) : (freshKey s part).tcmds = s.tcmds := rfl
@[simp] theorem freshKey_tpend (s : State) (part : BitVec 4) : (freshKey s part).tpend = s.tpend := rfl
@[simp] theorem freshKey_twait (s : State) (part : BitVec 4) : (freshKey s part).twait = s.twait := rfl
@[simp] theorem freshKey_images (s : State) (part : BitVec 4) : (freshKey s part).images = s.images := rfl
@[simp] theorem freshKey_jobs (s : State) (part : BitVec 4) : (freshKey s part).jobs = s.jobs := rfl
@[simp] theorem freshKey_order (s : State) (part : BitVec 4) : (freshKey s part).order = s.order := rfl
@[simp] theorem freshKey_events (s : State) (part : BitVec 4) : (freshKey s part).events = s.events := rfl
@[simp] theorem freshKey_cores (s : State) (part : BitVec 4) : (freshKey s part).cores = s.cores := rfl
@[simp] theorem freshKey_frames (s : State) (part : BitVec 4) : (freshKey s part).frames = s.frames := rfl
@[simp] theorem freshKey_enc (s : State) (part : BitVec 4) : (freshKey s part).enc = s.enc := rfl
@[simp] theorem freshKey_pantries (s : State) (part : BitVec 4) : (freshKey s part).pantries = s.pantries := rfl
@[simp] theorem freshKey_text (s : State) (part : BitVec 4) : (freshKey s part).text = s.text := rfl
@[simp] theorem freshKey_pkg (s : State) (part : BitVec 4) : (freshKey s part).pkg = { s.pkg with keys := mset s.pkg.keys part.toNat s.pkg.nextKey, nextKey := s.pkg.nextKey + 1 } := rfl
@[simp] theorem freshKey_freeCtr (s : State) (part : BitVec 4) : (freshKey s part).freeCtr = s.freeCtr := rfl
@[simp] theorem freshKey_stamp (s : State) (part : BitVec 4) : (freshKey s part).stamp = s.stamp := rfl
@[simp] theorem freshKey_agenda (s : State) (part : BitVec 4) : (freshKey s part).agenda = s.agenda := rfl

/-! ### The loop depth set -/

@[simp] theorem setLdepth_lc (l : LoopState) (v : W64) : (setLdepth l v).lc = l.lc := rfl
@[simp] theorem setLdepth_start (l : LoopState) (v : W64) : (setLdepth l v).start = l.start := rfl
@[simp] theorem setLdepth_last (l : LoopState) (v : W64) : (setLdepth l v).last = l.last := rfl
@[simp] theorem setLdepth_depth (l : LoopState) (v : W64) : (setLdepth l v).depth = fld v 0 3 := rfl

/-! ### A scalar register written -/

@[simp] theorem setG_run (u : Unit) (r : BitVec 6) (v : W64) : (setG u r v).run = u.run := by unfold setG; split <;> rfl
@[simp] theorem setG_pc (u : Unit) (r : BitVec 6) (v : W64) : (setG u r v).pc = u.pc := by unfold setG; split <;> rfl
@[simp] theorem setG_istore (u : Unit) (r : BitVec 6) (v : W64) : (setG u r v).istore = u.istore := by unfold setG; split <;> rfl
@[simp] theorem setG_cyc (u : Unit) (r : BitVec 6) (v : W64) : (setG u r v).cyc = u.cyc := by unfold setG; split <;> rfl
@[simp] theorem setG_p (u : Unit) (r : BitVec 6) (v : W64) : (setG u r v).p = u.p := by unfold setG; split <;> rfl
@[simp] theorem setG_v (u : Unit) (r : BitVec 6) (v : W64) : (setG u r v).v = u.v := by unfold setG; split <;> rfl
@[simp] theorem setG_m (u : Unit) (r : BitVec 6) (v : W64) : (setG u r v).m = u.m := by unfold setG; split <;> rfl
@[simp] theorem setG_loops (u : Unit) (r : BitVec 6) (v : W64) : (setG u r v).loops = u.loops := by unfold setG; split <;> rfl
@[simp] theorem setG_landing (u : Unit) (r : BitVec 6) (v : W64) : (setG u r v).landing = u.landing := by unfold setG; split <;> rfl
@[simp] theorem setG_cr (u : Unit) (r : BitVec 6) (v : W64) : (setG u r v).cr = u.cr := by unfold setG; split <;> rfl
@[simp] theorem setG_pad (u : Unit) (r : BitVec 6) (v : W64) : (setG u r v).pad = u.pad := by unfold setG; split <;> rfl
@[simp] theorem setG_mx (u : Unit) (r : BitVec 6) (v : W64) : (setG u r v).mx = u.mx := by unfold setG; split <;> rfl
@[simp] theorem setG_nl (u : Unit) (r : BitVec 6) (v : W64) : (setG u r v).nl = u.nl := by unfold setG; split <;> rfl
@[simp] theorem setG_ns (u : Unit) (r : BitVec 6) (v : W64) : (setG u r v).ns = u.ns := by unfold setG; split <;> rfl
@[simp] theorem setG_nc (u : Unit) (r : BitVec 6) (v : W64) : (setG u r v).nc = u.nc := by unfold setG; split <;> rfl
@[simp] theorem setG_nt (u : Unit) (r : BitVec 6) (v : W64) : (setG u r v).nt = u.nt := by unfold setG; split <;> rfl
@[simp] theorem setG_cq0 (u : Unit) (r : BitVec 6) (v : W64) : (setG u r v).cq0 = u.cq0 := by unfold setG; split <;> rfl
@[simp] theorem setG_cq1 (u : Unit) (r : BitVec 6) (v : W64) : (setG u r v).cq1 = u.cq1 := by unfold setG; split <;> rfl
@[simp] theorem setG_fqw (u : Unit) (r : BitVec 6) (v : W64) : (setG u r v).fqw = u.fqw := by unfold setG; split <;> rfl
@[simp] theorem setG_fqn (u : Unit) (r : BitVec 6) (v : W64) : (setG u r v).fqn = u.fqn := by unfold setG; split <;> rfl
@[simp] theorem setG_rq (u : Unit) (r : BitVec 6) (v : W64) : (setG u r v).rq = u.rq := by unfold setG; split <;> rfl
@[simp] theorem setG_kq (u : Unit) (r : BitVec 6) (v : W64) : (setG u r v).kq = u.kq := by unfold setG; split <;> rfl
@[simp] theorem setG_seqs (u : Unit) (r : BitVec 6) (v : W64) : (setG u r v).seqs = u.seqs := by unfold setG; split <;> rfl
@[simp] theorem setG_rels (u : Unit) (r : BitVec 6) (v : W64) : (setG u r v).rels = u.rels := by unfold setG; split <;> rfl
@[simp] theorem setG_qfences (u : Unit) (r : BitVec 6) (v : W64) : (setG u r v).qfences = u.qfences := by unfold setG; split <;> rfl
@[simp] theorem setG_nextAcc (u : Unit) (r : BitVec 6) (v : W64) : (setG u r v).nextAcc = u.nextAcc := by unfold setG; split <;> rfl
@[simp] theorem setG_accs (u : Unit) (r : BitVec 6) (v : W64) : (setG u r v).accs = u.accs := by unfold setG; split <;> rfl
@[simp] theorem setG_fences (u : Unit) (r : BitVec 6) (v : W64) : (setG u r v).fences = u.fences := by unfold setG; split <;> rfl
@[simp] theorem setG_deferred (u : Unit) (r : BitVec 6) (v : W64) : (setG u r v).deferred = u.deferred := by unfold setG; split <;> rfl
@[simp] theorem setG_posted (u : Unit) (r : BitVec 6) (v : W64) : (setG u r v).posted = u.posted := by unfold setG; split <;> rfl
@[simp] theorem setG_l1 (u : Unit) (r : BitVec 6) (v : W64) : (setG u r v).l1 = u.l1 := by unfold setG; split <;> rfl
@[simp] theorem setG_l1bound (u : Unit) (r : BitVec 6) (v : W64) : (setG u r v).l1bound = u.l1bound := by unfold setG; split <;> rfl
@[simp] theorem setG_rt (u : Unit) (r : BitVec 6) (v : W64) : (setG u r v).rt = u.rt := by unfold setG; split <;> rfl
@[simp] theorem setG_launch (u : Unit) (r : BitVec 6) (v : W64) : (setG u r v).launch = u.launch := by unfold setG; split <;> rfl
@[simp] theorem setG_ctx (u : Unit) (r : BitVec 6) (v : W64) : (setG u r v).ctx = u.ctx := by unfold setG; split <;> rfl
@[simp] theorem setG_sig (u : Unit) (r : BitVec 6) (v : W64) : (setG u r v).sig = u.sig := by unfold setG; split <;> rfl
@[simp] theorem setG_request (u : Unit) (r : BitVec 6) (v : W64) : (setG u r v).request = u.request := by unfold setG; split <;> rfl
@[simp] theorem setG_triggers (u : Unit) (r : BitVec 6) (v : W64) : (setG u r v).triggers = u.triggers := by unfold setG; split <;> rfl
@[simp] theorem setG_wdheld (u : Unit) (r : BitVec 6) (v : W64) : (setG u r v).wdheld = u.wdheld := by unfold setG; split <;> rfl
@[simp] theorem setG_stub (u : Unit) (r : BitVec 6) (v : W64) : (setG u r v).stub = u.stub := by unfold setG; split <;> rfl
@[simp] theorem setG_stubpc (u : Unit) (r : BitVec 6) (v : W64) : (setG u r v).stubpc = u.stubpc := by unfold setG; split <;> rfl

/-! ### A predicate written -/

@[simp] theorem setP_run (u : Unit) (r : BitVec 3) (v : Bool) : (setP u r v).run = u.run := by unfold setP; split <;> rfl
@[simp] theorem setP_pc (u : Unit) (r : BitVec 3) (v : Bool) : (setP u r v).pc = u.pc := by unfold setP; split <;> rfl
@[simp] theorem setP_istore (u : Unit) (r : BitVec 3) (v : Bool) : (setP u r v).istore = u.istore := by unfold setP; split <;> rfl
@[simp] theorem setP_cyc (u : Unit) (r : BitVec 3) (v : Bool) : (setP u r v).cyc = u.cyc := by unfold setP; split <;> rfl
@[simp] theorem setP_g (u : Unit) (r : BitVec 3) (v : Bool) : (setP u r v).g = u.g := by unfold setP; split <;> rfl
@[simp] theorem setP_v (u : Unit) (r : BitVec 3) (v : Bool) : (setP u r v).v = u.v := by unfold setP; split <;> rfl
@[simp] theorem setP_m (u : Unit) (r : BitVec 3) (v : Bool) : (setP u r v).m = u.m := by unfold setP; split <;> rfl
@[simp] theorem setP_loops (u : Unit) (r : BitVec 3) (v : Bool) : (setP u r v).loops = u.loops := by unfold setP; split <;> rfl
@[simp] theorem setP_landing (u : Unit) (r : BitVec 3) (v : Bool) : (setP u r v).landing = u.landing := by unfold setP; split <;> rfl
@[simp] theorem setP_cr (u : Unit) (r : BitVec 3) (v : Bool) : (setP u r v).cr = u.cr := by unfold setP; split <;> rfl
@[simp] theorem setP_pad (u : Unit) (r : BitVec 3) (v : Bool) : (setP u r v).pad = u.pad := by unfold setP; split <;> rfl
@[simp] theorem setP_mx (u : Unit) (r : BitVec 3) (v : Bool) : (setP u r v).mx = u.mx := by unfold setP; split <;> rfl
@[simp] theorem setP_nl (u : Unit) (r : BitVec 3) (v : Bool) : (setP u r v).nl = u.nl := by unfold setP; split <;> rfl
@[simp] theorem setP_ns (u : Unit) (r : BitVec 3) (v : Bool) : (setP u r v).ns = u.ns := by unfold setP; split <;> rfl
@[simp] theorem setP_nc (u : Unit) (r : BitVec 3) (v : Bool) : (setP u r v).nc = u.nc := by unfold setP; split <;> rfl
@[simp] theorem setP_nt (u : Unit) (r : BitVec 3) (v : Bool) : (setP u r v).nt = u.nt := by unfold setP; split <;> rfl
@[simp] theorem setP_cq0 (u : Unit) (r : BitVec 3) (v : Bool) : (setP u r v).cq0 = u.cq0 := by unfold setP; split <;> rfl
@[simp] theorem setP_cq1 (u : Unit) (r : BitVec 3) (v : Bool) : (setP u r v).cq1 = u.cq1 := by unfold setP; split <;> rfl
@[simp] theorem setP_fqw (u : Unit) (r : BitVec 3) (v : Bool) : (setP u r v).fqw = u.fqw := by unfold setP; split <;> rfl
@[simp] theorem setP_fqn (u : Unit) (r : BitVec 3) (v : Bool) : (setP u r v).fqn = u.fqn := by unfold setP; split <;> rfl
@[simp] theorem setP_rq (u : Unit) (r : BitVec 3) (v : Bool) : (setP u r v).rq = u.rq := by unfold setP; split <;> rfl
@[simp] theorem setP_kq (u : Unit) (r : BitVec 3) (v : Bool) : (setP u r v).kq = u.kq := by unfold setP; split <;> rfl
@[simp] theorem setP_seqs (u : Unit) (r : BitVec 3) (v : Bool) : (setP u r v).seqs = u.seqs := by unfold setP; split <;> rfl
@[simp] theorem setP_rels (u : Unit) (r : BitVec 3) (v : Bool) : (setP u r v).rels = u.rels := by unfold setP; split <;> rfl
@[simp] theorem setP_qfences (u : Unit) (r : BitVec 3) (v : Bool) : (setP u r v).qfences = u.qfences := by unfold setP; split <;> rfl
@[simp] theorem setP_nextAcc (u : Unit) (r : BitVec 3) (v : Bool) : (setP u r v).nextAcc = u.nextAcc := by unfold setP; split <;> rfl
@[simp] theorem setP_accs (u : Unit) (r : BitVec 3) (v : Bool) : (setP u r v).accs = u.accs := by unfold setP; split <;> rfl
@[simp] theorem setP_fences (u : Unit) (r : BitVec 3) (v : Bool) : (setP u r v).fences = u.fences := by unfold setP; split <;> rfl
@[simp] theorem setP_deferred (u : Unit) (r : BitVec 3) (v : Bool) : (setP u r v).deferred = u.deferred := by unfold setP; split <;> rfl
@[simp] theorem setP_posted (u : Unit) (r : BitVec 3) (v : Bool) : (setP u r v).posted = u.posted := by unfold setP; split <;> rfl
@[simp] theorem setP_l1 (u : Unit) (r : BitVec 3) (v : Bool) : (setP u r v).l1 = u.l1 := by unfold setP; split <;> rfl
@[simp] theorem setP_l1bound (u : Unit) (r : BitVec 3) (v : Bool) : (setP u r v).l1bound = u.l1bound := by unfold setP; split <;> rfl
@[simp] theorem setP_rt (u : Unit) (r : BitVec 3) (v : Bool) : (setP u r v).rt = u.rt := by unfold setP; split <;> rfl
@[simp] theorem setP_launch (u : Unit) (r : BitVec 3) (v : Bool) : (setP u r v).launch = u.launch := by unfold setP; split <;> rfl
@[simp] theorem setP_ctx (u : Unit) (r : BitVec 3) (v : Bool) : (setP u r v).ctx = u.ctx := by unfold setP; split <;> rfl
@[simp] theorem setP_sig (u : Unit) (r : BitVec 3) (v : Bool) : (setP u r v).sig = u.sig := by unfold setP; split <;> rfl
@[simp] theorem setP_request (u : Unit) (r : BitVec 3) (v : Bool) : (setP u r v).request = u.request := by unfold setP; split <;> rfl
@[simp] theorem setP_triggers (u : Unit) (r : BitVec 3) (v : Bool) : (setP u r v).triggers = u.triggers := by unfold setP; split <;> rfl
@[simp] theorem setP_wdheld (u : Unit) (r : BitVec 3) (v : Bool) : (setP u r v).wdheld = u.wdheld := by unfold setP; split <;> rfl
@[simp] theorem setP_stub (u : Unit) (r : BitVec 3) (v : Bool) : (setP u r v).stub = u.stub := by unfold setP; split <;> rfl
@[simp] theorem setP_stubpc (u : Unit) (r : BitVec 3) (v : Bool) : (setP u r v).stubpc = u.stubpc := by unfold setP; split <;> rfl

/-! ### Lanes of a vector register written -/

@[simp] theorem setV_run (u : Unit) (r : BitVec 5) (bits data : VReg) : (setV u r bits data).run = u.run := rfl
@[simp] theorem setV_pc (u : Unit) (r : BitVec 5) (bits data : VReg) : (setV u r bits data).pc = u.pc := rfl
@[simp] theorem setV_istore (u : Unit) (r : BitVec 5) (bits data : VReg) : (setV u r bits data).istore = u.istore := rfl
@[simp] theorem setV_cyc (u : Unit) (r : BitVec 5) (bits data : VReg) : (setV u r bits data).cyc = u.cyc := rfl
@[simp] theorem setV_g (u : Unit) (r : BitVec 5) (bits data : VReg) : (setV u r bits data).g = u.g := rfl
@[simp] theorem setV_p (u : Unit) (r : BitVec 5) (bits data : VReg) : (setV u r bits data).p = u.p := rfl
@[simp] theorem setV_m (u : Unit) (r : BitVec 5) (bits data : VReg) : (setV u r bits data).m = u.m := rfl
@[simp] theorem setV_loops (u : Unit) (r : BitVec 5) (bits data : VReg) : (setV u r bits data).loops = u.loops := rfl
@[simp] theorem setV_landing (u : Unit) (r : BitVec 5) (bits data : VReg) : (setV u r bits data).landing = u.landing := rfl
@[simp] theorem setV_cr (u : Unit) (r : BitVec 5) (bits data : VReg) : (setV u r bits data).cr = u.cr := rfl
@[simp] theorem setV_pad (u : Unit) (r : BitVec 5) (bits data : VReg) : (setV u r bits data).pad = u.pad := rfl
@[simp] theorem setV_mx (u : Unit) (r : BitVec 5) (bits data : VReg) : (setV u r bits data).mx = u.mx := rfl
@[simp] theorem setV_nl (u : Unit) (r : BitVec 5) (bits data : VReg) : (setV u r bits data).nl = u.nl := rfl
@[simp] theorem setV_ns (u : Unit) (r : BitVec 5) (bits data : VReg) : (setV u r bits data).ns = u.ns := rfl
@[simp] theorem setV_nc (u : Unit) (r : BitVec 5) (bits data : VReg) : (setV u r bits data).nc = u.nc := rfl
@[simp] theorem setV_nt (u : Unit) (r : BitVec 5) (bits data : VReg) : (setV u r bits data).nt = u.nt := rfl
@[simp] theorem setV_cq0 (u : Unit) (r : BitVec 5) (bits data : VReg) : (setV u r bits data).cq0 = u.cq0 := rfl
@[simp] theorem setV_cq1 (u : Unit) (r : BitVec 5) (bits data : VReg) : (setV u r bits data).cq1 = u.cq1 := rfl
@[simp] theorem setV_fqw (u : Unit) (r : BitVec 5) (bits data : VReg) : (setV u r bits data).fqw = u.fqw := rfl
@[simp] theorem setV_fqn (u : Unit) (r : BitVec 5) (bits data : VReg) : (setV u r bits data).fqn = u.fqn := rfl
@[simp] theorem setV_rq (u : Unit) (r : BitVec 5) (bits data : VReg) : (setV u r bits data).rq = u.rq := rfl
@[simp] theorem setV_kq (u : Unit) (r : BitVec 5) (bits data : VReg) : (setV u r bits data).kq = u.kq := rfl
@[simp] theorem setV_seqs (u : Unit) (r : BitVec 5) (bits data : VReg) : (setV u r bits data).seqs = u.seqs := rfl
@[simp] theorem setV_rels (u : Unit) (r : BitVec 5) (bits data : VReg) : (setV u r bits data).rels = u.rels := rfl
@[simp] theorem setV_qfences (u : Unit) (r : BitVec 5) (bits data : VReg) : (setV u r bits data).qfences = u.qfences := rfl
@[simp] theorem setV_nextAcc (u : Unit) (r : BitVec 5) (bits data : VReg) : (setV u r bits data).nextAcc = u.nextAcc := rfl
@[simp] theorem setV_accs (u : Unit) (r : BitVec 5) (bits data : VReg) : (setV u r bits data).accs = u.accs := rfl
@[simp] theorem setV_fences (u : Unit) (r : BitVec 5) (bits data : VReg) : (setV u r bits data).fences = u.fences := rfl
@[simp] theorem setV_deferred (u : Unit) (r : BitVec 5) (bits data : VReg) : (setV u r bits data).deferred = u.deferred := rfl
@[simp] theorem setV_posted (u : Unit) (r : BitVec 5) (bits data : VReg) : (setV u r bits data).posted = u.posted := rfl
@[simp] theorem setV_l1 (u : Unit) (r : BitVec 5) (bits data : VReg) : (setV u r bits data).l1 = u.l1 := rfl
@[simp] theorem setV_l1bound (u : Unit) (r : BitVec 5) (bits data : VReg) : (setV u r bits data).l1bound = u.l1bound := rfl
@[simp] theorem setV_rt (u : Unit) (r : BitVec 5) (bits data : VReg) : (setV u r bits data).rt = u.rt := rfl
@[simp] theorem setV_launch (u : Unit) (r : BitVec 5) (bits data : VReg) : (setV u r bits data).launch = u.launch := rfl
@[simp] theorem setV_ctx (u : Unit) (r : BitVec 5) (bits data : VReg) : (setV u r bits data).ctx = u.ctx := rfl
@[simp] theorem setV_sig (u : Unit) (r : BitVec 5) (bits data : VReg) : (setV u r bits data).sig = u.sig := rfl
@[simp] theorem setV_request (u : Unit) (r : BitVec 5) (bits data : VReg) : (setV u r bits data).request = u.request := rfl
@[simp] theorem setV_triggers (u : Unit) (r : BitVec 5) (bits data : VReg) : (setV u r bits data).triggers = u.triggers := rfl
@[simp] theorem setV_wdheld (u : Unit) (r : BitVec 5) (bits data : VReg) : (setV u r bits data).wdheld = u.wdheld := rfl
@[simp] theorem setV_stub (u : Unit) (r : BitVec 5) (bits data : VReg) : (setV u r bits data).stub = u.stub := rfl
@[simp] theorem setV_stubpc (u : Unit) (r : BitVec 5) (bits data : VReg) : (setV u r bits data).stubpc = u.stubpc := rfl

/-! ### Bits of a mask register written -/

@[simp] theorem setM_run (u : Unit) (r : BitVec 3) (bits data : W64) : (setM u r bits data).run = u.run := by unfold setM; split <;> rfl
@[simp] theorem setM_pc (u : Unit) (r : BitVec 3) (bits data : W64) : (setM u r bits data).pc = u.pc := by unfold setM; split <;> rfl
@[simp] theorem setM_istore (u : Unit) (r : BitVec 3) (bits data : W64) : (setM u r bits data).istore = u.istore := by unfold setM; split <;> rfl
@[simp] theorem setM_cyc (u : Unit) (r : BitVec 3) (bits data : W64) : (setM u r bits data).cyc = u.cyc := by unfold setM; split <;> rfl
@[simp] theorem setM_g (u : Unit) (r : BitVec 3) (bits data : W64) : (setM u r bits data).g = u.g := by unfold setM; split <;> rfl
@[simp] theorem setM_p (u : Unit) (r : BitVec 3) (bits data : W64) : (setM u r bits data).p = u.p := by unfold setM; split <;> rfl
@[simp] theorem setM_v (u : Unit) (r : BitVec 3) (bits data : W64) : (setM u r bits data).v = u.v := by unfold setM; split <;> rfl
@[simp] theorem setM_loops (u : Unit) (r : BitVec 3) (bits data : W64) : (setM u r bits data).loops = u.loops := by unfold setM; split <;> rfl
@[simp] theorem setM_landing (u : Unit) (r : BitVec 3) (bits data : W64) : (setM u r bits data).landing = u.landing := by unfold setM; split <;> rfl
@[simp] theorem setM_cr (u : Unit) (r : BitVec 3) (bits data : W64) : (setM u r bits data).cr = u.cr := by unfold setM; split <;> rfl
@[simp] theorem setM_pad (u : Unit) (r : BitVec 3) (bits data : W64) : (setM u r bits data).pad = u.pad := by unfold setM; split <;> rfl
@[simp] theorem setM_mx (u : Unit) (r : BitVec 3) (bits data : W64) : (setM u r bits data).mx = u.mx := by unfold setM; split <;> rfl
@[simp] theorem setM_nl (u : Unit) (r : BitVec 3) (bits data : W64) : (setM u r bits data).nl = u.nl := by unfold setM; split <;> rfl
@[simp] theorem setM_ns (u : Unit) (r : BitVec 3) (bits data : W64) : (setM u r bits data).ns = u.ns := by unfold setM; split <;> rfl
@[simp] theorem setM_nc (u : Unit) (r : BitVec 3) (bits data : W64) : (setM u r bits data).nc = u.nc := by unfold setM; split <;> rfl
@[simp] theorem setM_nt (u : Unit) (r : BitVec 3) (bits data : W64) : (setM u r bits data).nt = u.nt := by unfold setM; split <;> rfl
@[simp] theorem setM_cq0 (u : Unit) (r : BitVec 3) (bits data : W64) : (setM u r bits data).cq0 = u.cq0 := by unfold setM; split <;> rfl
@[simp] theorem setM_cq1 (u : Unit) (r : BitVec 3) (bits data : W64) : (setM u r bits data).cq1 = u.cq1 := by unfold setM; split <;> rfl
@[simp] theorem setM_fqw (u : Unit) (r : BitVec 3) (bits data : W64) : (setM u r bits data).fqw = u.fqw := by unfold setM; split <;> rfl
@[simp] theorem setM_fqn (u : Unit) (r : BitVec 3) (bits data : W64) : (setM u r bits data).fqn = u.fqn := by unfold setM; split <;> rfl
@[simp] theorem setM_rq (u : Unit) (r : BitVec 3) (bits data : W64) : (setM u r bits data).rq = u.rq := by unfold setM; split <;> rfl
@[simp] theorem setM_kq (u : Unit) (r : BitVec 3) (bits data : W64) : (setM u r bits data).kq = u.kq := by unfold setM; split <;> rfl
@[simp] theorem setM_seqs (u : Unit) (r : BitVec 3) (bits data : W64) : (setM u r bits data).seqs = u.seqs := by unfold setM; split <;> rfl
@[simp] theorem setM_rels (u : Unit) (r : BitVec 3) (bits data : W64) : (setM u r bits data).rels = u.rels := by unfold setM; split <;> rfl
@[simp] theorem setM_qfences (u : Unit) (r : BitVec 3) (bits data : W64) : (setM u r bits data).qfences = u.qfences := by unfold setM; split <;> rfl
@[simp] theorem setM_nextAcc (u : Unit) (r : BitVec 3) (bits data : W64) : (setM u r bits data).nextAcc = u.nextAcc := by unfold setM; split <;> rfl
@[simp] theorem setM_accs (u : Unit) (r : BitVec 3) (bits data : W64) : (setM u r bits data).accs = u.accs := by unfold setM; split <;> rfl
@[simp] theorem setM_fences (u : Unit) (r : BitVec 3) (bits data : W64) : (setM u r bits data).fences = u.fences := by unfold setM; split <;> rfl
@[simp] theorem setM_deferred (u : Unit) (r : BitVec 3) (bits data : W64) : (setM u r bits data).deferred = u.deferred := by unfold setM; split <;> rfl
@[simp] theorem setM_posted (u : Unit) (r : BitVec 3) (bits data : W64) : (setM u r bits data).posted = u.posted := by unfold setM; split <;> rfl
@[simp] theorem setM_l1 (u : Unit) (r : BitVec 3) (bits data : W64) : (setM u r bits data).l1 = u.l1 := by unfold setM; split <;> rfl
@[simp] theorem setM_l1bound (u : Unit) (r : BitVec 3) (bits data : W64) : (setM u r bits data).l1bound = u.l1bound := by unfold setM; split <;> rfl
@[simp] theorem setM_rt (u : Unit) (r : BitVec 3) (bits data : W64) : (setM u r bits data).rt = u.rt := by unfold setM; split <;> rfl
@[simp] theorem setM_launch (u : Unit) (r : BitVec 3) (bits data : W64) : (setM u r bits data).launch = u.launch := by unfold setM; split <;> rfl
@[simp] theorem setM_ctx (u : Unit) (r : BitVec 3) (bits data : W64) : (setM u r bits data).ctx = u.ctx := by unfold setM; split <;> rfl
@[simp] theorem setM_sig (u : Unit) (r : BitVec 3) (bits data : W64) : (setM u r bits data).sig = u.sig := by unfold setM; split <;> rfl
@[simp] theorem setM_request (u : Unit) (r : BitVec 3) (bits data : W64) : (setM u r bits data).request = u.request := by unfold setM; split <;> rfl
@[simp] theorem setM_triggers (u : Unit) (r : BitVec 3) (bits data : W64) : (setM u r bits data).triggers = u.triggers := by unfold setM; split <;> rfl
@[simp] theorem setM_wdheld (u : Unit) (r : BitVec 3) (bits data : W64) : (setM u r bits data).wdheld = u.wdheld := by unfold setM; split <;> rfl
@[simp] theorem setM_stub (u : Unit) (r : BitVec 3) (bits data : W64) : (setM u r bits data).stub = u.stub := by unfold setM; split <;> rfl
@[simp] theorem setM_stubpc (u : Unit) (r : BitVec 3) (bits data : W64) : (setM u r bits data).stubpc = u.stubpc := by unfold setM; split <;> rfl

/-! ### Registers read -/

@[simp] theorem gReg_zero (u : Unit) : gReg u 0#6 = 0#64 := rfl

@[simp] theorem pReg_zero (u : Unit) : pReg u 0#3 = true := rfl

@[simp] theorem mReg_zero (u : Unit) : mReg u 0#3 = BitVec.allOnes 64 := rfl

/-- A register written reads the value written, and no other changes; G0 keeps 0. -/
theorem gReg_setG (u : Unit) (r k : BitVec 6) (v : W64) : gReg (setG u r v) k = if k = r ∧ r ≠ 0#6 then v else gReg u k := by
  unfold setG
  by_cases h : r = 0#6
  · simp [h]
  · by_cases hk : k = r
    · subst hk; simp [gReg, h]
    · have hn : r.toNat ≠ k.toNat := fun e => hk (BitVec.eq_of_toNat_eq e.symm)
      simp [gReg, h, hk, Vector.getElem_set_ne _ _ hn]

/-- The same of a vector register, under the bits written. -/
theorem vReg_setV (u : Unit) (r k : BitVec 5) (bits data : VReg) :
    vReg (setV u r bits data) k = if k = r then (vReg u k &&& ~~~bits) ||| (data &&& bits) else vReg u k := by
  by_cases hk : k = r
  · subst hk; simp [vReg, setV]
  · have hn : r.toNat ≠ k.toNat := fun e => hk (BitVec.eq_of_toNat_eq e.symm)
    simp [vReg, setV, hk, Vector.getElem_set_ne _ _ hn]

/-- The same of a mask register; M0 keeps its ones. -/
theorem mReg_setM (u : Unit) (r k : BitVec 3) (bits data : W64) :
    mReg (setM u r bits data) k = if k = r ∧ r ≠ 0#3 then (mReg u k &&& ~~~bits) ||| (data &&& bits) else mReg u k := by
  unfold setM
  by_cases h : r = 0#3
  · simp [h]
  · by_cases hk : k = r
    · subst hk; simp [mReg, h]
    · have hn : r.toNat ≠ k.toNat := fun e => hk (BitVec.eq_of_toNat_eq e.symm)
      simp [mReg, h, hk, Vector.getElem_set_ne _ _ hn]

end Sys2Proof.Machine
end

