-- ==== Sys2Proof/Laws/Frames.lean ====
section
/-! SUPPORT. What the memory system leaves alone: translations, fills, reads and writes of engines, fault records and flushes change only what
the memory system itself holds, and keep main memory in its canonical form. -/

namespace Sys2Proof.Machine

/-- t differs from s only in main memory, its keys and its bad sectors, the LLC with its owners, statistics, merge groups and packets, the translations, the
parked accesses and fault records, and the counters of free values and events; and where s keeps memory in canonical form, so does t. -/
structure MemOnly (s t : State) : Prop where
  unit     : t.unit = s.unit
  here     : t.here = s.here
  aside    : t.aside = s.aside
  areaMem  : t.areaMem = s.areaMem
  ringPos  : t.ringPos = s.ringPos
  ringOut  : t.ringOut = s.ringOut
  twait    : t.twait = s.twait
  peers    : t.peers = s.peers
  area     : t.area = s.area
  time     : t.time = s.time
  pinned   : t.pinned = s.pinned
  reds     : t.reds = s.reds
  redWait  : t.redWait = s.redWait
  asids    : t.asids = s.asids
  tcmds    : t.tcmds = s.tcmds
  tpend    : t.tpend = s.tpend
  images   : t.images = s.images
  jobs     : t.jobs = s.jobs
  order    : t.order = s.order
  events   : t.events = s.events
  cores    : t.cores = s.cores
  frames   : t.frames = s.frames
  enc      : t.enc = s.enc
  pantries : t.pantries = s.pantries
  text     : t.text = s.text
  pkg      : t.pkg = s.pkg
  agenda   : t.agenda = s.agenda
  form     : Memory.wf s.dram = true → Memory.wf t.dram = true

theorem MemOnly.refl (s : State) : MemOnly s s := by constructor <;> first | rfl | exact id

theorem MemOnly.trans {a b c : State} (h : MemOnly a b) (k : MemOnly b c) : MemOnly a c :=
  ⟨k.unit.trans h.unit, k.here.trans h.here, k.aside.trans h.aside, k.areaMem.trans h.areaMem, k.ringPos.trans h.ringPos,
    k.ringOut.trans h.ringOut, k.twait.trans h.twait, k.peers.trans h.peers, k.area.trans h.area, k.time.trans h.time, k.pinned.trans h.pinned, k.reds.trans h.reds,
    k.redWait.trans h.redWait, k.asids.trans h.asids, k.tcmds.trans h.tcmds, k.tpend.trans h.tpend, k.images.trans h.images,
    k.jobs.trans h.jobs, k.order.trans h.order, k.events.trans h.events, k.cores.trans h.cores, k.frames.trans h.frames, k.enc.trans h.enc,
    k.pantries.trans h.pantries, k.text.trans h.text, k.pkg.trans h.pkg, k.agenda.trans h.agenda, fun x => k.form (h.form x)⟩

/-- Steps of a fold that each leave the rest alone leave it alone together. -/
theorem MemOnly.foldl {α : Type} (f : State → α → State) (h : ∀ s a, MemOnly s (f s a)) (l : List α) (s : State) :
    MemOnly s (l.foldl f s) := by
  induction l generalizing s with
  | nil => exact .refl s
  | cons a l ih => exact (h s a).trans (ih _)

/-- The same of a fold that carries an answer beside the state. -/
theorem MemOnly.foldl_pair {α β : Type} (f : State × β → α → State × β) (h : ∀ s b a, MemOnly s (f (s, b) a).1) (l : List α) (s : State)
    (b : β) : MemOnly s (l.foldl f (s, b)).1 := by
  induction l generalizing s b with
  | nil => exact .refl s
  | cons a l ih => exact (h s b a).trans (ih (f (s, b) a).1 (f (s, b) a).2)

/-! ### Main memory and the LLC -/

theorem rekeySector_memOnly (s : State) (key i : Nat) : MemOnly s (rekeySector s key i) := by
  constructor <;> first | rfl | exact wf_writeBytes _ _ _

theorem dramWrite_memOnly (s : State) (key pa : Nat) (bs : List Byte) : MemOnly s (dramWrite s key pa bs) := by
  have h : MemOnly s ((foreignSectors s key pa bs.length).foldl (fun t i => rekeySector t key i) s) :=
    MemOnly.foldl _ (fun t i => rekeySector_memOnly t key i) _ s
  constructor <;> first | rfl | exact fun x => wf_writeBytes _ _ _ (h.form x)

/-- Lines written back to main memory and dropped from the LLC. -/
theorem writeBack_memOnly (s : State) (key sector : Nat) : MemOnly s (writeBack s key sector) := by
  unfold writeBack
  split
  · exact .refl s
  · dsimp only
    split
    · constructor <;> first | rfl | exact id
    · refine MemOnly.trans (b := { s with llc := mdel s.llc sector }) (by constructor <;> first | rfl | exact id)
        (MemOnly.foldl _ (fun s i => ?_) _ _)
      split
      · exact dramWrite_memOnly _ _ _ _
      · exact .refl _

theorem evictLine_memOnly (s : State) (p : BitVec 4) (f : Sector → Bool) : MemOnly s (evictLine s p f) :=
  MemOnly.trans (b := { s with freeCtr := s.freeCtr + 1 }) (by constructor <;> first | rfl | exact id)
    (MemOnly.foldl _ (fun s i => writeBack_memOnly s _ i) _ _)

theorem evictLines_memOnly (h : BitVec 6) (p : BitVec 4) (n : Nat) (s : State) : MemOnly s (evictLines h p n s) := by
  induction n generalizing s with
  | zero => exact .refl s
  | succ n ih =>
    simp only [evictLines]
    split
    · exact (evictLine_memOnly _ _ _).trans (ih _)
    · exact .refl s

/-- An eviction touches memory alone. -/
theorem makeRoom_memOnly (s : State) (h : BitVec 6) (f : Nat) : MemOnly s (makeRoom s h f) := by
  unfold makeRoom
  split
  · exact .refl s
  · exact evictLines_memOnly _ _ _ _

theorem fillSector_memOnly (s : State) (h : BitVec 6) (key sector : Nat) : MemOnly s (fillSector s h key sector) :=
  MemOnly.trans (b := { s with llc := _ }) (by constructor <;> first | rfl | exact id) (makeRoom_memOnly _ _ _)

theorem fillSectors_memOnly (s : State) (h : BitVec 6) (key line : Nat) (need : BitVec 4) : MemOnly s (fillSectors s h key line need) :=
  MemOnly.foldl _ (fun s i => by
    split
    · exact fillSector_memOnly _ _ _ _
    · exact .refl _) _ s

theorem zeroFrames_memOnly (s : State) (f n : Nat) : MemOnly s (zeroFrames s f n) := by
  constructor <;> first | rfl | exact wf_mclear _ _ _

theorem touchZero_memOnly (s : State) (f n leaf : Nat) : MemOnly s (touchZero s f n leaf) := by
  unfold touchZero
  split
  · exact .refl s
  · exact (zeroFrames_memOnly s f n).trans (by constructor <;> first | rfl | exact id)

theorem dropZeroed_memOnly (s : State) (leaf : Nat) (v : W64) : MemOnly s (dropZeroed s leaf v) := by
  constructor <;> first | rfl | exact id

theorem allocZero_memOnly (s : State) (h : BitVec 6) (pas : List Nat) : MemOnly s (allocZero s h pas) := by
  unfold allocZero
  split
  · exact .refl s
  · exact MemOnly.trans (b := { s with llc := _ }) (by constructor <;> first | rfl | exact id) (makeRoom_memOnly _ _ _)

theorem addStats_memOnly (s : State) (h : BitVec 6) (f : SliceStats → SliceStats) : MemOnly s (addStats s h f) := by
  constructor <;> first | rfl | exact id

theorem splitGroups_memOnly (s : State) (h : BitVec 6) (line : Nat) : MemOnly s (splitGroups s h line) := by
  unfold splitGroups
  split
  · constructor <;> first | rfl | exact id
  · exact .refl s

theorem homeWrite_memOnly (s : State) (h : BitVec 6) (pas : List (Nat × Byte)) : MemOnly s (homeWrite s h pas) := by
  unfold homeWrite
  split
  · exact .refl s
  · exact ((splitGroups_memOnly s h _).trans (MemOnly.trans (b := { splitGroups s h _ with llc := _, stamp := _ })
      (by constructor <;> first | rfl | exact id) (makeRoom_memOnly _ _ _)))

theorem sendPacket_memOnly (s : State) (h : BitVec 6) (p : Packet) : MemOnly s (sendPacket s h p) := by
  constructor <;> first | rfl | exact id

theorem lineRead_memOnly (s : State) (h : BitVec 6) (key line : Nat) (pas : List Nat) (members : List (Nat × Nat)) (puts : List LadlePut) :
    MemOnly s (lineRead s h key line pas members puts).1 := by
  unfold lineRead
  dsimp only
  repeat' split
  all_goals first | (constructor <;> first | rfl | exact id)

theorem completeFill_memOnly (s : State) (h : BitVec 6) (line : Nat) : MemOnly s (completeFill s h line) := by
  unfold completeFill
  dsimp only
  split
  · exact .refl s
  · refine ((MemOnly.foldl _ (fun s g => sendPacket_memOnly s h _) _ s).trans
      (MemOnly.foldl _ (fun s i => ?_) (upto 0 4) _)).trans (by constructor <;> first | rfl | exact id)
    split
    · exact fillSector_memOnly _ _ _ _
    · exact .refl _

theorem wholeRead_memOnly (s : State) (h : BitVec 6) (key line : Nat) (pas : List Nat) (by_ : List (Nat × Nat)) :
    MemOnly s (wholeRead s h key line pas by_).1 := by
  unfold wholeRead
  dsimp only
  split
  · exact lineRead_memOnly ..
  · exact (addStats_memOnly s h _).trans (fillSectors_memOnly _ _ _ _ _)

theorem flushFrame_memOnly (s : State) (f : Nat) : MemOnly s (flushFrame s f) :=
  MemOnly.foldl _ (fun s i => writeBack_memOnly s _ i) _ s

/-! ### Translation -/

theorem fillWalk_memOnly (s : State) (h : BitVec 6) (slot : BitVec 12) (gen : BitVec 4) (va lvl : Nat) (x : W64) :
    MemOnly s (fillWalk s h slot gen va lvl x) := by constructor <;> first | rfl | exact id

theorem descend_memOnly (h : BitVec 6) (slot : BitVec 12) (gen : BitVec 4) (key va kind lvl t : Nat) (sc : BitVec 2) (s : State) :
    MemOnly s (descend h slot gen key va kind lvl t sc s).1 := by
  induction lvl generalizing t sc s with
  | zero => exact .refl s
  | succ lvl ih =>
    have h0 : MemOnly s { s with reads := s.reads + 1 } := by constructor <;> first | rfl | exact id
    simp only [descend]
    split
    · exact h0
    · exact h0
    · exact h0.trans ((fillWalk_memOnly _ _ _ _ _ _ _).trans (ih _ _ _))

theorem walk_memOnly (s : State) (h : BitVec 6) (slot : BitVec 12) (gen : BitVec 4) (va kind : Nat) (cached : Bool) :
    MemOnly s (walk s h slot gen va kind cached).1 := by
  have fill : ∀ (s : State) (c : Prop) [Decidable c] (key pa : Nat) (bs : List Byte) (l : List TlbEntry),
      MemOnly s { (if c then s else dramWrite s key pa bs) with tlb := l } := by
    intro s c _ key pa bs l
    by_cases h : c <;> simp only [h, if_true, if_false]
    · constructor <;> first | rfl | exact id
    · exact (dramWrite_memOnly s key pa bs).trans (by constructor <;> first | rfl | exact id)
  unfold walk
  split
  · exact .refl s
  · split
    · exact .refl s
    · dsimp only
      split
      · next h1 => exact (congrArg Prod.fst h1 ▸ descend_memOnly ..)
      · next h1 =>
        refine (congrArg Prod.fst h1 ▸ descend_memOnly ..).trans ?_
        exact fill _ _ _ _ _ _

theorem locate_memOnly (s : State) (w : Who) (va : W64) (kind : Nat) (cached : Bool) : MemOnly s (locate s w va kind cached).1 := by
  have page : ∀ (s : State) (leaf : W64) (pa : Nat), MemOnly s
      (if fbit leaf 9 then (s, Except.ok (Place.host pa))
      else
        let part := slotPart s w.slot
        (({ s with owners := mset s.owners (pa / 4096) part }, .ok (.mem pa (keyOf s part) (isZeroing s (pa / 4096)))) :
          State × Except XStop Place)).1 := by
    intro s leaf pa
    split
    · exact .refl s
    · constructor <;> first | rfl | exact id
  have zero : ∀ (s : State) (b : Bool) (f n leaf : Nat), MemOnly s (if b then touchZero s f n leaf else s) := by
    intro s b f n leaf
    cases b
    · exact .refl s
    · exact touchZero_memOnly _ _ _ _
  unfold locate
  dsimp only
  split
  · exact .refl s
  · split
    · exact .refl s
    · split
      · exact page _ _ _
      · split
        · next h1 => exact (congrArg Prod.fst h1 ▸ walk_memOnly ..)
        · next h1 => exact (congrArg Prod.fst h1 ▸ walk_memOnly ..).trans ((zero _ _ _ _ _).trans (page _ _ _))

/-! ### Fault records and parked accesses -/

theorem writeFault_memOnly (s : State) (part : BitVec 4) (r : FaultRecord) : MemOnly s (writeFault s part r) := by
  unfold writeFault
  split <;> (constructor <;> first | rfl | exact id)

theorem hold_memOnly (s : State) (w : Who) (va : W64) (kind : Nat) (p : Parked) (e : XStop) : MemOnly s (hold s w va kind p e).1 := by
  unfold hold
  split
  · exact .refl s
  · dsimp only
    split
    · exact writeFault_memOnly _ _ _
    · exact MemOnly.trans (b := { s with parks := _ }) (by constructor <;> first | rfl | exact id) (writeFault_memOnly _ _ _)

theorem hostError_memOnly (s : State) (w : Who) (va : W64) (kind : Nat) : MemOnly s (hostError s w va kind) := writeFault_memOnly _ _ _

/-! ### Reads and writes of engines -/

theorem meetBad_memOnly (s : State) (sector : Nat) : MemOnly s (meetBad s sector) := by constructor <;> first | rfl | exact id

theorem readPiece_memOnly (s : State) (w : Who) (kind : Nat) (va : W64) (n : Nat) : MemOnly s (readPiece s w kind va n).1 := by
  have h := locate_memOnly s w va kind true
  have ctr : ∀ s : State, MemOnly s { s with freeCtr := s.freeCtr + 1 } := fun s => by constructor <;> first | rfl | exact id
  unfold readPiece
  split
  · next h1 => rw [h1] at h; exact h
  · next h1 =>
    rw [h1] at h
    refine h.trans ?_
    split
    · split
      · exact meetBad_memOnly _ _
      · exact ctr _
    · dsimp only
      split
      · exact (allocZero_memOnly _ _ _).trans (wholeRead_memOnly _ _ _ _ _ _)
      · exact wholeRead_memOnly _ _ _ _ _ _
  · next h1 =>
    rw [h1] at h
    split
    · exact h.trans (ctr _)
    · exact h.trans ((ctr _).trans (hostError_memOnly _ _ _ _))
  · next h1 => rw [h1] at h; exact h.trans (ctr _)

theorem vread_memOnly (s : State) (w : Who) (kind : Nat) (va : W64) (n : Nat) : MemOnly s (vread s w kind va n).1 := by
  refine MemOnly.foldl_pair _ (fun s b a => ?_) _ s _
  obtain ⟨a, k⟩ := a
  dsimp only
  split
  · exact .refl s
  · have h := readPiece_memOnly s w kind a k
    split <;> (next h1 => rw [h1] at h; exact h)

theorem vcheck_memOnly (s : State) (w : Who) (kind : Nat) (ranges : List (W64 × Nat)) : MemOnly s (vcheck s w kind ranges).1 := by
  refine MemOnly.foldl_pair _ (fun s b a => ?_) _ s _
  obtain ⟨a, k⟩ := a
  dsimp only
  split
  · exact .refl s
  · have h := locate_memOnly s w a kind true
    split <;> (next h1 => rw [h1] at h; exact h)

theorem writePiece_memOnly (s : State) (w : Who) (va : W64) (bs : List Byte) : MemOnly s (writePiece s w false va bs).1 := by
  have h := locate_memOnly s w va 1 true
  have ctr : ∀ s : State, MemOnly s { s with freeCtr := s.freeCtr + 1 } := fun s => by constructor <;> first | rfl | exact id
  unfold writePiece
  split
  · next h1 => rw [h1] at h; exact h
  · next h1 =>
    rw [h1] at h
    refine h.trans (MemOnly.trans ?_ (homeWrite_memOnly _ _ _))
    split
    · exact allocZero_memOnly _ _ _
    · exact .refl _
  · next h1 =>
    rw [h1] at h
    split
    · exact h.trans (ctr _)
    · exact h.trans ((ctr _).trans (hostError_memOnly _ _ _ _))
  · next h1 => rw [h1] at h; exact h.trans (ctr _)

/-- A write by an agent that is not of the core: no L1 takes it. -/
theorem vwrite_memOnly (s : State) (w : Who) (va : W64) (bs : List Byte) : MemOnly s (vwrite s w false va bs).1 := by
  refine MemOnly.foldl_pair _ (fun s b a => ?_) _ s _
  obtain ⟨a, cs⟩ := a
  dsimp only
  split
  · exact .refl s
  · exact writePiece_memOnly _ _ _ _

/-- A write by the submitter through its own mapping. -/
theorem vpoke_memOnly (s : State) (w : Who) (va : W64) (bs : List Byte) : MemOnly s (vpoke s w va bs) := by
  refine MemOnly.foldl _ (fun s a => ?_) _ s
  obtain ⟨a, cs⟩ := a
  dsimp only
  have h := locate_memOnly s w a 0 true
  split
  · next h1 =>
    rw [h1] at h
    refine h.trans (MemOnly.trans ?_ (homeWrite_memOnly _ _ _))
    split
    · exact allocZero_memOnly _ _ _
    · exact .refl _
  · next h1 => rw [h1] at h; exact h

/-! ### Requests of agents outside the modelled core -/

theorem agentRead_memOnly (s : State) (w : Who) (va : W64) (n : Nat) : MemOnly s (agentRead s w va n) := by
  refine MemOnly.foldl _ (fun s a => ?_) _ s
  obtain ⟨a, k⟩ := a
  dsimp only
  have h := locate_memOnly s w a 0 true
  split
  · next h1 =>
    rw [h1] at h
    refine h.trans (MemOnly.trans ?_ (lineRead_memOnly ..))
    split
    · exact allocZero_memOnly _ _ _
    · exact .refl _
  · exact readPiece_memOnly _ _ _ _ _

theorem atomAt_memOnly (s : State) (h : BitVec 6) (key pa : Nat) (op : AtomOp) (ty : AtomTy) (v e : BitVec 128) :
    MemOnly s (atomAt s h key pa op ty v e).1 := by
  have k := wholeRead_memOnly s h key (pa / 128) (upto pa ty.bytes) []
  unfold atomAt
  dsimp only
  split
  · exact k.trans (homeWrite_memOnly _ _ _)
  · exact k

theorem agentAtom_memOnly (s : State) (w : Who) (va : W64) (op : AtomOp) (ty : AtomTy) (v e : BitVec 128) :
    MemOnly s (agentAtom s w va op ty v e) := by
  have h := locate_memOnly s w va 2 true
  have ctr : ∀ s : State, MemOnly s { s with freeCtr := s.freeCtr + 1 } := fun s => by constructor <;> first | rfl | exact id
  unfold agentAtom
  split
  · next h1 =>
    rw [h1] at h
    refine h.trans (MemOnly.trans ?_ (atomAt_memOnly ..))
    split
    · exact allocZero_memOnly _ _ _
    · exact .refl _
  · next h1 =>
    rw [h1] at h
    dsimp only
    split
    · exact h.trans ((ctr _).trans (hostError_memOnly _ _ _ _))
    · exact h.trans (ctr _)
  · exact .refl s

/-- A request of an agent outside the modelled core leaves the unit and everything but the memory system alone; a contribution to an ordered
reduction, which may complete its group, is not meant. -/
theorem agentServe_memOnly (s : State) (q : Requester) (hq : ∀ r ty nm1 rank v, q ≠ .red r ty nm1 rank v) :
    MemOnly s (agentServe s q) := by
  unfold agentServe
  split
  · exact .refl s
  · next r _ =>
    split
    · exact .refl s
    · dsimp only
      have h := vcheck_memOnly s (agentWho s r) (requestKind q) [(r.va, requestSize q)]
      split
      · next h1 => rw [h1] at h; exact h.trans (hold_memOnly _ _ _ _ _ _)
      · next h1 =>
        rw [h1] at h
        cases q with
        | unit _ => exact h
        | read _ n => exact h.trans (agentRead_memOnly _ _ _ _)
        | write _ bs => exact h.trans (vwrite_memOnly _ _ _ _)
        | atom _ op ty v e => exact h.trans (agentAtom_memOnly ..)
        | red r ty nm1 rank v => exact absurd rfl (hq r ty nm1 rank v)

end Sys2Proof.Machine
end

