-- ==== Sys2Proof/Laws/Issue.lean ====
section
/-! SUPPORT. What a slot that issues alone can do: one lemma per answer (R30, R58, R220), and what landing, a trap and a stall leave alone. -/

namespace Sys2Proof.Machine

/-- The state after a slot's own effect: after an engine slot, the next one is EB. -/
def afterSlot (engine : Bool) (t : State) : State := if engine then t.mapUnit fun u => { u with ctx.ea := false } else t

theorem atIssue_slot (n : Nat) (s : State) :
    ((atIssue n s).mapUnit fun u => { u with ctx.slot := 0 }) = atIssue n s := rfl

/-- A slot that goes on: its effect, then the bundle retires. -/
theorem issueOne_go {e st c : Bool} {n : Nat} {f : State → SlotAnswer} {s t : State} (h : f (atIssue n s) = .go t) :
    issueOne e st n c f s = .next (afterIssue s.unit.pc 0 (retire (afterSlot e t))) := by
  cases e <;> cases st <;>
    simp [issueOne, issueOps, firstTrap, runBundle, runOps, atIssue_slot, h, afterSlot]

/-- A slot under whose trap the bundle does not issue. -/
theorem issueOne_trap {e st c : Bool} {n : Nat} {f : State → SlotAnswer} {s : State} {cause : Nat} {code : BitVec 12}
    (h : f (atIssue n s) = .trap cause code) : issueOne e st n c f s = .next (trapHere s 0 cause code) := by
  cases e <;> simp [issueOne, issueOps, firstTrap, atIssue_slot, h]

/-- A slot that cannot proceed: the sequencer stalls at the bundle, timed where the stall counts. -/
theorem issueOne_block {e st c : Bool} {n : Nat} {f : State → SlotAnswer} {s : State} (h : f (atIssue n s) = .block) :
    issueOne e st n c f s = .next (stall s c) := by
  cases e <;> cases st <;> cases c <;>
    simp [issueOne, issueOps, firstTrap, runBundle, runOps, countedBlockers, blockers, atIssue_slot, h]

/-- A deferred trap: the error is consumed and CR.MEMFAULT written, and the bundle does not issue. -/
theorem issueOne_deferred {e st c : Bool} {n : Nat} {f : State → SlotAnswer} {s t : State} {cause : Nat}
    (h : f (atIssue n s) = .deferred t cause) :
    issueOne e st n c f s = .next (trapHere (s.mapUnit fun u =>
      { u with deferred := t.unit.deferred, cr := { u.cr with memfault := t.unit.cr.memfault } }) 0 cause 0#12) := by
  cases e <;> simp [issueOne, issueOps, firstTrap, atIssue_slot, h]

/-- A slot whose arrival is made and that then waits, or goes on where the arrival lets it. -/
theorem issueOne_hold_wait {e st c : Bool} {n : Nat} {f : State → SlotAnswer} {s : State} {g k : State → State}
    (h : f (atIssue n s) = .hold g) (h2 : f (atIssue n (g s)) = .block ∨ f (atIssue n (g s)) = .hold k) :
    issueOne e st n c f s = .next (stall (g s) c) := by
  rcases h2 with h2 | h2 <;> cases e <;> cases st <;> cases c <;>
    simp [issueOne, issueOps, firstTrap, runBundle, runOps, countedBlockers, blockers, atIssue_slot, h, h2]

theorem issueOne_hold_go {e st c : Bool} {n : Nat} {f : State → SlotAnswer} {s t : State} {g : State → State}
    (h : f (atIssue n s) = .hold g) (h2 : f (atIssue n (g s)) = .go t) :
    issueOne e st n c f s = .next (afterIssue s.unit.pc 0 (retire (afterSlot e t))) := by
  cases e <;> cases st <;>
    simp [issueOne, issueOps, firstTrap, runBundle, runOps, atIssue_slot, h, h2, afterSlot]

/-! ### A slot whose effect is on the unit alone -/

/-- The place in a bundle with which a slot of n words reaches issue. -/
def startCtx (n : Nat) (b : State) : IssueCtx := { IssueCtx.start with npc := b.unit.pc.toNat + 4 * n, since := b.unit.ctx.since }

theorem atIssue_unit (n : Nat) (s : State) :
    atIssue n s = { landDue s with unit := { (landDue s).unit with ctx := startCtx n (landDue s) } } := rfl

theorem endTest_depth_zero (pc k : Nat) (l : LoopState) (h : l.depth = 0) : endTest pc k l = (l, none) := by
  cases k <;> simp [endTest, h]

/-- The retirement of a bundle whose only effect is on the unit, where the effect leaves the sequencer's fields alone. -/
theorem retire_effect (e : Bool) (n : Nat) (a : BitVec 19) (b : State) (v : Unit) (_hpc : v.pc = b.unit.pc)
    (hcyc : v.cyc = b.unit.cyc) (hl : v.loops = b.unit.loops) (hi : v.cr.issued = b.unit.cr.issued)
    (hp : v.cr.pending = b.unit.cr.pending) :
    let t := afterIssue a 0 (retire (afterSlot e { b with unit := { v with ctx := startCtx n b } }))
    Issued n b t ∧ t.unit.landing = v.landing ∧ t = sequenced { b with unit := v } t := by
  intro t
  refine ⟨⟨?_, ?_, fun h0 => ?_⟩, ?_, ?_⟩
  · cases e <;> simp [t, afterSlot, afterIssue, retire, State.mapUnit, startCtx, IssueCtx.start, hcyc]
  · cases e <;> simp [t, afterSlot, afterIssue, retire, State.mapUnit, startCtx, IssueCtx.start, hp, hi]
  · cases e <;> simp [t, afterSlot, afterIssue, retire, State.mapUnit, startCtx, IssueCtx.start, hl, endTest_depth_zero _ _ _ h0]
  · cases e <;> simp [t, afterSlot, afterIssue, retire, State.mapUnit, startCtx, IssueCtx.start]
  · cases e <;> simp [t, afterSlot, afterIssue, retire, State.mapUnit, startCtx, IssueCtx.start, sequenced]

/-- What a slot that goes on with an effect F on the unit does, F leaving the sequencer's fields alone. -/
theorem acts_of_go {i : Instr} {s : State} {e st c : Bool} {f : State → SlotAnswer} {F : Unit → Unit}
    (hx : exec i s = issueOne e st (slotWords i) c f s)
    (hf : f (atIssue (slotWords i) s) = .go { landDue s with unit := { F (landDue s).unit with ctx := startCtx (slotWords i) (landDue s) } })
    (hpc : (F (landDue s).unit).pc = (landDue s).unit.pc) (hcyc : (F (landDue s).unit).cyc = (landDue s).unit.cyc)
    (hl : (F (landDue s).unit).loops = (landDue s).unit.loops)
    (hi : (F (landDue s).unit).cr.issued = (landDue s).unit.cr.issued)
    (hp : (F (landDue s).unit).cr.pending = (landDue s).unit.cr.pending) : Acts i s F := by
  obtain ⟨h1, h2, h3⟩ := retire_effect e (slotWords i) s.unit.pc (landDue s) _ hpc hcyc hl hi hp
  exact ⟨_, hx.trans (issueOne_go hf), h1, h2, h3⟩

/-- A slot guarded off goes on without an effect. -/
theorem guarded_off {g : BitVec 4} {s : State} {f : State → SlotAnswer} (h : guardOn g s.unit = false) : guarded g s f = .go s := by
  simp [guarded, h]

/-- A slot whose guard is true does what it does. -/
theorem guarded_on {g : BitVec 4} {s : State} {f : State → SlotAnswer} (h : guardOn g s.unit = true) : guarded g s f = f s := by
  simp [guarded, h]

/-! ### What a landing, a trap and a stall leave alone -/

/-- A write of a control register that lands changes only the unit. -/
theorem crLand_rest (s : State) (n : Nat) (v : W64) : crLand s n v = { s with unit := (crLand s n v).unit } := by
  unfold crLand
  repeat' split
  all_goals first | rfl | skip
  unfold barrierAdvance
  dsimp only
  split <;> rfl

theorem landDest_rest (s : State) (d : Dest) : landDest s d = { s with unit := (landDest s d).unit } := by
  cases d <;> first | rfl | exact crLand_rest _ _ _

theorem landAll_rest (ls : List Landing) (s : State) : landAll s ls = { s with unit := (landAll s ls).unit } := by
  have h : ∀ (ls : List Landing) (s : State), ls.foldl (fun s l => landDest s l.dest) s
      = { s with unit := (ls.foldl (fun s l => landDest s l.dest) s).unit } := by
    intro ls
    induction ls with
    | nil => intro s; rfl
    | cons l ls ih =>
      intro s
      rw [List.foldl_cons, ih, landDest_rest s l.dest]
  simp only [landAll, setFlags, State.mapCr, State.mapUnit]
  rw [h]

/-- Landing changes only the unit. -/
theorem landDue_rest (s : State) : landDue s = { s with unit := (landDue s).unit } := by
  unfold landDue
  dsimp only
  rw [landAll_rest]
  rfl

/-- A freeze leaves the unit frozen at pc, with its registers and its banks. -/
theorem freeze_unit (s : State) (why : FreezeReason) (pc : BitVec 19) :
    (freeze s why pc).unit.run = .frozen why ∧ (freeze s why pc).unit.pc = pc ∧ (freeze s why pc).unit.g = s.unit.g
    ∧ (freeze s why pc).unit.pad = s.unit.pad ∧ (freeze s why pc).unit.cr.faultinfo = s.unit.cr.faultinfo := by
  by_cases h : s.unit.cr.pending = true <;> simp [freeze, unitEvent, h]

/-- A freeze changes only the unit, its context area and the list of unit events. -/
theorem freeze_rest (s : State) (why : FreezeReason) (pc : BitVec 19) :
    freeze s why pc = { s with
      unit := (freeze s why pc).unit, area := (freeze s why pc).area, events := (freeze s why pc).events } := by
  by_cases h : s.unit.cr.pending = true <;> simp [freeze, unitEvent, h]

/-- A freeze after CR.FAULTINFO has been written with v. -/
theorem freeze_faultinfo (s : State) (v : W64) (why : FreezeReason) (pc : BitVec 19) :
    let t := freeze (s.mapCr fun c => { c with faultinfo := v }) why pc
    t.unit.run = .frozen why ∧ t.unit.pc = pc ∧ t.unit.g = s.unit.g ∧ t.unit.pad = s.unit.pad ∧ t.unit.cr.faultinfo = v :=
  freeze_unit _ _ _

theorem trapHere_eq (s : State) (slot cause : Nat) (code : BitVec 12) : trapHere s slot cause code
    = freeze (s.mapCr fun c => { c with faultinfo := faultInfo s.unit.pc code slot cause }) .trap s.unit.pc := by
  rw [trapHere, takeTrap]

/-- A trap freezes the unit at the program counter, and CR.FAULTINFO names the bundle. -/
theorem trapHere_unit (s : State) (slot cause : Nat) (code : BitVec 12) :
    (trapHere s slot cause code).unit.run = .frozen .trap ∧ (trapHere s slot cause code).unit.pc = s.unit.pc
    ∧ (trapHere s slot cause code).unit.g = s.unit.g ∧ (trapHere s slot cause code).unit.pad = s.unit.pad
    ∧ (trapHere s slot cause code).unit.cr.faultinfo = faultInfo s.unit.pc code slot cause := by
  rw [trapHere_eq]
  exact freeze_faultinfo s _ .trap s.unit.pc

/-- A stall changes only the sequencer's note of it. -/
theorem stall_rest (s : State) (c : Bool) : stall s c = { s with unit := { s.unit with ctx := (stall s c).unit.ctx } } := rfl

end Sys2Proof.Machine
end

