-- ==== Sys2Proof/Laws/Landing.lean ====
section
/-! SUPPORT. What the landing of results leaves alone in the unit (R32, R34): the program counter, the run state, the counters of R218 but NS, the
queues, the mortar tables, and the registers that name the unit. -/

namespace Sys2Proof.Machine

/-- v keeps of u what no landing writes. -/
structure LandKeeps (u v : Unit) : Prop where
  run : v.run = u.run
  pc : v.pc = u.pc
  istore : v.istore = u.istore
  cyc : v.cyc = u.cyc
  nl : v.nl = u.nl
  nc : v.nc = u.nc
  nt : v.nt = u.nt
  cq0 : v.cq0 = u.cq0
  cq1 : v.cq1 = u.cq1
  fqw : v.fqw = u.fqw
  fqn : v.fqn = u.fqn
  rq : v.rq = u.rq
  kq : v.kq = u.kq
  seqs : v.seqs = u.seqs
  qfences : v.qfences = u.qfences
  fences : v.fences = u.fences
  posted : v.posted = u.posted
  l1 : v.l1 = u.l1
  l1bound : v.l1bound = u.l1bound
  rt : v.rt = u.rt
  launch : v.launch = u.launch
  ctxNpc : v.ctx.npc = u.ctx.npc
  ctxTarget : v.ctx.target = u.ctx.target
  ctxJump : v.ctx.jump = u.ctx.jump
  ctxSlot : v.ctx.slot = u.ctx.slot
  ctxEa : v.ctx.ea = u.ctx.ea
  ctxAfter : v.ctx.after = u.ctx.after
  ctxTried : v.ctx.tried = u.ctx.tried
  ctxSince : v.ctx.since = u.ctx.since
  sig : v.sig = u.sig
  request : v.request = u.request
  triggers : v.triggers = u.triggers
  wdheld : v.wdheld = u.wdheld
  stub : v.stub = u.stub
  stubpc : v.stubpc = u.stubpc
  crIssued : v.cr.issued = u.cr.issued
  crPending : v.cr.pending = u.cr.pending
  crRestore : v.cr.restore = u.cr.restore
  crSavepc : v.cr.savepc = u.cr.savepc
  crFaultinfo : v.cr.faultinfo = u.cr.faultinfo
  crMemfault : v.cr.memfault = u.cr.memfault
  crPart : v.cr.part = u.cr.part
  crJob : v.cr.job = u.cr.job
  crUnit : v.cr.unit = u.cr.unit
  crLcore : v.cr.lcore = u.cr.lcore
  crCluster : v.cr.cluster = u.cr.cluster
  crPcore : v.cr.pcore = u.cr.pcore
  crStepping : v.cr.stepping = u.cr.stepping
  crAsidSlot : v.cr.asidSlot = u.cr.asidSlot
  crAsidGen : v.cr.asidGen = u.cr.asidGen
  crCtxbase : v.cr.ctxbase = u.cr.ctxbase

theorem LandKeeps.refl (u : Unit) : LandKeeps u u := by constructor <;> rfl

theorem LandKeeps.trans {a b c : Unit} (h : LandKeeps a b) (k : LandKeeps b c) : LandKeeps a c :=
  ⟨k.run.trans h.run, k.pc.trans h.pc, k.istore.trans h.istore, k.cyc.trans h.cyc, k.nl.trans h.nl, k.nc.trans h.nc,
    k.nt.trans h.nt, k.cq0.trans h.cq0, k.cq1.trans h.cq1, k.fqw.trans h.fqw, k.fqn.trans h.fqn, k.rq.trans h.rq, k.kq.trans
    h.kq, k.seqs.trans h.seqs, k.qfences.trans h.qfences, k.fences.trans h.fences, k.posted.trans h.posted, k.l1.trans h.l1,
    k.l1bound.trans h.l1bound, k.rt.trans h.rt, k.launch.trans h.launch, k.ctxNpc.trans h.ctxNpc, k.ctxTarget.trans h.ctxTarget, k.ctxJump.trans h.ctxJump, k.ctxSlot.trans h.ctxSlot, k.ctxEa.trans h.ctxEa, k.ctxAfter.trans h.ctxAfter, k.ctxTried.trans h.ctxTried, k.ctxSince.trans h.ctxSince, k.sig.trans h.sig,
    k.request.trans h.request, k.triggers.trans h.triggers, k.wdheld.trans h.wdheld, k.stub.trans h.stub, k.stubpc.trans
    h.stubpc, k.crIssued.trans h.crIssued, k.crPending.trans h.crPending, k.crRestore.trans h.crRestore, k.crSavepc.trans
    h.crSavepc, k.crFaultinfo.trans h.crFaultinfo, k.crMemfault.trans h.crMemfault, k.crPart.trans h.crPart, k.crJob.trans
    h.crJob, k.crUnit.trans h.crUnit, k.crLcore.trans h.crLcore, k.crCluster.trans h.crCluster, k.crPcore.trans h.crPcore,
    k.crStepping.trans h.crStepping, k.crAsidSlot.trans h.crAsidSlot, k.crAsidGen.trans h.crAsidGen, k.crCtxbase.trans
    h.crCtxbase⟩

theorem LandKeeps.ite {u a b : Unit} {c : Prop} [Decidable c] (h : LandKeeps u a) (k : LandKeeps u b) :
    LandKeeps u (if c then a else b) := by
  by_cases hc : c
  · rw [if_pos hc]; exact h
  · rw [if_neg hc]; exact k

theorem setG_keeps (u : Unit) (r : BitVec 6) (v : W64) : LandKeeps u (setG u r v) := by
  unfold setG; split <;> (constructor <;> rfl)

theorem setP_keeps (u : Unit) (r : BitVec 3) (v : Bool) : LandKeeps u (setP u r v) := by
  unfold setP; split <;> (constructor <;> rfl)

theorem setV_keeps (u : Unit) (r : BitVec 5) (bits data : VReg) : LandKeeps u (setV u r bits data) := by constructor <;> rfl

theorem setM_keeps (u : Unit) (r : BitVec 3) (bits data : W64) : LandKeeps u (setM u r bits data) := by
  unfold setM; split <;> (constructor <;> rfl)

theorem crPoke_keeps (u : Unit) (n : Nat) (v : W64) : LandKeeps u (crPoke u n v) := by
  unfold crPoke
  repeat' apply LandKeeps.ite
  all_goals first | exact setM_keeps _ _ _ _ | (constructor <;> rfl)

theorem barrierAdvance_keeps (s : State) : LandKeeps s.unit (barrierAdvance s).unit := by
  unfold barrierAdvance
  dsimp only
  split
  · constructor <;> rfl
  · exact .refl _

theorem crLand_keeps (s : State) (n : Nat) (v : W64) : LandKeeps s.unit (crLand s n v).unit := by
  unfold crLand
  repeat' split
  all_goals first
    | exact crPoke_keeps _ _ _
    | exact (crPoke_keeps s.unit _ _).trans (by constructor <;> rfl)
    | exact LandKeeps.trans (b := (s.mapUnit fun u => barrierArrive u (v.setWidth 6)).unit) (by constructor <;> rfl) (barrierAdvance_keeps _)
    | (constructor <;> rfl)

theorem bindFeeder_keeps (u : Unit) (north : Bool) (f : Feeder) : LandKeeps u (bindFeeder u north f) := by
  unfold bindFeeder
  dsimp only
  cases north <;> (constructor <;> rfl)

theorem landDest_keeps (s : State) (d : Dest) : LandKeeps s.unit (landDest s d).unit := by
  cases d with
  | g r v => exact setG_keeps _ _ _
  | p r v => exact setP_keeps _ _ _
  | v r b d => exact setV_keeps _ _ _ _
  | m r b d => exact setM_keeps _ _ _ _
  | cr n v => exact crLand_keeps _ _ _
  | latch north sb zb d => cases north <;> (constructor <;> rfl)
  | mcfg c => constructor <;> rfl
  | feeder north f => exact bindFeeder_keeps _ _ _

theorem landAll_keeps (ls : List Landing) (s : State) : LandKeeps s.unit (landAll s ls).unit := by
  have h : ∀ (ls : List Landing) (s : State), LandKeeps s.unit (ls.foldl (fun s l => landDest s l.dest) s).unit := by
    intro ls
    induction ls with
    | nil => intro s; exact .refl _
    | cons l ls ih => intro s; exact (landDest_keeps s l.dest).trans (ih _)
  exact (h ls s).trans (by constructor <;> rfl)

theorem landDue_keeps (s : State) : LandKeeps s.unit (landDue s).unit := by
  unfold landDue
  dsimp only
  generalize (s.unit.landing.partition fun l => l.due ≤ s.unit.cyc).1 = now
  generalize (s.unit.landing.partition fun l => l.due ≤ s.unit.cyc).2 = later
  have h := landAll_keeps now (s.mapUnit fun u => { u with landing := later })
  exact LandKeeps.trans (b := (s.mapUnit fun u => { u with landing := later }).unit) (by constructor <;> rfl)
    (h.trans (by constructor <;> rfl))

end Sys2Proof.Machine
end

