-- ==== Sys2Proof/Laws/PerInstr.lean ====
section
/-! SUPPORT. Made per instruction: a slot has a word of 31 bits below the stop bit, and an event has none (R13, R15). -/

namespace Sys2Proof.Laws.Encoded

/-- What the encoder gives an instruction: a slot's word leaves the stop bit clear; an event has no word, no guard and no LIMM, and is
well formed. -/
def Statement (i : Instr) : Prop :=
  match i.word? with
  | some w => i.isEvent = false ∧ w < 2 ^ 31
  | none => i.isEvent = true ∧ i.guard? = none ∧ i.limm? = none ∧ i.wf = true

theorem pack_eq (v k r : Nat) : pack v k r = v * k + r := rfl

theorem bit_lt (b : Bool) : bit b < 2 := by cases b <;> decide

/-- A slot whose operand bits fit their place. -/
theorem slot {i : Instr} {kind op body : Nat} (hw : i.word? = some (slotWord kind op body)) (he : i.isEvent = false)
    (hb : kind < 8 ∧ op < 64 ∧ body < 4194304) : Statement i := by
  unfold Statement
  rw [hw]
  refine ⟨he, ?_⟩
  simp only [slotWord]
  omega

theorem add (d : BitVec 6) (a : BitVec 6) (b : BitVec 6) (g : BitVec 4) : Statement (.add d a b g) := slot rfl rfl (by (try simp only [pack_eq]); omega)
theorem sub (d : BitVec 6) (a : BitVec 6) (b : BitVec 6) (g : BitVec 4) : Statement (.sub d a b g) := slot rfl rfl (by (try simp only [pack_eq]); omega)
theorem and (d : BitVec 6) (a : BitVec 6) (b : BitVec 6) (g : BitVec 4) : Statement (.and d a b g) := slot rfl rfl (by (try simp only [pack_eq]); omega)
theorem or (d : BitVec 6) (a : BitVec 6) (b : BitVec 6) (g : BitVec 4) : Statement (.or d a b g) := slot rfl rfl (by (try simp only [pack_eq]); omega)
theorem xor (d : BitVec 6) (a : BitVec 6) (b : BitVec 6) (g : BitVec 4) : Statement (.xor d a b g) := slot rfl rfl (by (try simp only [pack_eq]); omega)
theorem andn (d : BitVec 6) (a : BitVec 6) (b : BitVec 6) (g : BitVec 4) : Statement (.andn d a b g) := slot rfl rfl (by (try simp only [pack_eq]); omega)
theorem shl (d : BitVec 6) (a : BitVec 6) (b : BitVec 6) (g : BitVec 4) : Statement (.shl d a b g) := slot rfl rfl (by (try simp only [pack_eq]); omega)
theorem shr (d : BitVec 6) (a : BitVec 6) (b : BitVec 6) (g : BitVec 4) : Statement (.shr d a b g) := slot rfl rfl (by (try simp only [pack_eq]); omega)
theorem sar (d : BitVec 6) (a : BitVec 6) (b : BitVec 6) (g : BitVec 4) : Statement (.sar d a b g) := slot rfl rfl (by (try simp only [pack_eq]); omega)
theorem rotl (d : BitVec 6) (a : BitVec 6) (b : BitVec 6) (g : BitVec 4) : Statement (.rotl d a b g) := slot rfl rfl (by (try simp only [pack_eq]); omega)
theorem mul (d : BitVec 6) (a : BitVec 6) (b : BitVec 6) (g : BitVec 4) : Statement (.mul d a b g) := slot rfl rfl (by (try simp only [pack_eq]); omega)
theorem mulh (d : BitVec 6) (a : BitVec 6) (b : BitVec 6) (g : BitVec 4) : Statement (.mulh d a b g) := slot rfl rfl (by (try simp only [pack_eq]); omega)
theorem mulhu (d : BitVec 6) (a : BitVec 6) (b : BitVec 6) (g : BitVec 4) : Statement (.mulhu d a b g) := slot rfl rfl (by (try simp only [pack_eq]); omega)
theorem div (d : BitVec 6) (a : BitVec 6) (b : BitVec 6) (g : BitVec 4) : Statement (.div d a b g) := slot rfl rfl (by (try simp only [pack_eq]); omega)
theorem divu (d : BitVec 6) (a : BitVec 6) (b : BitVec 6) (g : BitVec 4) : Statement (.divu d a b g) := slot rfl rfl (by (try simp only [pack_eq]); omega)
theorem rem (d : BitVec 6) (a : BitVec 6) (b : BitVec 6) (g : BitVec 4) : Statement (.rem d a b g) := slot rfl rfl (by (try simp only [pack_eq]); omega)
theorem remu (d : BitVec 6) (a : BitVec 6) (b : BitVec 6) (g : BitVec 4) : Statement (.remu d a b g) := slot rfl rfl (by (try simp only [pack_eq]); omega)
theorem min (d : BitVec 6) (a : BitVec 6) (b : BitVec 6) (g : BitVec 4) : Statement (.min d a b g) := slot rfl rfl (by (try simp only [pack_eq]); omega)
theorem max (d : BitVec 6) (a : BitVec 6) (b : BitVec 6) (g : BitVec 4) : Statement (.max d a b g) := slot rfl rfl (by (try simp only [pack_eq]); omega)
theorem minu (d : BitVec 6) (a : BitVec 6) (b : BitVec 6) (g : BitVec 4) : Statement (.minu d a b g) := slot rfl rfl (by (try simp only [pack_eq]); omega)
theorem maxu (d : BitVec 6) (a : BitVec 6) (b : BitVec 6) (g : BitVec 4) : Statement (.maxu d a b g) := slot rfl rfl (by (try simp only [pack_eq]); omega)
theorem addi (d : BitVec 6) (a : BitVec 6) (imm : BitVec 6) (g : BitVec 4) (x : Option Limm) : Statement (.addi d a imm g x) := slot rfl rfl (by (try simp only [pack_eq]); omega)
theorem andi (d : BitVec 6) (a : BitVec 6) (imm : BitVec 6) (g : BitVec 4) (x : Option Limm) : Statement (.andi d a imm g x) := slot rfl rfl (by (try simp only [pack_eq]); omega)
theorem ori (d : BitVec 6) (a : BitVec 6) (imm : BitVec 6) (g : BitVec 4) (x : Option Limm) : Statement (.ori d a imm g x) := slot rfl rfl (by (try simp only [pack_eq]); omega)
theorem xori (d : BitVec 6) (a : BitVec 6) (imm : BitVec 6) (g : BitVec 4) (x : Option Limm) : Statement (.xori d a imm g x) := slot rfl rfl (by (try simp only [pack_eq]); omega)
theorem shli (d : BitVec 6) (a : BitVec 6) (imm : BitVec 6) (g : BitVec 4) : Statement (.shli d a imm g) := slot rfl rfl (by (try simp only [pack_eq]); omega)
theorem shri (d : BitVec 6) (a : BitVec 6) (imm : BitVec 6) (g : BitVec 4) : Statement (.shri d a imm g) := slot rfl rfl (by (try simp only [pack_eq]); omega)
theorem sari (d : BitVec 6) (a : BitVec 6) (imm : BitVec 6) (g : BitVec 4) : Statement (.sari d a imm g) := slot rfl rfl (by (try simp only [pack_eq]); omega)
theorem clz (d : BitVec 6) (a : BitVec 6) (g : BitVec 4) : Statement (.clz d a g) := slot rfl rfl (by (try simp only [pack_eq]); omega)
theorem ctz (d : BitVec 6) (a : BitVec 6) (g : BitVec 4) : Statement (.ctz d a g) := slot rfl rfl (by (try simp only [pack_eq]); omega)
theorem popc (d : BitVec 6) (a : BitVec 6) (g : BitVec 4) : Statement (.popc d a g) := slot rfl rfl (by (try simp only [pack_eq]); omega)
theorem sext (d : BitVec 6) (a : BitVec 6) (w : BitVec 6) (g : BitVec 4) : Statement (.sext d a w g) := slot rfl rfl (by (try simp only [pack_eq]); omega)
theorem zext (d : BitVec 6) (a : BitVec 6) (w : BitVec 6) (g : BitVec 4) : Statement (.zext d a w g) := slot rfl rfl (by (try simp only [pack_eq]); omega)
theorem bext (d : BitVec 6) (a : BitVec 6) (b : BitVec 6) (g : BitVec 4) : Statement (.bext d a b g) := slot rfl rfl (by (try simp only [pack_eq]); omega)
theorem bins (d : BitVec 6) (a : BitVec 6) (b : BitVec 6) (g : BitVec 4) : Statement (.bins d a b g) := slot rfl rfl (by (try simp only [pack_eq]); omega)
theorem adds0 (d : BitVec 6) (a : BitVec 6) (b : BitVec 6) (g : BitVec 4) : Statement (.adds0 d a b g) := slot rfl rfl (by (try simp only [pack_eq]); omega)
theorem adds1 (d : BitVec 6) (a : BitVec 6) (b : BitVec 6) (g : BitVec 4) : Statement (.adds1 d a b g) := slot rfl rfl (by (try simp only [pack_eq]); omega)
theorem adds2 (d : BitVec 6) (a : BitVec 6) (b : BitVec 6) (g : BitVec 4) : Statement (.adds2 d a b g) := slot rfl rfl (by (try simp only [pack_eq]); omega)
theorem adds3 (d : BitVec 6) (a : BitVec 6) (b : BitVec 6) (g : BitVec 4) : Statement (.adds3 d a b g) := slot rfl rfl (by (try simp only [pack_eq]); omega)
theorem cmp (c : BitVec 3) (p : BitVec 3) (a : BitVec 6) (b : BitVec 6) (g : BitVec 4) : Statement (.cmp c p a b g) := slot rfl rfl (by (try simp only [pack_eq]); omega)
theorem cmpi (c : BitVec 3) (p : BitVec 3) (a : BitVec 6) (imm : BitVec 6) (g : BitVec 4) (x : Option Limm) : Statement (.cmpi c p a imm g x) := slot rfl rfl (by (try simp only [pack_eq]); omega)
theorem plog (d : BitVec 3) (f : BitVec 4) (a : BitVec 3) (b : BitVec 3) (g : BitVec 4) : Statement (.plog d f a b g) := slot rfl rfl (by (try simp only [pack_eq]); omega)
theorem sel (d : BitVec 6) (a : BitVec 6) (p : BitVec 3) (b : BitVec 3) (g : BitVec 4) : Statement (.sel d a p b g) := slot rfl rfl (by (try simp only [pack_eq]); omega)
theorem movw (d : BitVec 6) (imm : BitVec 12) (g : BitVec 4) : Statement (.movw d imm g) := slot rfl rfl (by (try simp only [pack_eq]); omega)
theorem br (o : BitVec 18) (g : BitVec 4) : Statement (.br o g) := slot rfl rfl (by (try simp only [pack_eq]); omega)
theorem call (o : BitVec 18) (g : BitVec 4) : Statement (.call o g) := slot rfl rfl (by (try simp only [pack_eq]); omega)
theorem jr (a : BitVec 6) (g : BitVec 4) : Statement (.jr a g) := slot rfl rfl (by (try simp only [pack_eq]); omega)
theorem jt (d : BitVec 6) (imm : BitVec 12) (g : BitVec 4) : Statement (.jt d imm g) := slot rfl rfl (by (try simp only [pack_eq]); omega)
theorem loop (n : BitVec 2) (a : BitVec 6) (d : BitVec 9) (g : BitVec 4) : Statement (.loop n a d g) := slot rfl rfl (by (try simp only [pack_eq]); omega)
theorem loopi (n : BitVec 2) (c : BitVec 6) (d : BitVec 9) (g : BitVec 4) (x : Option Limm) : Statement (.loopi n c d g x) := slot rfl rfl (by (try simp only [pack_eq]); omega)
theorem trap (c : BitVec 12) (g : BitVec 4) : Statement (.trap c g) := slot rfl rfl (by (try simp only [pack_eq]); omega)
theorem brk (c : BitVec 12) (g : BitVec 4) : Statement (.brk c g) := slot rfl rfl (by (try simp only [pack_eq]); omega)
theorem exit (g : BitVec 4) : Statement (.exit g) := slot rfl rfl (by (try simp only [pack_eq]); omega)
theorem yield (g : BitVec 4) : Statement (.yield g) := slot rfl rfl (by (try simp only [pack_eq]); omega)
theorem trigger (g : BitVec 4) : Statement (.trigger g) := slot rfl rfl (by (try simp only [pack_eq]); omega)
theorem waitdep (g : BitVec 4) : Statement (.waitdep g) := slot rfl rfl (by (try simp only [pack_eq]); omega)
theorem phase (g : BitVec 4) : Statement (.phase g) := slot rfl rfl (by (try simp only [pack_eq]); omega)
theorem wait (nl : BitVec 4) (ns : BitVec 4) (nc : BitVec 4) (nt : BitVec 4) (g : BitVec 4) : Statement (.wait nl ns nc nt g) := slot rfl rfl (by (try simp only [pack_eq]); omega)
theorem fence (scope : BitVec 3) (mask : BitVec 15) (g : BitVec 4) : Statement (.fence scope mask g) := slot rfl rfl (by (try simp only [pack_eq]); omega)
theorem mfcr (d : BitVec 6) (n : BitVec 11) (g : BitVec 4) : Statement (.mfcr d n g) := slot rfl rfl (by (try simp only [pack_eq]); omega)
theorem mtcr (d : BitVec 6) (n : BitVec 11) (g : BitVec 4) : Statement (.mtcr d n g) := slot rfl rfl (by (try simp only [pack_eq]); omega)
theorem crLdepthWrite (v : W64) : Statement (.crLdepthWrite v) := ⟨rfl, rfl, rfl, rfl⟩
theorem crLstartLendWrite (n : BitVec 11) (v : W64) : Statement (.crLstartLendWrite n v) := ⟨rfl, rfl, rfl, rfl⟩
theorem crBankfWrite (bank : BitVec 4) (v : W64) : Statement (.crBankfWrite bank v) := ⟨rfl, rfl, rfl, rfl⟩
theorem crQidxWrite (v : W64) : Statement (.crQidxWrite v) := ⟨rfl, rfl, rfl, rfl⟩
theorem crGxmodeWrite (v : W64) : Statement (.crGxmodeWrite v) := ⟨rfl, rfl, rfl, rfl⟩
theorem crCbarWrite (core : BitVec 4) (v : W64) : Statement (.crCbarWrite core v) := ⟨rfl, rfl, rfl, rfl⟩
theorem crDrawhiWrite (v : W64) : Statement (.crDrawhiWrite v) := ⟨rfl, rfl, rfl, rfl⟩
theorem crFlagsetWrite (v : W64) : Statement (.crFlagsetWrite v) := ⟨rfl, rfl, rfl, rfl⟩
theorem ldl (d : BitVec 6) (a : BitVec 6) (c : BitVec 4) (z : BitVec 2) (g : BitVec 4) (x : Option Limm) : Statement (.ldl d a c z g x) := slot rfl rfl (by (try simp only [pack_eq]); omega)
theorem stl (d : BitVec 6) (a : BitVec 6) (c : BitVec 4) (z : BitVec 2) (g : BitVec 4) (x : Option Limm) : Statement (.stl d a c z g x) := slot rfl rfl (by (try simp only [pack_eq]); omega)
theorem ldg (d : BitVec 6) (a : BitVec 6) (c : BitVec 4) (z : BitVec 2) (g : BitVec 4) (x : Option Limm) : Statement (.ldg d a c z g x) := slot rfl rfl (by (try simp only [pack_eq]); omega)
theorem stg (d : BitVec 6) (a : BitVec 6) (c : BitVec 4) (z : BitVec 2) (g : BitVec 4) (x : Option Limm) : Statement (.stg d a c z g x) := slot rfl rfl (by (try simp only [pack_eq]); omega)
theorem red (d : BitVec 6) (a : BitVec 6) (c : BitVec 4) (z : BitVec 2) (g : BitVec 4) (x : Option Limm) : Statement (.red d a c z g x) := slot rfl rfl (by (try simp only [pack_eq]); omega)
theorem atomAdd (d : BitVec 6) (a : BitVec 6) (c : BitVec 4) (w : BitVec 2) (g : BitVec 4) (x : Option Limm) : Statement (.atomAdd d a c w g x) := slot rfl rfl (by (try simp only [pack_eq]); omega)
theorem atomMin (d : BitVec 6) (a : BitVec 6) (c : BitVec 4) (w : BitVec 2) (g : BitVec 4) (x : Option Limm) : Statement (.atomMin d a c w g x) := slot rfl rfl (by (try simp only [pack_eq]); omega)
theorem atomMax (d : BitVec 6) (a : BitVec 6) (c : BitVec 4) (w : BitVec 2) (g : BitVec 4) (x : Option Limm) : Statement (.atomMax d a c w g x) := slot rfl rfl (by (try simp only [pack_eq]); omega)
theorem atomAnd (d : BitVec 6) (a : BitVec 6) (c : BitVec 4) (w : BitVec 2) (g : BitVec 4) (x : Option Limm) : Statement (.atomAnd d a c w g x) := slot rfl rfl (by (try simp only [pack_eq]); omega)
theorem atomOr (d : BitVec 6) (a : BitVec 6) (c : BitVec 4) (w : BitVec 2) (g : BitVec 4) (x : Option Limm) : Statement (.atomOr d a c w g x) := slot rfl rfl (by (try simp only [pack_eq]); omega)
theorem atomXor (d : BitVec 6) (a : BitVec 6) (c : BitVec 4) (w : BitVec 2) (g : BitVec 4) (x : Option Limm) : Statement (.atomXor d a c w g x) := slot rfl rfl (by (try simp only [pack_eq]); omega)
theorem atomSwap (d : BitVec 6) (a : BitVec 6) (c : BitVec 4) (w : BitVec 2) (g : BitVec 4) (x : Option Limm) : Statement (.atomSwap d a c w g x) := slot rfl rfl (by (try simp only [pack_eq]); omega)
theorem atomCas (d : BitVec 6) (a : BitVec 6) (c : BitVec 4) (w : BitVec 2) (g : BitVec 4) (x : Option Limm) : Statement (.atomCas d a c w g x) := slot rfl rfl (by (try simp only [pack_eq]); omega)
theorem atomw (d : BitVec 6) (a : BitVec 6) (c : BitVec 4) (g : BitVec 4) (x : Option Limm) : Statement (.atomw d a c g x) := slot rfl rfl (by (try simp only [pack_eq]); omega)
theorem vadd (d : BitVec 5) (a : BitVec 5) (b : BitVec 5) (m : BitVec 3) (z : Bool) (t : BitVec 2) : Statement (.vadd d a b m z t) := slot rfl rfl (by have := bit_lt z; (try simp only [pack_eq]); omega)
theorem vsub (d : BitVec 5) (a : BitVec 5) (b : BitVec 5) (m : BitVec 3) (z : Bool) (t : BitVec 2) : Statement (.vsub d a b m z t) := slot rfl rfl (by have := bit_lt z; (try simp only [pack_eq]); omega)
theorem vmul (d : BitVec 5) (a : BitVec 5) (b : BitVec 5) (m : BitVec 3) (z : Bool) (t : BitVec 2) : Statement (.vmul d a b m z t) := slot rfl rfl (by have := bit_lt z; (try simp only [pack_eq]); omega)
theorem vfma (d : BitVec 5) (a : BitVec 5) (b : BitVec 5) (m : BitVec 3) (z : Bool) (t : BitVec 2) : Statement (.vfma d a b m z t) := slot rfl rfl (by have := bit_lt z; (try simp only [pack_eq]); omega)
theorem vmax (d : BitVec 5) (a : BitVec 5) (b : BitVec 5) (m : BitVec 3) (z : Bool) (t : BitVec 2) : Statement (.vmax d a b m z t) := slot rfl rfl (by have := bit_lt z; (try simp only [pack_eq]); omega)
theorem vmin (d : BitVec 5) (a : BitVec 5) (b : BitVec 5) (m : BitVec 3) (z : Bool) (t : BitVec 2) : Statement (.vmin d a b m z t) := slot rfl rfl (by have := bit_lt z; (try simp only [pack_eq]); omega)
theorem vabs (d : BitVec 5) (a : BitVec 5) (m : BitVec 3) (z : Bool) (t : BitVec 2) : Statement (.vabs d a m z t) := slot rfl rfl (by have := bit_lt z; (try simp only [pack_eq]); omega)
theorem vneg (d : BitVec 5) (a : BitVec 5) (m : BitVec 3) (z : Bool) (t : BitVec 2) : Statement (.vneg d a m z t) := slot rfl rfl (by have := bit_lt z; (try simp only [pack_eq]); omega)
theorem vcmp (c : BitVec 2) (k : BitVec 3) (a : BitVec 5) (b : BitVec 5) (m : BitVec 3) (z : Bool) : Statement (.vcmp c k a b m z) := slot rfl rfl (by have := bit_lt z; (try simp only [pack_eq]); omega)
theorem viadd (d : BitVec 5) (a : BitVec 5) (b : BitVec 5) (m : BitVec 3) (z : Bool) (t : BitVec 2) : Statement (.viadd d a b m z t) := slot rfl rfl (by have := bit_lt z; (try simp only [pack_eq]); omega)
theorem visub (d : BitVec 5) (a : BitVec 5) (b : BitVec 5) (m : BitVec 3) (z : Bool) (t : BitVec 2) : Statement (.visub d a b m z t) := slot rfl rfl (by have := bit_lt z; (try simp only [pack_eq]); omega)
theorem vimul (d : BitVec 5) (a : BitVec 5) (b : BitVec 5) (m : BitVec 3) (z : Bool) (t : BitVec 2) : Statement (.vimul d a b m z t) := slot rfl rfl (by have := bit_lt z; (try simp only [pack_eq]); omega)
theorem vimulh (d : BitVec 5) (a : BitVec 5) (b : BitVec 5) (m : BitVec 3) (z : Bool) (t : BitVec 2) : Statement (.vimulh d a b m z t) := slot rfl rfl (by have := bit_lt z; (try simp only [pack_eq]); omega)
theorem vand (d : BitVec 5) (a : BitVec 5) (b : BitVec 5) (m : BitVec 3) (z : Bool) (t : BitVec 2) : Statement (.vand d a b m z t) := slot rfl rfl (by have := bit_lt z; (try simp only [pack_eq]); omega)
theorem vor (d : BitVec 5) (a : BitVec 5) (b : BitVec 5) (m : BitVec 3) (z : Bool) (t : BitVec 2) : Statement (.vor d a b m z t) := slot rfl rfl (by have := bit_lt z; (try simp only [pack_eq]); omega)
theorem vxor (d : BitVec 5) (a : BitVec 5) (b : BitVec 5) (m : BitVec 3) (z : Bool) (t : BitVec 2) : Statement (.vxor d a b m z t) := slot rfl rfl (by have := bit_lt z; (try simp only [pack_eq]); omega)
theorem vshl (d : BitVec 5) (a : BitVec 5) (b : BitVec 5) (m : BitVec 3) (z : Bool) (t : BitVec 2) : Statement (.vshl d a b m z t) := slot rfl rfl (by have := bit_lt z; (try simp only [pack_eq]); omega)
theorem vshr (d : BitVec 5) (a : BitVec 5) (b : BitVec 5) (m : BitVec 3) (z : Bool) (t : BitVec 2) : Statement (.vshr d a b m z t) := slot rfl rfl (by have := bit_lt z; (try simp only [pack_eq]); omega)
theorem vsar (d : BitVec 5) (a : BitVec 5) (b : BitVec 5) (m : BitVec 3) (z : Bool) (t : BitVec 2) : Statement (.vsar d a b m z t) := slot rfl rfl (by have := bit_lt z; (try simp only [pack_eq]); omega)
theorem vimin (d : BitVec 5) (a : BitVec 5) (b : BitVec 5) (m : BitVec 3) (z : Bool) (t : BitVec 2) : Statement (.vimin d a b m z t) := slot rfl rfl (by have := bit_lt z; (try simp only [pack_eq]); omega)
theorem vimax (d : BitVec 5) (a : BitVec 5) (b : BitVec 5) (m : BitVec 3) (z : Bool) (t : BitVec 2) : Statement (.vimax d a b m z t) := slot rfl rfl (by have := bit_lt z; (try simp only [pack_eq]); omega)
theorem vicmpSigned (c : BitVec 2) (k : BitVec 3) (a : BitVec 5) (b : BitVec 5) (m : BitVec 3) (z : Bool) : Statement (.vicmpSigned c k a b m z) := slot rfl rfl (by have := bit_lt z; (try simp only [pack_eq]); omega)
theorem vicmpUnsigned (c : BitVec 2) (k : BitVec 3) (a : BitVec 5) (b : BitVec 5) (m : BitVec 3) (z : Bool) : Statement (.vicmpUnsigned c k a b m z) := slot rfl rfl (by have := bit_lt z; (try simp only [pack_eq]); omega)
theorem vcvt (d : BitVec 5) (a : BitVec 5) (e : BitVec 5) (m : BitVec 3) (z : Bool) : Statement (.vcvt d a e m z) := slot rfl rfl (by have := bit_lt z; (try simp only [pack_eq]); omega)
theorem vpack (d : BitVec 5) (a : BitVec 5) (f : BitVec 3) (p : BitVec 2) (m : BitVec 3) (z : Bool) : Statement (.vpack d a f p m z) := slot rfl rfl (by have := bit_lt z; (try simp only [pack_eq]); omega)
theorem vunpk (d : BitVec 5) (a : BitVec 5) (f : BitVec 3) (p : BitVec 2) (m : BitVec 3) (z : Bool) : Statement (.vunpk d a f p m z) := slot rfl rfl (by have := bit_lt z; (try simp only [pack_eq]); omega)
theorem vexp2 (d : BitVec 5) (a : BitVec 5) (m : BitVec 3) (z : Bool) : Statement (.vexp2 d a m z) := slot rfl rfl (by have := bit_lt z; (try simp only [pack_eq]); omega)
theorem vlog2 (d : BitVec 5) (a : BitVec 5) (m : BitVec 3) (z : Bool) : Statement (.vlog2 d a m z) := slot rfl rfl (by have := bit_lt z; (try simp only [pack_eq]); omega)
theorem vrcp (d : BitVec 5) (a : BitVec 5) (m : BitVec 3) (z : Bool) : Statement (.vrcp d a m z) := slot rfl rfl (by have := bit_lt z; (try simp only [pack_eq]); omega)
theorem vrsq (d : BitVec 5) (a : BitVec 5) (m : BitVec 3) (z : Bool) : Statement (.vrsq d a m z) := slot rfl rfl (by have := bit_lt z; (try simp only [pack_eq]); omega)
theorem vrsum (d : BitVec 5) (a : BitVec 5) (m : BitVec 3) : Statement (.vrsum d a m) := slot rfl rfl (by (try simp only [pack_eq]); omega)
theorem vrmaxI (d : BitVec 5) (a : BitVec 5) (m : BitVec 3) : Statement (.vrmaxI d a m) := slot rfl rfl (by (try simp only [pack_eq]); omega)
theorem vrminI (d : BitVec 5) (a : BitVec 5) (m : BitVec 3) : Statement (.vrminI d a m) := slot rfl rfl (by (try simp only [pack_eq]); omega)
theorem vscan (d : BitVec 5) (a : BitVec 5) (m : BitVec 3) : Statement (.vscan d a m) := slot rfl rfl (by (try simp only [pack_eq]); omega)
theorem vsrch (d : BitVec 5) (a : BitVec 5) (b : BitVec 5) (m : BitVec 3) : Statement (.vsrch d a b m) := slot rfl rfl (by (try simp only [pack_eq]); omega)
theorem vrand (d : BitVec 5) (b : BitVec 3) (m : BitVec 3) (z : Bool) : Statement (.vrand d b m z) := slot rfl rfl (by have := bit_lt z; (try simp only [pack_eq]); omega)
theorem vrandF (d : BitVec 5) (b : BitVec 3) (m : BitVec 3) (z : Bool) : Statement (.vrandF d b m z) := slot rfl rfl (by have := bit_lt z; (try simp only [pack_eq]); omega)
theorem vperm (d : BitVec 5) (a : BitVec 5) (b : BitVec 5) (m : BitVec 3) (z : Bool) : Statement (.vperm d a b m z) := slot rfl rfl (by have := bit_lt z; (try simp only [pack_eq]); omega)
theorem vbcast (d : BitVec 5) (b : BitVec 5) (m : BitVec 3) (z : Bool) (t : BitVec 2) : Statement (.vbcast d b m z t) := slot rfl rfl (by have := bit_lt z; (try simp only [pack_eq]); omega)
theorem vslide (d : BitVec 5) (a : BitVec 5) (b : BitVec 5) (m : BitVec 3) (z : Bool) : Statement (.vslide d a b m z) := slot rfl rfl (by have := bit_lt z; (try simp only [pack_eq]); omega)
theorem vsel (d : BitVec 5) (a : BitVec 5) (b : BitVec 5) (m : BitVec 3) : Statement (.vsel d a b m) := slot rfl rfl (by (try simp only [pack_eq]); omega)
theorem mlog (f : BitVec 2) (k : BitVec 3) (a : BitVec 3) (b : BitVec 3) : Statement (.mlog f k a b) := slot rfl rfl (by (try simp only [pack_eq]); omega)
theorem mpop (d : BitVec 5) (a : BitVec 3) (m : BitVec 3) : Statement (.mpop d a m) := slot rfl rfl (by (try simp only [pack_eq]); omega)
theorem mfirst (d : BitVec 5) (a : BitVec 3) (m : BitVec 3) : Statement (.mfirst d a m) := slot rfl rfl (by (try simp only [pack_eq]); omega)
theorem vpart (d : BitVec 5) (m : BitVec 3) : Statement (.vpart d m) := slot rfl rfl (by (try simp only [pack_eq]); omega)
theorem vpartInv (d : BitVec 5) (m : BitVec 3) : Statement (.vpartInv d m) := slot rfl rfl (by (try simp only [pack_eq]); omega)
theorem vldl (d : BitVec 5) (c : BitVec 4) (b : BitVec 5) (m : BitVec 3) (z : Bool) (x : Option Limm) : Statement (.vldl d c b m z x) := slot rfl rfl (by have := bit_lt z; (try simp only [pack_eq]); omega)
theorem vstl (d : BitVec 5) (c : BitVec 4) (b : BitVec 5) (m : BitVec 3) (x : Option Limm) : Statement (.vstl d c b m x) := slot rfl rfl (by (try simp only [pack_eq]); omega)
theorem vgath (d : BitVec 5) (a : BitVec 5) (b : BitVec 5) (m : BitVec 3) (z : Bool) (x : Option Limm) : Statement (.vgath d a b m z x) := slot rfl rfl (by have := bit_lt z; (try simp only [pack_eq]); omega)
theorem vscat (d : BitVec 5) (a : BitVec 5) (b : BitVec 5) (m : BitVec 3) (x : Option Limm) : Statement (.vscat d a b m x) := slot rfl rfl (by (try simp only [pack_eq]); omega)
theorem vldg (d : BitVec 5) (c : BitVec 4) (b : BitVec 5) (m : BitVec 3) (z : Bool) (x : Option Limm) : Statement (.vldg d c b m z x) := slot rfl rfl (by have := bit_lt z; (try simp only [pack_eq]); omega)
theorem vstg (d : BitVec 5) (c : BitVec 4) (b : BitVec 5) (m : BitVec 3) (x : Option Limm) : Statement (.vstg d c b m x) := slot rfl rfl (by (try simp only [pack_eq]); omega)
theorem vmovg (d : BitVec 5) (j : BitVec 5) (b : BitVec 5) : Statement (.vmovg d j b) := slot rfl rfl (by (try simp only [pack_eq]); omega)
theorem vextr (d : BitVec 5) (a : BitVec 5) (j : BitVec 5) : Statement (.vextr d a j) := slot rfl rfl (by (try simp only [pack_eq]); omega)
theorem accept (d : BitVec 5) (a : BitVec 5) (b : BitVec 5) (m : BitVec 3) : Statement (.accept d a b m) := slot rfl rfl (by (try simp only [pack_eq]); omega)
theorem mpush (p : Bool) (g : BitVec 4) : Statement (.mpush p g) := slot rfl rfl (by have := bit_lt p; (try simp only [pack_eq]); omega)
theorem mshift (g : BitVec 4) : Statement (.mshift g) := slot rfl rfl (by (try simp only [pack_eq]); omega)
theorem mpreld (p : Bool) (v : BitVec 5) (g : BitVec 4) : Statement (.mpreld p v g) := slot rfl rfl (by have := bit_lt p; (try simp only [pack_eq]); omega)
theorem mdrain (p : Bool) (v : BitVec 5) (g : BitVec 4) : Statement (.mdrain p v g) := slot rfl rfl (by have := bit_lt p; (try simp only [pack_eq]); omega)
theorem mzero (p : Bool) (g : BitVec 4) : Statement (.mzero p g) := slot rfl rfl (by have := bit_lt p; (try simp only [pack_eq]); omega)
theorem mcfg (n : BitVec 6) (g : BitVec 4) : Statement (.mcfg n g) := slot rfl rfl (by (try simp only [pack_eq]); omega)
theorem mfeedRing (f : Bool) (n : BitVec 6) (g : BitVec 4) : Statement (.mfeedRing f n g) := slot rfl rfl (by have := bit_lt f; (try simp only [pack_eq]); omega)
theorem mfeedMesh (f : Bool) (n : BitVec 6) (g : BitVec 4) : Statement (.mfeedMesh f n g) := slot rfl rfl (by have := bit_lt f; (try simp only [pack_eq]); omega)
theorem mfeedHandle (f : Bool) (n : BitVec 6) (g : BitVec 4) : Statement (.mfeedHandle f n g) := slot rfl rfl (by have := bit_lt f; (try simp only [pack_eq]); omega)
theorem feederPanelFetch (north : Bool) : Statement (.feederPanelFetch north) := ⟨rfl, rfl, rfl, rfl⟩
theorem meshFlitInject (north : Bool) (flits : MeshFlits) : Statement (.meshFlitInject north flits) := ⟨rfl, rfl, rfl, rfl⟩
theorem slw (a : BitVec 6) (g : BitVec 4) (x : Option Limm) : Statement (.slw a g x) := slot rfl rfl (by (try simp only [pack_eq]); omega)
theorem sln (a : BitVec 6) (g : BitVec 4) (x : Option Limm) : Statement (.sln a g x) := slot rfl rfl (by (try simp only [pack_eq]); omega)
theorem slzp (a : BitVec 6) (e : Bool) (g : BitVec 4) (x : Option Limm) : Statement (.slzp a e g x) := slot rfl rfl (by have := bit_lt e; (try simp only [pack_eq]); omega)
theorem slset (a : BitVec 6) (e : Bool) (imm : BitVec 6) (g : BitVec 4) : Statement (.slset a e imm g) := slot rfl rfl (by have := bit_lt e; (try simp only [pack_eq]); omega)
theorem cpyG2l (a : BitVec 6) (b : BitVec 6) (c : BitVec 6) (g : BitVec 4) : Statement (.cpyG2l a b c g) := slot rfl rfl (by (try simp only [pack_eq]); omega)
theorem cpyL2g (a : BitVec 6) (b : BitVec 6) (c : BitVec 6) (g : BitVec 4) : Statement (.cpyL2g a b c g) := slot rfl rfl (by (try simp only [pack_eq]); omega)
theorem cpyL2l (a : BitVec 6) (b : BitVec 6) (c : BitVec 6) (g : BitVec 4) : Statement (.cpyL2l a b c g) := slot rfl rfl (by (try simp only [pack_eq]); omega)
theorem cpyCl (a : BitVec 6) (b : BitVec 6) (c : BitVec 6) (g : BitVec 4) : Statement (.cpyCl a b c g) := slot rfl rfl (by (try simp only [pack_eq]); omega)
theorem cpyPe (a : BitVec 6) (b : BitVec 6) (c : BitVec 6) (g : BitVec 4) : Statement (.cpyPe a b c g) := slot rfl rfl (by (try simp only [pack_eq]); omega)
theorem copyBegin (cq1 : Bool) : Statement (.copyBegin cq1) := ⟨rfl, rfl, rfl, rfl⟩
theorem copyPerform (cq1 : Bool) : Statement (.copyPerform cq1) := ⟨rfl, rfl, rfl, rfl⟩
theorem peerChunkArrival (c : Chunk) : Statement (.peerChunkArrival c) := ⟨rfl, rfl, rfl, rfl⟩
theorem peerChunkFail (cq1 : Bool) (second : Bool) : Statement (.peerChunkFail cq1 second) := ⟨rfl, rfl, rfl, rfl⟩
theorem qcfg (q : BitVec 6) (a : BitVec 6) (g : BitVec 4) : Statement (.qcfg q a g) := slot rfl rfl (by (try simp only [pack_eq]); omega)
theorem qcfgOff (q : BitVec 6) (g : BitVec 4) : Statement (.qcfgOff q g) := slot rfl rfl (by (try simp only [pack_eq]); omega)
theorem qresv (q : BitVec 6) (d : BitVec 6) (c : BitVec 6) (g : BitVec 4) : Statement (.qresv q d c g) := slot rfl rfl (by (try simp only [pack_eq]); omega)
theorem qcommit (q : BitVec 6) (c : BitVec 6) (g : BitVec 4) : Statement (.qcommit q c g) := slot rfl rfl (by (try simp only [pack_eq]); omega)
theorem qawait (q : BitVec 6) (d : BitVec 6) (c : BitVec 6) (g : BitVec 4) : Statement (.qawait q d c g) := slot rfl rfl (by (try simp only [pack_eq]); omega)
theorem qrel (q : BitVec 6) (c : BitVec 6) (g : BitVec 4) : Statement (.qrel q c g) := slot rfl rfl (by (try simp only [pack_eq]); omega)
theorem qtick (q : BitVec 6) (d : BitVec 6) (g : BitVec 4) : Statement (.qtick q d g) := slot rfl rfl (by (try simp only [pack_eq]); omega)
theorem qfill (q : BitVec 6) (a : BitVec 6) (g : BitVec 4) : Statement (.qfill q a g) := slot rfl rfl (by (try simp only [pack_eq]); omega)
theorem qtest (q : BitVec 6) (p : BitVec 3) (t : BitVec 6) (g : BitVec 4) : Statement (.qtest q p t g) := slot rfl rfl (by (try simp only [pack_eq]); omega)
theorem qfence (m : BitVec 6) (g : BitVec 4) : Statement (.qfence m g) := slot rfl rfl (by (try simp only [pack_eq]); omega)
theorem engineFire (cq1 : Bool) : Statement (.engineFire cq1) := ⟨rfl, rfl, rfl, rfl⟩
theorem route (a : BitVec 6) (b : BitVec 6) (c : BitVec 6) (g : BitVec 4) : Statement (.route a b c g) := slot rfl rfl (by (try simp only [pack_eq]); omega)
theorem rtcfg (a : BitVec 6) (b : BitVec 6) (c : BitVec 6) (g : BitVec 4) : Statement (.rtcfg a b c g) := slot rfl rfl (by (try simp only [pack_eq]); omega)
theorem rasm (a : BitVec 6) (b : BitVec 6) (c : BitVec 6) (g : BitVec 4) : Statement (.rasm a b c g) := slot rfl rfl (by (try simp only [pack_eq]); omega)
theorem rret (a : BitVec 6) (b : BitVec 6) (c : BitVec 6) (g : BitVec 4) : Statement (.rret a b c g) := slot rfl rfl (by (try simp only [pack_eq]); omega)
theorem returnAccept (table : BitVec 2) (round : W16) (row : BitVec 6) (rank : BitVec 2) (bytes : List Byte) : Statement (.returnAccept table round row rank bytes) := ⟨rfl, rfl, rfl, rfl⟩
theorem routeTimeout (table : BitVec 2) : Statement (.routeTimeout table) := ⟨rfl, rfl, rfl, rfl⟩
theorem kvadv (a : BitVec 6) (b : BitVec 6) (c : BitVec 6) (g : BitVec 4) : Statement (.kvadv a b c g) := slot rfl rfl (by (try simp only [pack_eq]); omega)
theorem kvtrunc (a : BitVec 6) (b : BitVec 6) (c : BitVec 6) (g : BitVec 4) : Statement (.kvtrunc a b c g) := slot rfl rfl (by (try simp only [pack_eq]); omega)
theorem kvmap (a : BitVec 6) (b : BitVec 6) (c : BitVec 6) (g : BitVec 4) : Statement (.kvmap a b c g) := slot rfl rfl (by (try simp only [pack_eq]); omega)
theorem pnlook (a : BitVec 6) (b : BitVec 6) (c : BitVec 6) (g : BitVec 4) : Statement (.pnlook a b c g) := slot rfl rfl (by (try simp only [pack_eq]); omega)
theorem pnins (a : BitVec 6) (b : BitVec 6) (c : BitVec 6) (g : BitVec 4) : Statement (.pnins a b c g) := slot rfl rfl (by (try simp only [pack_eq]); omega)
theorem pnrel (a : BitVec 6) (b : BitVec 6) (c : BitVec 6) (g : BitVec 4) : Statement (.pnrel a b c g) := slot rfl rfl (by (try simp only [pack_eq]); omega)
theorem pxtile (a : BitVec 6) (b : BitVec 6) (c : BitVec 6) (g : BitVec 4) : Statement (.pxtile a b c g) := slot rfl rfl (by (try simp only [pack_eq]); omega)
theorem encfrm (a : BitVec 6) (b : BitVec 6) (c : BitVec 6) (g : BitVec 4) : Statement (.encfrm a b c g) := slot rfl rfl (by (try simp only [pack_eq]); omega)
theorem encoderTakeFrame (fr : BitVec 6) : Statement (.encoderTakeFrame fr) := ⟨rfl, rfl, rfl, rfl⟩
theorem bitstreamRecordWrite (fr : BitVec 6) (payload : Nat) : Statement (.bitstreamRecordWrite fr payload) := ⟨rfl, rfl, rfl, rfl⟩
theorem loadResponse (acc : Nat) : Statement (.loadResponse acc) := ⟨rfl, rfl, rfl, rfl⟩
theorem storeAck (acc : Nat) : Statement (.storeAck acc) := ⟨rfl, rfl, rfl, rfl⟩
theorem sliceReadRequest (who : Requester) (part : Nat) : Statement (.sliceReadRequest who part) := ⟨rfl, rfl, rfl, rfl⟩
theorem mergeGroupWait (slice : BitVec 6) : Statement (.mergeGroupWait slice) := ⟨rfl, rfl, rfl, rfl⟩
theorem sectorFillComplete (slice : BitVec 6) (line : Nat) : Statement (.sectorFillComplete slice line) := ⟨rfl, rfl, rfl, rfl⟩
theorem sliceWriteRequest (who : Requester) (part : Nat) : Statement (.sliceWriteRequest who part) := ⟨rfl, rfl, rfl, rfl⟩
theorem sliceAtomic (who : Requester) : Statement (.sliceAtomic who) := ⟨rfl, rfl, rfl, rfl⟩
theorem redContribution (who : Requester) : Statement (.redContribution who) := ⟨rfl, rfl, rfl, rfl⟩
theorem redWaitOpen (slice : BitVec 6) : Statement (.redWaitOpen slice) := ⟨rfl, rfl, rfl, rfl⟩
theorem pinSliceAccess (acc : Nat) (part : Nat) : Statement (.pinSliceAccess acc part) := ⟨rfl, rfl, rfl, rfl⟩
theorem clusterStopDelivery (what : Delivery) : Statement (.clusterStopDelivery what) := ⟨rfl, rfl, rfl, rfl⟩
theorem routePacketFill : Statement .routePacketFill := ⟨rfl, rfl, rfl, rfl⟩
theorem flushReadReturn (package : BitVec 6) : Statement (.flushReadReturn package) := ⟨rfl, rfl, rfl, rfl⟩
theorem hostPortError (acc : Nat) (part : Nat) : Statement (.hostPortError acc part) := ⟨rfl, rfl, rfl, rfl⟩
theorem faultRecordRelease (slice : BitVec 6) : Statement (.faultRecordRelease slice) := ⟨rfl, rfl, rfl, rfl⟩
theorem zeroFillDone (leafPa : Nat) (big : Bool) : Statement (.zeroFillDone leafPa big) := ⟨rfl, rfl, rfl, rfl⟩
theorem assign (part : BitVec 4) (slot : BitVec 12) (root : BitVec 40) : Statement (.assign part slot root) := ⟨rfl, rfl, rfl, rfl⟩
theorem release (part : BitVec 4) (slot : BitVec 12) : Statement (.release part slot) := ⟨rfl, rfl, rfl, rfl⟩
theorem invalRange (part : BitVec 4) (slot : BitVec 12) (va : W64) (count : Nat) : Statement (.invalRange part slot va count) := ⟨rfl, rfl, rfl, rfl⟩
theorem invalAsid (part : BitVec 4) (slot : BitVec 12) : Statement (.invalAsid part slot) := ⟨rfl, rfl, rfl, rfl⟩
theorem invalAll (part : BitVec 4) : Statement (.invalAll part) := ⟨rfl, rfl, rfl, rfl⟩
theorem twrite (part : BitVec 4) (pa : Nat) (v : W64) : Statement (.twrite part pa v) := ⟨rfl, rfl, rfl, rfl⟩
theorem resume (part : BitVec 4) (slice : BitVec 6) (park : BitVec 6) : Statement (.resume part slice park) := ⟨rfl, rfl, rfl, rfl⟩
theorem abort (part : BitVec 4) (slice : BitVec 6) (park : BitVec 6) : Statement (.abort part slice park) := ⟨rfl, rfl, rfl, rfl⟩
theorem translationCommandComplete (part : BitVec 4) : Statement (.translationCommandComplete part) := ⟨rfl, rfl, rfl, rfl⟩
theorem graphSubmit (part : BitVec 4) (job : W32) (launches : List LaunchRec) : Statement (.graphSubmit part job launches) := ⟨rfl, rfl, rfl, rfl⟩
theorem gangStart (l : LaunchId) (gang : Nat) (at_ : Placement) : Statement (.gangStart l gang at_) := ⟨rfl, rfl, rfl, rfl⟩
theorem unitComplete (l : LaunchId) (unit : W32) (status : Byte) (detail : Byte) : Statement (.unitComplete l unit status detail) := ⟨rfl, rfl, rfl, rfl⟩
theorem completionRecordWrite (part : BitVec 4) (job : W32) : Statement (.completionRecordWrite part job) := ⟨rfl, rfl, rfl, rfl⟩
theorem triggerMark (l : LaunchId) (unit : W32) : Statement (.triggerMark l unit) := ⟨rfl, rfl, rfl, rfl⟩
theorem cancel (level : CancelLevel) : Statement (.cancel level) := ⟨rfl, rfl, rfl, rfl⟩
theorem jobCreate (r : JobRec) : Statement (.jobCreate r) := ⟨rfl, rfl, rfl, rfl⟩
theorem jobClose (part : BitVec 4) (job : W32) : Statement (.jobClose part job) := ⟨rfl, rfl, rfl, rfl⟩
theorem streamGraphInstantiate (part : BitVec 4) (job : W32) : Statement (.streamGraphInstantiate part job) := ⟨rfl, rfl, rfl, rfl⟩
theorem gangResume (l : LaunchId) (gang : Nat) (at_ : Placement) : Statement (.gangResume l gang at_) := ⟨rfl, rfl, rfl, rfl⟩
theorem unitResume (ws : List AreaWrite) : Statement (.unitResume ws) := ⟨rfl, rfl, rfl, rfl⟩
theorem pantryRegister (part : BitVec 4) (n : BitVec 4) (buckets : Nat) (log2n : Nat) (backmap : Nat) : Statement (.pantryRegister part n buckets log2n backmap) := ⟨rfl, rfl, rfl, rfl⟩
theorem pantryPurge (part : BitVec 4) (n : BitVec 4) (bucket : Nat) (entry : Nat) : Statement (.pantryPurge part n bucket entry) := ⟨rfl, rfl, rfl, rfl⟩
theorem mirotRequest (part : BitVec 4) (flow : Nat) (record : List Byte) : Statement (.mirotRequest part flow record) := ⟨rfl, rfl, rfl, rfl⟩
theorem tokenise (engine : BitVec 3) : Statement (.tokenise engine) := ⟨rfl, rfl, rfl, rfl⟩
theorem tokeniserSlotCommit (engine : BitVec 3) : Statement (.tokeniserSlotCommit engine) := ⟨rfl, rfl, rfl, rfl⟩
theorem detokeniseSlot (ctx : Nat) : Statement (.detokeniseSlot ctx) := ⟨rfl, rfl, rfl, rfl⟩
theorem vocabLoad (slot : BitVec 4) (part : BitVec 4) (asid : BitVec 12) (va : W64) : Statement (.vocabLoad slot part asid va) := ⟨rfl, rfl, rfl, rfl⟩
theorem vocabUnload (slot : BitVec 4) : Statement (.vocabUnload slot) := ⟨rfl, rfl, rfl, rfl⟩
theorem templateRegister (t : TemplateReg) : Statement (.templateRegister t) := ⟨rfl, rfl, rfl, rfl⟩
theorem uetFlowFail (part : BitVec 4) (flow : Nat) : Statement (.uetFlowFail part flow) := ⟨rfl, rfl, rfl, rfl⟩
theorem frameRingRegister (r : FrameRingReg) : Statement (.frameRingRegister r) := ⟨rfl, rfl, rfl, rfl⟩
theorem frameRingReset (fr : BitVec 6) (fhead : W32) : Statement (.frameRingReset fr fhead) := ⟨rfl, rfl, rfl, rfl⟩
theorem frameRingUnregister (fr : BitVec 6) : Statement (.frameRingUnregister fr) := ⟨rfl, rfl, rfl, rfl⟩
theorem partitionCreate (d : PartDesc) : Statement (.partitionCreate d) := ⟨rfl, rfl, rfl, rfl⟩
theorem partitionChange (d : PartDesc) : Statement (.partitionChange d) := ⟨rfl, rfl, rfl, rfl⟩
theorem partitionReset (part : BitVec 4) : Statement (.partitionReset part) := ⟨rfl, rfl, rfl, rfl⟩
theorem machineCheck (src : McSource) (part : Option (BitVec 4)) (addr : W64) (place : W16) (job : Option W32) : Statement (.machineCheck src part addr place job) := ⟨rfl, rfl, rfl, rfl⟩
theorem pinRange (part : BitVec 4) (pa : Nat) (bytes : Nat) : Statement (.pinRange part pa bytes) := ⟨rfl, rfl, rfl, rfl⟩
theorem unpinRange (part : BitVec 4) (pa : Nat) (bytes : Nat) : Statement (.unpinRange part pa bytes) := ⟨rfl, rfl, rfl, rfl⟩
theorem landingRegister (l : LandingReg) : Statement (.landingRegister l) := ⟨rfl, rfl, rfl, rfl⟩
theorem sliceStatsClear (slice : BitVec 6) : Statement (.sliceStatsClear slice) := ⟨rfl, rfl, rfl, rfl⟩
theorem endpointTableWrite (part : BitVec 4) (epid : W16) (peer : Nat) : Statement (.endpointTableWrite part epid peer) := ⟨rfl, rfl, rfl, rfl⟩
theorem packageLeaveDomain (package : BitVec 5) : Statement (.packageLeaveDomain package) := ⟨rfl, rfl, rfl, rfl⟩
theorem boot (firmware : List Byte) (version : Nat) (signature : Signed) : Statement (.boot firmware version signature) := ⟨rfl, rfl, rfl, rfl⟩
theorem attestationRequest (nonce : BitVec 512) (part : BitVec 4) : Statement (.attestationRequest nonce part) := ⟨rfl, rfl, rfl, rfl⟩
theorem powerLimitSet (watts : Nat) : Statement (.powerLimitSet watts) := ⟨rfl, rfl, rfl, rfl⟩
theorem domainForm (self : BitVec 5) (members : BitVec 32) : Statement (.domainForm self members) := ⟨rfl, rfl, rfl, rfl⟩
theorem correctedError (src : McSource) : Statement (.correctedError src) := ⟨rfl, rfl, rfl, rfl⟩
theorem bundleIssue : Statement (.bundleIssue) := ⟨rfl, rfl, rfl, rfl⟩
theorem resultLand : Statement (.resultLand) := ⟨rfl, rfl, rfl, rfl⟩
theorem timeTick : Statement (.timeTick) := ⟨rfl, rfl, rfl, rfl⟩
theorem barrierRecordCommit : Statement (.barrierRecordCommit) := ⟨rfl, rfl, rfl, rfl⟩
theorem blockTimeout : Statement (.blockTimeout) := ⟨rfl, rfl, rfl, rfl⟩
theorem rtcfgExec : Statement (.rtcfgExec) := ⟨rfl, rfl, rfl, rfl⟩
theorem rasmExec : Statement (.rasmExec) := ⟨rfl, rfl, rfl, rfl⟩
theorem routeBegin : Statement (.routeBegin) := ⟨rfl, rfl, rfl, rfl⟩
theorem routeOqSlot : Statement (.routeOqSlot) := ⟨rfl, rfl, rfl, rfl⟩
theorem rretExec : Statement (.rretExec) := ⟨rfl, rfl, rfl, rfl⟩
theorem kvmapExec : Statement (.kvmapExec) := ⟨rfl, rfl, rfl, rfl⟩
theorem kvadvExec : Statement (.kvadvExec) := ⟨rfl, rfl, rfl, rfl⟩
theorem kvtruncExec : Statement (.kvtruncExec) := ⟨rfl, rfl, rfl, rfl⟩
theorem pnlookExec : Statement (.pnlookExec) := ⟨rfl, rfl, rfl, rfl⟩
theorem pninsExec : Statement (.pninsExec) := ⟨rfl, rfl, rfl, rfl⟩
theorem pnrelExec : Statement (.pnrelExec) := ⟨rfl, rfl, rfl, rfl⟩
theorem pxtileFire : Statement (.pxtileFire) := ⟨rfl, rfl, rfl, rfl⟩
theorem encfrmBind : Statement (.encfrmBind) := ⟨rfl, rfl, rfl, rfl⟩
theorem encfrmOne : Statement (.encfrmOne) := ⟨rfl, rfl, rfl, rfl⟩
theorem encfrmUnbind : Statement (.encfrmUnbind) := ⟨rfl, rfl, rfl, rfl⟩
theorem schedulingTick : Statement (.schedulingTick) := ⟨rfl, rfl, rfl, rfl⟩
theorem drainDivert : Statement (.drainDivert) := ⟨rfl, rfl, rfl, rfl⟩
theorem contextSave : Statement (.contextSave) := ⟨rfl, rfl, rfl, rfl⟩
theorem preemptFallback : Statement (.preemptFallback) := ⟨rfl, rfl, rfl, rfl⟩
theorem stubOverrun : Statement (.stubOverrun) := ⟨rfl, rfl, rfl, rfl⟩
theorem debugHalt : Statement (.debugHalt) := ⟨rfl, rfl, rfl, rfl⟩
theorem thermalTrip : Statement (.thermalTrip) := ⟨rfl, rfl, rfl, rfl⟩
theorem linkDown : Statement (.linkDown) := ⟨rfl, rfl, rfl, rfl⟩
theorem linkUp : Statement (.linkUp) := ⟨rfl, rfl, rfl, rfl⟩
theorem mainPowerLoss : Statement (.mainPowerLoss) := ⟨rfl, rfl, rfl, rfl⟩

end Sys2Proof.Laws.Encoded
end

