-- ==== Sys2Proof/Tests/Slice0.lean ====
section
/-! SUPPORT. Tests: ill-formed terms, words of the spec, single steps, and for each statement with hypotheses states that meet them. -/

section

-- One theorem at a time: each thread that waits for the kernel would hold its own stack.
set_option Elab.async false

open Sys2Proof Sys2Proof.Machine

/-! ### Well-formedness: one ill-formed term for each check, which the check refuses -/

theorem test_wf_guard : (Instr.add 3#6 4#6 5#6 8#4).guardOk = false ∧ (Instr.add 3#6 4#6 5#6 8#4).wf = false
    ∧ (Instr.add 3#6 4#6 5#6 9#4).wf = true := by decide

theorem test_wf_limm : (Instr.addi 3#6 4#6 5#6 0#4 (some 0xC000000#28)).limmOk = false
    ∧ (Instr.loopi 0#2 5#6 3#9 0#4 (some 0x8000000#28)).limmOk = false
    ∧ (Instr.ldl 3#6 4#6 0#4 3#2 0#4 (some 0x4000000#28)).limmOk = false
    ∧ (Instr.addi 3#6 4#6 5#6 0#4 (some 0xBFFFFFF#28)).wf = true := by decide

theorem test_wf_scalar_fields : (Instr.fence 5#3 1#15 0#4).fieldsOk = false ∧ (Instr.fence 4#3 1#15 0#4).wf = true
    ∧ (Instr.red 3#6 4#6 0#4 2#2 0#4 none).fieldsOk = false ∧ (Instr.atomMin 3#6 4#6 0#4 2#2 0#4 none).fieldsOk = false
    ∧ (Instr.atomMax 3#6 4#6 0#4 2#2 0#4 none).fieldsOk = false ∧ (Instr.atomAnd 3#6 4#6 0#4 2#2 0#4 none).fieldsOk = false
    ∧ (Instr.atomOr 3#6 4#6 0#4 2#2 0#4 none).fieldsOk = false ∧ (Instr.atomXor 3#6 4#6 0#4 2#2 0#4 none).fieldsOk = false
    ∧ (Instr.atomSwap 3#6 4#6 0#4 2#2 0#4 none).fieldsOk = false ∧ (Instr.atomCas 3#6 4#6 0#4 1#2 0#4 none).fieldsOk = false
    ∧ (Instr.atomCas 4#6 4#6 0#4 2#2 0#4 none).fieldsOk = false ∧ (Instr.atomw 6#6 4#6 0#4 0#4 none).fieldsOk = false := by decide

theorem test_wf_vector_fields : (Instr.vadd 1#5 2#5 3#5 0#3 false 3#2).fieldsOk = false
    ∧ (Instr.vsub 1#5 2#5 3#5 0#3 false 3#2).fieldsOk = false ∧ (Instr.vmul 1#5 2#5 3#5 0#3 false 3#2).fieldsOk = false
    ∧ (Instr.vfma 1#5 2#5 3#5 0#3 false 3#2).fieldsOk = false ∧ (Instr.vmax 1#5 2#5 3#5 0#3 false 3#2).fieldsOk = false
    ∧ (Instr.vmin 1#5 2#5 3#5 0#3 false 3#2).fieldsOk = false ∧ (Instr.vabs 1#5 2#5 0#3 false 3#2).fieldsOk = false
    ∧ (Instr.vneg 1#5 2#5 0#3 false 3#2).fieldsOk = false ∧ (Instr.viadd 1#5 2#5 3#5 0#3 false 3#2).fieldsOk = false
    ∧ (Instr.visub 1#5 2#5 3#5 0#3 false 3#2).fieldsOk = false ∧ (Instr.vimul 1#5 2#5 3#5 0#3 false 3#2).fieldsOk = false
    ∧ (Instr.vimulh 1#5 2#5 3#5 0#3 false 3#2).fieldsOk = false ∧ (Instr.vand 1#5 2#5 3#5 0#3 false 3#2).fieldsOk = false
    ∧ (Instr.vor 1#5 2#5 3#5 0#3 false 3#2).fieldsOk = false ∧ (Instr.vxor 1#5 2#5 3#5 0#3 false 3#2).fieldsOk = false
    ∧ (Instr.vshl 1#5 2#5 3#5 0#3 false 3#2).fieldsOk = false ∧ (Instr.vshr 1#5 2#5 3#5 0#3 false 3#2).fieldsOk = false
    ∧ (Instr.vsar 1#5 2#5 3#5 0#3 false 3#2).fieldsOk = false ∧ (Instr.vimin 1#5 2#5 3#5 0#3 false 3#2).fieldsOk = false
    ∧ (Instr.vimax 1#5 2#5 3#5 0#3 false 3#2).fieldsOk = false ∧ (Instr.vbcast 1#5 2#5 0#3 false 3#2).fieldsOk = false
    ∧ (Instr.vcvt 1#5 2#5 3#5 0#3 false).fieldsOk = false ∧ (Instr.vcvt 1#5 2#5 8#5 0#3 false).fieldsOk = false
    ∧ (Instr.vpack 1#5 2#5 0#3 2#2 0#3 false).fieldsOk = false ∧ (Instr.vunpk 1#5 2#5 6#3 0#2 0#3 false).fieldsOk = false := by decide

theorem test_wf_engine_fields : (Instr.mcfg 2#6 0#4).fieldsOk = false ∧ (Instr.mcfg 62#6 0#4).fieldsOk = false
    ∧ (Instr.qcfg 1#6 3#6 0#4).fieldsOk = false ∧ (Instr.qresv 1#6 2#6 0#6 0#4).fieldsOk = false
    ∧ (Instr.qcommit 1#6 0#6 0#4).fieldsOk = false ∧ (Instr.qawait 1#6 2#6 0#6 0#4).fieldsOk = false
    ∧ (Instr.qrel 1#6 0#6 0#4).fieldsOk = false ∧ (Instr.qtest 0#6 1#3 4#6 0#4).fieldsOk = false
    ∧ (Instr.qtest 1#6 1#3 8#6 0#4).fieldsOk = false ∧ (Instr.qtest 0#6 1#3 21#6 0#4).wf = true
    ∧ (Instr.cpyG2l 1#6 63#6 2#6 0#4).fieldsOk = false ∧ (Instr.cpyL2g 1#6 63#6 2#6 0#4).fieldsOk = false
    ∧ (Instr.cpyPe 1#6 63#6 2#6 0#4).fieldsOk = false ∧ (Instr.cpyL2l 1#6 63#6 2#6 0#4).wf = true := by decide

/-! ### Decoding: words of spec/, and one word of each row of spec/opcode_table.json with its fields placed as the row says -/

/-- The words that 01_issue_slots.md and the chapters after it give in their examples; the stop bit is not part of a slot. -/
theorem test_decode_examples :
    decodeSlot 0x0B490400 none = .ok (.jt 9#6 0x040#12 0#4) ∧ decodeSlot 0x10C61128 none = .ok (.vfma 3#5 1#5 2#5 2#3 true 0#2)
    ∧ decodeSlot 0x0C03FFC0 none = .ok (.wait 0#4 15#4 15#4 15#4 0#4) ∧ decodeSlot 0x32C52420 none = .ok (.qawait 5#6 9#6 2#6 0#4)
    ∧ decodeSlot 0x34000030 none = .ok (.qfence 3#6 0#4) ∧ decodeSlot 0x20200000 none = .ok (.mpush true 0#4)
    ∧ decodeSlot 0x20C70000 none = .ok (.mdrain false 7#5 0#4) ∧ decodeSlot 0x40140000 none = .ok (.slw 20#6 0#4 none)
    ∧ decodeSlot 0x0BC30000 none = .ok (.yield 0#4) ∧ decodeSlot 0x0BC40000 none = .ok (.trigger 0#4)
    ∧ decodeSlot 0x0BC50000 none = .ok (.waitdep 0#4) ∧ decodeSlot 0x0BC60000 none = .ok (.phase 0#4) :=
  ⟨rfl, rfl, rfl, rfl, rfl, rfl, rfl, rfl, rfl, rfl, rfl, rfl⟩

theorem test_decode_examples_2 :
    decodeSlot 0x0B986000 none = .ok (.loopi 1#2 3#6 0#9 0#4 none) ∧ decodeSlot 0x21A0A000 none = .ok (.mfeedRing true 5#6 0#4)
    ∧ decodeSlot 0x300A30E0 none = .ok (.cpyG2l 10#6 12#6 14#6 0#4) ∧ decodeSlot 0x0D830820 none = .ok (.stg 3#6 2#6 0#4 2#2 0#4 none)
    ∧ decodeSlot 0x1C062280 none = .ok (.vldg 3#5 2#4 5#5 0#3 false none) ∧ decodeSlot 0x0FC41C10 none = .ok (.atomCas 4#6 7#6 0#4 1#2 0#4 none)
    ∧ decodeSlot 0x38841400 none = .ok (.kvmap 4#6 5#6 0#6 0#4) ∧ decodeSlot 0x36041400 none = .ok (.route 4#6 5#6 0#6 0#4)
    ∧ decodeSlot 0x36461C00 none = .ok (.rtcfg 6#6 7#6 0#6 0#4) ∧ decodeSlot 0x36882400 none = .ok (.rasm 8#6 9#6 0#6 0#4)
    ∧ decodeSlot 0x3A041460 none = .ok (.pxtile 4#6 5#6 6#6 0#4) ∧ decodeSlot 0x3A482400 none = .ok (.encfrm 8#6 9#6 0#6 0#4)
    ∧ decodeSlot 0x0C500060 none = .ok (.fence 2#3 6#15 0#4) :=
  ⟨rfl, rfl, rfl, rfl, rfl, rfl, rfl, rfl, rfl, rfl, rfl, rfl, rfl⟩

theorem test_decode_limm :
    decodeWords [0x05440380#32, 0xD848D159#32] = .ok (.addi 4#6 0#6 56#6 0#4 (some 0x848D159#28), [])
    ∧ decodeWords [0x05C41300#32, 0xD66AF37B#32] = .ok (.ori 4#6 4#6 48#6 0#4 (some 0x66AF37B#28), []) := ⟨rfl, rfl⟩

theorem test_decode_rejects :
    decodeSlot 0x60000000 none = .error .reservedKind ∧ decodeSlot 0x21C00000 none = .error .unassignedOp
    ∧ decodeSlot 0x20000008 none = .error .guardReserved ∧ decodeSlot 0x20000010 none = .error .reservedField := ⟨rfl, rfl, rfl, rfl⟩

theorem test_decode_scalar_1 :
    decodeSlot 0x00153D00 none = .ok (.add 21#6 15#6 16#6 0#4)
    ∧ decodeSlot 0x00554045 none = .ok (.sub 21#6 16#6 4#6 5#4)
    ∧ decodeSlot 0x00A8A16B none = .ok (.and 40#6 40#6 22#6 11#4)
    ∧ decodeSlot 0x00CDA16E none = .ok (.or 13#6 40#6 22#6 14#4)
    ∧ decodeSlot 0x011395C7 none = .ok (.xor 19#6 37#6 28#6 7#4)
    ∧ decodeSlot 0x0178CC90 none = .ok (.andn 56#6 51#6 9#6 0#4)
    ∧ decodeSlot 0x0192B615 none = .ok (.shl 18#6 45#6 33#6 5#4)
    ∧ decodeSlot 0x01F550FB none = .ok (.shr 53#6 20#6 15#6 11#4)
    ∧ decodeSlot 0x020A96FE none = .ok (.sar 10#6 37#6 47#6 14#4)
    ∧ decodeSlot 0x027C6957 none = .ok (.rotl 60#6 26#6 21#6 7#4)
    ∧ decodeSlot 0x02AF37D0 none = .ok (.mul 47#6 13#6 61#6 0#4)
    ∧ decodeSlot 0x02FF8215 none = .ok (.mulh 63#6 32#6 33#6 5#4)
    ∧ decodeSlot 0x031F8CDB none = .ok (.mulhu 31#6 35#6 13#6 11#4)
    ∧ decodeSlot 0x0352AF9E none = .ok (.div 18#6 43#6 57#6 14#4)
    ∧ decodeSlot 0x0383F4E7 none = .ok (.divu 3#6 61#6 14#6 7#4)
    ∧ decodeSlot 0x03FF3BE0 none = .ok (.rem 63#6 14#6 62#6 0#4) :=
  ⟨rfl, rfl, rfl, rfl, rfl, rfl, rfl, rfl, rfl, rfl, rfl, rfl, rfl, rfl, rfl, rfl⟩

theorem test_decode_scalar_2 :
    decodeSlot 0x0433CB95 none = .ok (.remu 51#6 50#6 57#6 5#4)
    ∧ decodeSlot 0x047120CB none = .ok (.min 49#6 8#6 12#6 11#4)
    ∧ decodeSlot 0x0492C77E none = .ok (.max 18#6 49#6 55#6 14#4)
    ∧ decodeSlot 0x04CA8DB7 none = .ok (.minu 10#6 35#6 27#6 7#4)
    ∧ decodeSlot 0x052D9F90 none = .ok (.maxu 45#6 39#6 57#6 0#4)
    ∧ decodeSlot 0x054B5615 none = .ok (.addi 11#6 21#6 33#6 5#4 none)
    ∧ decodeSlot 0x059F75DB none = .ok (.andi 31#6 29#6 29#6 11#4 none)
    ∧ decodeSlot 0x05F28ACE none = .ok (.ori 50#6 34#6 44#6 14#4 none)
    ∧ decodeSlot 0x062F58E7 none = .ok (.xori 47#6 22#6 14#6 7#4 none)
    ∧ decodeSlot 0x0655E0B0 none = .ok (.shli 21#6 56#6 11#6 0#4)
    ∧ decodeSlot 0x06AFD245 none = .ok (.shri 47#6 52#6 36#6 5#4)
    ∧ decodeSlot 0x06CB465B none = .ok (.sari 11#6 17#6 37#6 11#4)
    ∧ decodeSlot 0x071E4C0E none = .ok (.clz 30#6 19#6 14#4)
    ∧ decodeSlot 0x073F0C17 none = .ok (.ctz 63#6 3#6 7#4)
    ∧ decodeSlot 0x07137C20 none = .ok (.popc 19#6 31#6 0#4)
    ∧ decodeSlot 0x0746AEF5 none = .ok (.sext 6#6 43#6 47#6 5#4) :=
  ⟨rfl, rfl, rfl, rfl, rfl, rfl, rfl, rfl, rfl, rfl, rfl, rfl, rfl, rfl, rfl, rfl⟩

theorem test_decode_scalar_3 :
    decodeSlot 0x07AACB9B none = .ok (.zext 42#6 50#6 57#6 11#4)
    ∧ decodeSlot 0x07DEC4EE none = .ok (.bext 30#6 49#6 14#6 14#4)
    ∧ decodeSlot 0x08092F07 none = .ok (.bins 9#6 11#6 48#6 7#4)
    ∧ decodeSlot 0x0868DA30 none = .ok (.adds0 40#6 54#6 35#6 0#4)
    ∧ decodeSlot 0x08A329D5 none = .ok (.adds1 35#6 10#6 29#6 5#4)
    ∧ decodeSlot 0x08D2181B none = .ok (.adds2 18#6 6#6 1#6 11#4)
    ∧ decodeSlot 0x091A114E none = .ok (.adds3 26#6 4#6 20#6 14#4)
    ∧ decodeSlot 0x097990A7 none = .ok (.cmp 7#3 1#3 36#6 10#6 7#4)
    ∧ decodeSlot 0x09A58240 none = .ok (.cmpi 4#3 5#3 32#6 36#6 0#4 none)
    ∧ decodeSlot 0x09CDA285 none = .ok (.plog 1#3 11#4 2#3 5#3 5#4)
    ∧ decodeSlot 0x0A1B5F2B none = .ok (.sel 27#6 23#6 6#3 2#3 11#4)
    ∧ decodeSlot 0x0A6EB65E none = .ok (.movw 46#6 2917#12 14#4)
    ∧ decodeSlot 0x0A89CEA7 none = .ok (.br 40170#18 7#4)
    ∧ decodeSlot 0x0AEE59F0 none = .ok (.call 189855#18 0#4)
    ∧ decodeSlot 0x0B007405 none = .ok (.jr 29#6 5#4)
    ∧ decodeSlot 0x0B70688B none = .ok (.jt 48#6 1672#12 11#4) :=
  ⟨rfl, rfl, rfl, rfl, rfl, rfl, rfl, rfl, rfl, rfl, rfl, rfl, rfl, rfl, rfl, rfl⟩

theorem test_decode_scalar_4 :
    decodeSlot 0x0BB6A55E none = .ok (.loop 3#2 53#6 85#9 14#4)
    ∧ decodeSlot 0x0B9E3827 none = .ok (.loopi 1#2 49#6 386#9 7#4 none)
    ∧ decodeSlot 0x0BC0AB00 none = .ok (.trap 2736#12 0#4)
    ∧ decodeSlot 0x0BC1B945 none = .ok (.brk 2964#12 5#4)
    ∧ decodeSlot 0x0BC2000B none = .ok (.exit 11#4)
    ∧ decodeSlot 0x0BC3000E none = .ok (.yield 14#4)
    ∧ decodeSlot 0x0BC40007 none = .ok (.trigger 7#4)
    ∧ decodeSlot 0x0BC50000 none = .ok (.waitdep 0#4)
    ∧ decodeSlot 0x0BC60005 none = .ok (.phase 5#4)
    ∧ decodeSlot 0x0C37F6CB none = .ok (.wait 13#4 15#4 13#4 11#4 11#4)
    ∧ decodeSlot 0x0C5E131E none = .ok (.fence 3#3 24881#15 14#4)
    ∧ decodeSlot 0x0CAA1377 none = .ok (.mfcr 42#6 311#11 7#4)
    ∧ decodeSlot 0x0C9CA990 none = .ok (.mtcr 28#6 665#11 0#4)
    ∧ decodeSlot 0x0CDD6D37 none = .ok (.ldl 29#6 27#6 4#4 3#2 7#4 none)
    ∧ decodeSlot 0x0D3597F0 none = .ok (.stl 53#6 37#6 15#4 3#2 0#4 none)
    ∧ decodeSlot 0x0D7DC625 none = .ok (.ldg 61#6 49#6 8#4 2#2 5#4 none) :=
  ⟨rfl, rfl, rfl, rfl, rfl, rfl, rfl, rfl, rfl, rfl, rfl, rfl, rfl, rfl, rfl, rfl⟩

theorem test_decode_scalar_5 :
    decodeSlot 0x0D826B1B none = .ok (.stg 2#6 26#6 12#4 1#2 11#4 none)
    ∧ decodeSlot 0x0DC6477E none = .ok (.red 6#6 17#6 13#4 3#2 14#4 none)
    ∧ decodeSlot 0x0E0BCD97 none = .ok (.atomAdd 11#6 51#6 6#4 1#2 7#4 none)
    ∧ decodeSlot 0x0E76DFD0 none = .ok (.atomMin 54#6 55#6 15#4 1#2 0#4 none)
    ∧ decodeSlot 0x0E8121C5 none = .ok (.atomMax 1#6 8#6 7#4 0#2 5#4 none)
    ∧ decodeSlot 0x0ED9235B none = .ok (.atomAnd 25#6 8#6 13#4 1#2 11#4 none)
    ∧ decodeSlot 0x0F10ED8E none = .ok (.atomOr 16#6 59#6 6#4 0#2 14#4 none)
    ∧ decodeSlot 0x0F53F8D7 none = .ok (.atomXor 19#6 62#6 3#4 1#2 7#4 none)
    ∧ decodeSlot 0x0F971340 none = .ok (.atomSwap 23#6 4#6 13#4 0#2 0#4 none)
    ∧ decodeSlot 0x0FC6B195 none = .ok (.atomCas 6#6 44#6 6#4 1#2 5#4 none)
    ∧ decodeSlot 0x0FC8362B none = .ok (.atomw 8#6 13#6 8#4 11#4 none) :=
  ⟨rfl, rfl, rfl, rfl, rfl, rfl, rfl, rfl, rfl, rfl, rfl⟩

theorem test_decode_vector_1 :
    decodeSlot 0x1028154C none = .ok (.vadd 20#5 1#5 10#5 4#3 true 2#2)
    ∧ decodeSlot 0x10436AC8 none = .ok (.vsub 1#5 22#5 21#5 4#3 true 0#2)
    ∧ decodeSlot 0x109EEA7A none = .ok (.vmul 15#5 14#5 20#5 7#3 true 1#2)
    ∧ decodeSlot 0x10EAB2AC none = .ok (.vfma 21#5 11#5 5#5 2#3 true 2#2)
    ∧ decodeSlot 0x11179B78 none = .ok (.vmax 11#5 25#5 22#5 7#3 true 0#2)
    ∧ decodeSlot 0x117F567A none = .ok (.vmin 31#5 21#5 12#5 7#3 true 1#2)
    ∧ decodeSlot 0x1199D06C none = .ok (.vabs 12#5 29#5 6#3 true 2#2)
    ∧ decodeSlot 0x11EF7058 none = .ok (.vneg 23#5 23#5 5#3 true 0#2)
    ∧ decodeSlot 0x121D2378 none = .ok (.vcmp 1#2 6#3 18#5 6#5 7#3 true)
    ∧ decodeSlot 0x1271E2AC none = .ok (.viadd 24#5 30#5 5#5 2#3 true 2#2)
    ∧ decodeSlot 0x12A373B8 none = .ok (.visub 17#5 23#5 7#5 3#3 true 0#2)
    ∧ decodeSlot 0x12D217FA none = .ok (.vimul 9#5 1#5 15#5 7#3 true 1#2)
    ∧ decodeSlot 0x131741BC none = .ok (.vimulh 11#5 20#5 3#5 3#3 true 2#2)
    ∧ decodeSlot 0x136F9A38 none = .ok (.vand 23#5 25#5 20#5 3#3 true 0#2)
    ∧ decodeSlot 0x138DC3FA none = .ok (.vor 6#5 28#5 7#5 7#3 true 1#2)
    ∧ decodeSlot 0x13E0D64C none = .ok (.vxor 16#5 13#5 12#5 4#3 true 2#2) :=
  ⟨rfl, rfl, rfl, rfl, rfl, rfl, rfl, rfl, rfl, rfl, rfl, rfl, rfl, rfl, rfl, rfl⟩

theorem test_decode_vector_2 :
    decodeSlot 0x143FE6C8 none = .ok (.vshl 31#5 30#5 13#5 4#3 true 0#2)
    ∧ decodeSlot 0x1476D62A none = .ok (.vshr 27#5 13#5 12#5 2#3 true 1#2)
    ∧ decodeSlot 0x14BE7DFC none = .ok (.vsar 31#5 7#5 27#5 7#3 true 2#2)
    ∧ decodeSlot 0x14F580E8 none = .ok (.vimin 26#5 24#5 1#5 6#3 true 0#2)
    ∧ decodeSlot 0x153DC0FA none = .ok (.vimax 30#5 28#5 1#5 7#3 true 1#2)
    ∧ decodeSlot 0x155D9A78 none = .ok (.vicmpSigned 1#2 6#3 25#5 20#5 7#3 true)
    ∧ decodeSlot 0x15BBFD18 none = .ok (.vicmpUnsigned 3#2 5#3 31#5 26#5 1#3 true)
    ∧ decodeSlot 0x15F5F268 none = .ok (.vcvt 26#5 31#5 4#5 6#3 true)
    ∧ decodeSlot 0x163585A8 none = .ok (.vpack 26#5 24#5 2#3 3#2 2#3 true)
    ∧ decodeSlot 0x166094B8 none = .ok (.vunpk 16#5 9#5 2#3 1#2 3#3 true)
    ∧ decodeSlot 0x16BA9048 none = .ok (.vexp2 29#5 9#5 4#3 true)
    ∧ decodeSlot 0x16C5A038 none = .ok (.vlog2 2#5 26#5 3#3 true)
    ∧ decodeSlot 0x1724C048 none = .ok (.vrcp 18#5 12#5 4#3 true)
    ∧ decodeSlot 0x1754A028 none = .ok (.vrsq 10#5 10#5 2#3 true)
    ∧ decodeSlot 0x178C1020 none = .ok (.vrsum 6#5 1#5 2#3)
    ∧ decodeSlot 0x17C41050 none = .ok (.vrmaxI 2#5 1#5 5#3) :=
  ⟨rfl, rfl, rfl, rfl, rfl, rfl, rfl, rfl, rfl, rfl, rfl, rfl, rfl, rfl, rfl, rfl⟩

theorem test_decode_vector_3 :
    decodeSlot 0x18101070 none = .ok (.vrminI 8#5 1#5 7#3)
    ∧ decodeSlot 0x18528060 none = .ok (.vscan 9#5 8#5 6#3)
    ∧ decodeSlot 0x188F32E0 none = .ok (.vsrch 7#5 19#5 5#5 6#3)
    ∧ decodeSlot 0x18D40A48 none = .ok (.vrand 10#5 5#3 4#3 true)
    ∧ decodeSlot 0x18FA1818 none = .ok (.vrandF 29#5 4#3 1#3 true)
    ∧ decodeSlot 0x19373478 none = .ok (.vperm 27#5 19#5 8#5 7#3 true)
    ∧ decodeSlot 0x194E0A3A none = .ok (.vbcast 7#5 20#5 3#3 true 1#2)
    ∧ decodeSlot 0x19A8AAC8 none = .ok (.vslide 20#5 10#5 21#5 4#3 true)
    ∧ decodeSlot 0x19CD9C90 none = .ok (.vsel 6#5 25#5 25#5 1#3)
    ∧ decodeSlot 0x1A3A6380 none = .ok (.mlog 3#2 5#3 6#3 7#3)
    ∧ decodeSlot 0x1A7E3070 none = .ok (.mpop 31#5 3#3 7#3)
    ∧ decodeSlot 0x1AA04070 none = .ok (.mfirst 16#5 4#3 7#3)
    ∧ decodeSlot 0x1AD00050 none = .ok (.vpart 8#5 5#3)
    ∧ decodeSlot 0x1AFE1070 none = .ok (.vpartInv 31#5 7#3)
    ∧ decodeSlot 0x1B28BE68 none = .ok (.vldl 20#5 11#4 28#5 6#3 true none)
    ∧ decodeSlot 0x1B6A6FF0 none = .ok (.vstl 21#5 6#4 31#5 7#3 none) :=
  ⟨rfl, rfl, rfl, rfl, rfl, rfl, rfl, rfl, rfl, rfl, rfl, rfl, rfl, rfl, rfl, rfl⟩

theorem test_decode_vector_4 :
    decodeSlot 0x1BB1ABF8 none = .ok (.vgath 24#5 26#5 23#5 7#3 true none)
    ∧ decodeSlot 0x1BE82570 none = .ok (.vscat 20#5 2#5 10#5 7#3 none)
    ∧ decodeSlot 0x1C20BAD8 none = .ok (.vldg 16#5 11#4 21#5 5#3 true none)
    ∧ decodeSlot 0x1C7E4640 none = .ok (.vstg 31#5 4#4 12#5 4#3 none)
    ∧ decodeSlot 0x1C942F00 none = .ok (.vmovg 10#5 2#5 30#5)
    ∧ decodeSlot 0x1CCB8E80 none = .ok (.vextr 5#5 24#5 29#5)
    ∧ decodeSlot 0x1D25FA70 none = .ok (.accept 18#5 31#5 20#5 7#3) :=
  ⟨rfl, rfl, rfl, rfl, rfl, rfl, rfl⟩

theorem test_decode_matrix :
    decodeSlot 0x2020000E none = .ok (.mpush true 14#4)
    ∧ decodeSlot 0x20400007 none = .ok (.mshift 7#4)
    ∧ decodeSlot 0x20AB0000 none = .ok (.mpreld true 11#5 0#4)
    ∧ decodeSlot 0x20EB0005 none = .ok (.mdrain true 11#5 5#4)
    ∧ decodeSlot 0x2120000B none = .ok (.mzero true 11#4)
    ∧ decodeSlot 0x2148000E none = .ok (.mcfg 8#6 14#4)
    ∧ decodeSlot 0x21A54007 none = .ok (.mfeedRing true 42#6 7#4)
    ∧ decodeSlot 0x21AA4000 none = .ok (.mfeedMesh true 18#6 0#4)
    ∧ decodeSlot 0x21B16005 none = .ok (.mfeedHandle true 11#6 5#4) :=
  ⟨rfl, rfl, rfl, rfl, rfl, rfl, rfl, rfl, rfl⟩

theorem test_decode_engine_1 :
    decodeSlot 0x30115B7E none = .ok (.cpyG2l 17#6 22#6 55#6 14#4)
    ∧ decodeSlot 0x30546147 none = .ok (.cpyL2g 20#6 24#6 20#6 7#4)
    ∧ decodeSlot 0x30AD81B0 none = .ok (.cpyL2l 45#6 32#6 27#6 0#4)
    ∧ decodeSlot 0x30C85895 none = .ok (.cpyCl 8#6 22#6 9#6 5#4)
    ∧ decodeSlot 0x313350BB none = .ok (.cpyPe 51#6 20#6 11#6 11#4)
    ∧ decodeSlot 0x3206280B none = .ok (.qcfg 6#6 10#6 11#4)
    ∧ decodeSlot 0x323F001E none = .ok (.qcfgOff 63#6 14#4)
    ∧ decodeSlot 0x327A2397 none = .ok (.qresv 58#6 8#6 57#6 7#4)
    ∧ decodeSlot 0x328F00A0 none = .ok (.qcommit 15#6 10#6 0#4)
    ∧ decodeSlot 0x32ECB425 none = .ok (.qawait 44#6 45#6 2#6 5#4)
    ∧ decodeSlot 0x333F022B none = .ok (.qrel 63#6 34#6 11#4)
    ∧ decodeSlot 0x335C9C0E none = .ok (.qtick 28#6 39#6 14#4)
    ∧ decodeSlot 0x33B76007 none = .ok (.qfill 55#6 24#6 7#4)
    ∧ decodeSlot 0x33C31C20 none = .ok (.qtest 3#6 7#3 2#6 0#4)
    ∧ decodeSlot 0x340000D5 none = .ok (.qfence 13#6 5#4)
    ∧ decodeSlot 0x3638780E none = .ok (.route 56#6 30#6 0#6 14#4) :=
  ⟨rfl, rfl, rfl, rfl, rfl, rfl, rfl, rfl, rfl, rfl, rfl, rfl, rfl, rfl, rfl, rfl⟩

theorem test_decode_engine_2 :
    decodeSlot 0x36727007 none = .ok (.rtcfg 50#6 28#6 0#6 7#4)
    ∧ decodeSlot 0x36AFA000 none = .ok (.rasm 47#6 40#6 0#6 0#4)
    ∧ decodeSlot 0x36F10405 none = .ok (.rret 49#6 1#6 0#6 5#4)
    ∧ decodeSlot 0x38297807 none = .ok (.kvadv 41#6 30#6 0#6 7#4)
    ∧ decodeSlot 0x38515C00 none = .ok (.kvtrunc 17#6 23#6 0#6 0#4)
    ∧ decodeSlot 0x3891F005 none = .ok (.kvmap 17#6 60#6 0#6 5#4)
    ∧ decodeSlot 0x38DDF14B none = .ok (.pnlook 29#6 60#6 20#6 11#4)
    ∧ decodeSlot 0x393E88AE none = .ok (.pnins 62#6 34#6 10#6 14#4)
    ∧ decodeSlot 0x395E8007 none = .ok (.pnrel 30#6 32#6 0#6 7#4)
    ∧ decodeSlot 0x3A2C79B0 none = .ok (.pxtile 44#6 30#6 27#6 0#4)
    ∧ decodeSlot 0x3A5D1805 none = .ok (.encfrm 29#6 6#6 0#6 5#4) :=
  ⟨rfl, rfl, rfl, rfl, rfl, rfl, rfl, rfl, rfl, rfl, rfl⟩

theorem test_decode_scale :
    decodeSlot 0x40380007 none = .ok (.slw 56#6 7#4 none)
    ∧ decodeSlot 0x404B0000 none = .ok (.sln 11#6 0#4 none)
    ∧ decodeSlot 0x40A98005 none = .ok (.slzp 41#6 true 5#4 none)
    ∧ decodeSlot 0x40C3880B none = .ok (.slset 3#6 true 4#6 11#4) :=
  ⟨rfl, rfl, rfl, rfl⟩
/-! ### Witnesses: for each statement with hypotheses, states and operands that meet them -/

/-- The core after reset with a unit running on it, changed by f. -/
def withUnit (f : Machine.Unit → Machine.Unit) : State := { State.reset with unit := f { Machine.Unit.start with run := .running } }

/-- A unit with one value in each of some registers. -/
def withG (vs : List (Nat × W64)) (u : Machine.Unit) : Machine.Unit := { u with g := vs.foldl (fun g e => g.setIfInBounds e.1 e.2) u.g }

/-- The running unit with nothing else changed. -/
def plainUnit : State := withUnit id

theorem witness_EncodeDecodeRoundTrip :
    (Instr.addi 3#6 4#6 5#6 9#4 (some 0xBFFFFFF#28)).wf = true ∧ (Instr.addi 3#6 4#6 5#6 9#4 (some 0xBFFFFFF#28)).isEvent = false
    ∧ 0x05440380 < 2 ^ 31 ∧ decodeSlot 0x05440380 (some 0x848D159#28) = .ok (.addi 4#6 0#6 56#6 0#4 (some 0x848D159#28)) :=
  ⟨rfl, rfl, by decide, rfl⟩

theorem witness_MachineOk : MachineOk State.reset :=
  ⟨⟨by decide, by decide, by decide, .nil, by decide, .nil, by decide, by decide⟩, by decide⟩

theorem test_reset_ticks : nextEvent State.reset = .timeTick := by decide +kernel

theorem witness_MachineOkKeptByEveryStep : MachineOk State.reset ∧ ∃ t, step State.reset = .next t :=
  ⟨witness_MachineOk, by
    rw [show step State.reset = exec (nextEvent State.reset) (beforeEvent State.reset) from rfl, test_reset_ticks]; exact ⟨_, rfl⟩⟩

theorem witness_MemoryReadsAfterWrites :
    Memory.wf [(1, 2#8)] = true ∧ (∀ a, readByte [(1, 2#8)] a = readByte [(1, 2#8)] a)
    ∧ (5 < 6 ∨ 6 + [1#8, 2#8].length ≤ 5) ∧ 1 < 2 := ⟨by decide, fun _ => rfl, by decide, by decide⟩

theorem witness_StepRunsDecodedInstruction :
    let s := withUnit fun u => { u with istore := [(0, 0x05440380#32), (1, 0xD848D159#32)] }
    s.agenda = [] ∧ mayIssue s = true ∧ s.unit.ctx.tried = false
    ∧ decodeWords (wordsAhead s.unit) = .ok (.addi 4#6 0#6 56#6 0#4 (some 0x848D159#28), [0#32, 0#32, 0#32, 0#32, 0#32, 0#32, 0#32])
    ∧ (Instr.addi 4#6 0#6 56#6 0#4 (some 0x848D159#28)).wf = true
    ∧ slotWords (.addi 4#6 0#6 56#6 0#4 (some 0x848D159#28)) ≤ wordsLeft s.unit
    ∧ (fetchWord s.unit (s.unit.pc.toNat + 4 * (slotWords (.addi 4#6 0#6 56#6 0#4 (some 0x848D159#28)) - 1))).msb = true :=
  ⟨rfl, rfl, rfl, rfl, rfl, by decide, rfl⟩

theorem witness_StepRunsAgenda :
    ({ plainUnit with agenda := [.timeTick] }).agenda = .timeTick :: [] ∧ Instr.timeTick.isEvent = true
    ∧ ({ plainUnit with agenda := [.exit 0#4] }).agenda = .exit 0#4 :: [] ∧ (Instr.exit 0#4).isEvent = false := ⟨rfl, rfl, rfl, rfl⟩

theorem witness_GuardedOffSlotHasNoEffect :
    (1#3 ≠ 0#3) ∧ (Instr.movw 3#6 5#12 1#4).guard? = some 1#4 ∧ guardOn 1#4 (landDue plainUnit).unit = false
    ∧ (Instr.movw 3#6 5#12 8#4).guard? = some 8#4 ∧ (Instr.movw 3#6 5#12 8#4).word? ≠ none := by decide

/-- Two results for G3, one due and one later, one for P1, and one for M1 and V1. -/
def inFlight : State := withUnit fun u => { u with
  cyc := 5, landing := [⟨5, 1, .g 3#6 7#64, 1#6⟩, ⟨9, 2, .g 3#6 8#64, 0#6⟩, ⟨5, 3, .p 1#3 true, 0#6⟩, ⟨4, 4, .v 1#5 1#2048 1#2048, 0#6⟩, ⟨4, 5, .m 1#3 1#64 1#64, 0#6⟩] }

theorem witness_LatestDueResultStands :
    (∀ l ∈ inFlight.unit.landing, l.due ≤ inFlight.unit.cyc → ∀ w, l.dest ≠ .g 4#6 w)
    ∧ (∀ l ∈ inFlight.unit.landing, l.due ≤ inFlight.unit.cyc → ∀ b d, l.dest ≠ .v 4#5 b d)
    ∧ inFlight.unit.landing = [] ++ ⟨5, 1, .g 3#6 7#64, 1#6⟩ :: inFlight.unit.landing.tail ∧ 5 ≤ inFlight.unit.cyc ∧ 3#6 ≠ 0#6
    ∧ (∀ k ∈ inFlight.unit.landing.tail, k.due ≤ inFlight.unit.cyc → ∀ w, k.dest ≠ .g 3#6 w)
    ∧ (1#6 : BitVec 6).getLsbD 0 = true := by
  simp [inFlight, withUnit]
/-- Hypotheses that several statements share: a slot that runs, and nothing else. -/
theorem witness_guard :
    guardOn 0#4 (landDue plainUnit).unit = true ∧ (landDue plainUnit).unit.launch.paired = false
    ∧ canEnqueue (landDue plainUnit).unit 0 = true ∧ canEnqueue (landDue plainUnit).unit 4 = true
    ∧ canEnqueue (landDue plainUnit).unit 5 = true ∧ canDraw (landDue plainUnit).unit 0 1 = true := by decide +kernel

/-- G5 holds −2^63 and G6 −1; every other register 0. -/
def divUnit : State := withUnit (withG [(5, 0x8000000000000000#64), (6, 0xFFFFFFFFFFFFFFFF#64)])

theorem witness_DivisionResults :
    guardOn 0#4 (landDue divUnit).unit = true ∧ gReg (landDue divUnit).unit 7#6 = 0#64 ∧ gReg (landDue divUnit).unit 6#6 ≠ 0#64
    ∧ (gReg (landDue divUnit).unit 5#6).toInt = -2 ^ 63 ∧ (gReg (landDue divUnit).unit 6#6).toInt = -1
    ∧ ¬((gReg (landDue divUnit).unit 6#6).toInt = -2 ^ 63 ∧ (gReg (landDue divUnit).unit 6#6).toInt = -1) := by decide +kernel

theorem witness_RegisterAluResults : guardOn 0#4 (landDue divUnit).unit = true := by decide +kernel

theorem witness_ImmediateAndMoveResults :
    guardOn 0#4 (landDue divUnit).unit = true ∧ (0x3FFFFFF#28).toNat / 2 ^ 26 = 0 ∧ (0x4000000#28).toNat / 2 ^ 26 = 1
    ∧ (0xBFFFFFF#28).toNat / 2 ^ 26 = 2 := by decide +kernel

theorem witness_BitAndFieldResults : guardOn 0#4 (landDue divUnit).unit = true ∧ 63 < 64 := by decide +kernel

theorem witness_ComparesAndPredicateLogic : guardOn 0#4 (landDue divUnit).unit = true := by decide +kernel

/-- The jump table of two entries at 4, its count in bits 26 to 19; G5 holds the last word's address, G6 the size of the store, G7 1. -/
def jumpUnit : State := withUnit fun u => withG [(5, 0x7FFFC#64), (6, 0x80000#64), (7, 1#64)]
  { u with istore := [(1, 0x00080010#32), (2, 0x0007FFFC#32), (3, 0x08000000#32)] }

theorem witness_TransfersReachTargets :
    guardOn 0#4 (landDue jumpUnit).unit = true
    ∧ (0 : Int) ≤ 0 + 4 * (0x1FFFF#18).toInt ∧ (0 : Int) + 4 * (0x1FFFF#18).toInt < 0x80000 ∧ ((0 : Int) + 4 * (0x1FFFF#18).toInt) % 4 = 0
    ∧ ¬((0 : Int) ≤ 0 + 4 * (0x3FFFF#18).toInt)
    ∧ (gReg (landDue jumpUnit).unit 5#6).toNat < 0x80000 ∧ (gReg (landDue jumpUnit).unit 5#6).toNat % 4 = 0
    ∧ ¬((gReg (landDue jumpUnit).unit 6#6).toNat < 0x80000)
    ∧ (fetchWord (landDue jumpUnit).unit 4).toNat / 2 ^ 19 % 256 = 1 ∧ (gReg (landDue jumpUnit).unit 7#6).toNat = 1
    ∧ (fetchWord (landDue jumpUnit).unit (4 + 4 * 1)).toNat / 2 ^ 27 = 0 ∧ (fetchWord (landDue jumpUnit).unit 8).toNat % 4 = 0
    ∧ (fetchWord (landDue jumpUnit).unit 12).toNat / 2 ^ 27 ≠ 0 := by decide +kernel

/-- d levels, each over words 0 to 0x40, with counters 2, 1, 0, 0. -/
def loopUnit (d : Nat) : State := withUnit fun u => { u with loops := {
  lc := #v[2#32, 1#32, 0#32, 0#32], start := Vector.replicate 4 0#19, last := #v[0x40#19, 0x40#19, 0#19, 0#19]
  sel := #v[0#2, 1#2, 2#2, 3#2], depth := d } }

theorem witness_LoopsPushAndRepeat :
    guardOn 0#4 (landDue (loopUnit 4)).unit = true ∧ 4 ≤ (landDue (loopUnit 4)).unit.loops.depth
    ∧ (landDue (loopUnit 1)).unit.loops.depth < 4 ∧ ((landDue (loopUnit 1)).unit.loops.last[0]).toNat < 0 + 4 * 1 + 4 * (17#9).toNat
    ∧ (landDue (loopUnit 1)).unit.loops.sel[(0 : Fin 4)] = 0#2
    ∧ (landDue (loopUnit 0)).unit.loops.depth = 0 ∧ (0#6).setWidth 32 = 0#32 ∧ (63#6).setWidth 32 ≠ 0#32
    ∧ 4 + 4 * (511#9).toNat < 2 ^ 19 ∧ (landDue (loopUnit 0)).unit.pc.toNat < 4 := by decide +kernel

/-- The same single level, the program counter at its last bundle, with counter n. -/
def loopEnd (n : W32) (pc : BitVec 19) : State := withUnit fun u => { u with pc := pc, loops := { (loopUnit 1).unit.loops with
  lc := #v[n, 1#32, 0#32, 0#32] } }

theorem witness_LoopEndTest :
    (Instr.movw 3#6 5#12 1#4).guard? = some 1#4 ∧ guardOn 1#4 (landDue (loopEnd 2#32 0x40#19)).unit = false
    ∧ (landDue (loopEnd 2#32 0x40#19)).unit.loops.depth = 1
    ∧ (landDue (loopEnd 2#32 0x40#19)).unit.loops.last[0] = (landDue (loopEnd 2#32 0x40#19)).unit.pc
    ∧ 1 < ((landDue (loopEnd 2#32 0x40#19)).unit.loops.lc[0]).toNat ∧ ((landDue (loopEnd 1#32 0x40#19)).unit.loops.lc[0]).toNat ≤ 1
    ∧ (landDue (loopEnd 2#32 0x3C#19)).unit.loops.last[0] ≠ (landDue (loopEnd 2#32 0x3C#19)).unit.pc := by decide +kernel

/-- A second level may be pushed inside the first; a transfer finds both. -/
theorem witness_NestedLevels :
    guardOn 0#4 (landDue (loopUnit 1)).unit = true ∧ (landDue (loopUnit 1)).unit.loops.depth < 4
    ∧ ¬(((landDue (loopUnit 1)).unit.loops.last[0]).toNat < 0 + 4 * 1 + 4 * (15#9).toNat)
    ∧ (∀ k : Fin 4, k.val < 1 → (landDue (loopUnit 1)).unit.loops.sel[k] ≠ 1#2) ∧ 0 + 4 * 1 + 4 * (15#9).toNat < 2 ^ 19
    ∧ (63#6).setWidth 32 ≠ 0#32 ∧ (0#6).setWidth 32 = 0#32 ∧ (landDue (loopUnit 2)).unit.loops.depth ≤ 4 := by decide +kernel

theorem witness_TrapAndBreakFreeze :
    guardOn 0#4 (landDue plainUnit).unit = true ∧ (landDue plainUnit).unit.cr.pending = false
    ∧ (landDue plainUnit).unit.loops.depth = 0 := by decide +kernel

theorem witness_TrapEntry : plainUnit.unit.cr.pending = false ∧ 7 < 8 ∧ 255 < 256 := by decide +kernel

/-- A unit with a pre-emption request in its save half. -/
def savingUnit (nl : Nat) : State := withUnit fun u => { u with nl := nl, cr := { u.cr with pending := true } }

/-- An open session of partition 0 in phase 0, with nothing submitted. -/
def aJob : Job := ⟨⟨0#4, 0#32, false, 0#2, false, 0#3, 0#64, 0#64, 0#64, 0#64, 64#32, 0#128, 0#64, 0#64, 0#64, 0#64, 0#32, 0#32, 0#12⟩,
  true, 0#32, 0#64, 0#32, 0, 0#128, 0#3, 0#16, [], 0#32, 0#32, [], 0, none, false, false, 0#8, 0#12, 0#4, .none⟩

/-- A unit of that session whose launch allows PHASE, arrived in phase p. -/
def phaseUnit (p : W32) : State :=
  { withUnit fun u => { u with launch := { UnitLaunch.none with phb := true, arrived := some p } } with jobs := [(0, aJob)] }

theorem witness_UnitControlCompletes :
    guardOn 0#4 (landDue (savingUnit 0)).unit = true ∧ (landDue plainUnit).unit.cr.pending = false
    ∧ (landDue (savingUnit 0)).unit.cr.pending = true ∧ (landDue (savingUnit 0)).unit.cr.restore = false
    ∧ unitQuiet (landDue (savingUnit 0)).unit = true ∧ unitQuiet (landDue (savingUnit 1)).unit = false
    ∧ unitJob (landDue plainUnit) = none ∧ (landDue plainUnit).unit.launch.phb = false
    ∧ (landDue (phaseUnit 1#32)).unit.launch.phb = true ∧ unitJob (landDue (phaseUnit 1#32)) = some aJob
    ∧ (landDue (phaseUnit 1#32)).unit.launch.arrived = some 1#32 ∧ 1#32 ≠ aJob.phase
    ∧ (landDue (phaseUnit 0#32)).unit.launch.arrived = some 0#32 ∧ 0#32 = aJob.phase
    ∧ othersOut (landDue (phaseUnit 0#32)) aJob = [] := by decide +kernel

/-- Two loads outstanding, and an error of a load to surface. -/
def waitUnit (nl : Nat) (ds : List Deferred) : State := withUnit fun u => { u with nl := nl, deferred := ds }

theorem witness_WaitAndFence :
    guardOn 0#4 (landDue (waitUnit 2 [])).unit = true ∧ (landDue (waitUnit 2 [])).unit.nl ≤ (2#4).toNat
    ∧ ¬(1#4 = 15#4 ∨ (landDue (waitUnit 2 [])).unit.nl ≤ (1#4).toNat) ∧ (landDue (waitUnit 2 [])).unit.deferred = []
    ∧ (landDue (waitUnit 0 [⟨1, 0, 0x2D#8, 3#4, 5#64, none, 0⟩])).unit.deferred = [⟨1, 0, 0x2D#8, 3#4, 5#64, none, 0⟩]
    ∧ (landDue (waitUnit 0 [])).unit.nl = 0 ∧ (waitUnit 0 []).unit.cr.pending = false
    ∧ (landDue plainUnit).unit.fences = [] ∧ (landDue plainUnit).unit.accs = [] ∧ (landDue plainUnit).unit.posted = []
    ∧ 1#3 ≠ 0#3 ∧ ((0x7FFF#15).setWidth 16 ||| 0x8000#16).getLsbD 15 = true := by decide +kernel

/-- The unit holds bank 0 alone; its pool has n entries drawn for barriers. -/
def bankUnit (n : Nat) : State := withUnit fun u => { u with pad := { u.pad with banks := 1#16 }, nt := n }

theorem witness_ControlRegisterMoves :
    guardOn 0#4 (landDue (bankUnit 0)).unit = true ∧ crAssigned 0x050 = true
    ∧ ¬((0x050 : Nat) ≤ 0x050 ∧ 0x050 < 0x060 ∧ (landDue (bankUnit 0)).unit.pad.banks.getLsbD 0 = false)
    ∧ crAssigned 0x7FF = false ∧ crAssigned 0x05F = true ∧ (landDue (bankUnit 0)).unit.pad.banks.getLsbD 15 = false
    ∧ crWriteTrap (landDue (bankUnit 0)) 0x007 (gReg (landDue (bankUnit 0)).unit 5#6) = none ∧ 0x007#11 ≠ 0x0D1#11
    ∧ canDraw (landDue (bankUnit 0)).unit 0 1 = true ∧ canDraw (landDue (bankUnit Config.poolSize)).unit 0 1 = false := by decide +kernel

/-- The ring of w0 and w1, its indices as given. -/
def ringOf (w0 : W64) (h t r : W16) : Ring := ⟨w0, 1#64, h, t, r, 0#1024, 0#1024, 0#1024⟩

/-- Q5 is that ring in bank 0, of four slots of 32 bytes and scope .clu; the unit may produce into it. -/
def ringUnit (h t r : W16) : State := withUnit fun u =>
  let u := withRing 5#6 (ringOf 0x0010000000600000#64 h t r) u
  { u with pad := { u.pad with banks := 1#16 }, cr := { u.cr with qsel := 5#6 } }

theorem witness_ControlRegisterWritesTakeEffect :
    loopsOk (setLdepth plainUnit.unit.loops 0#64) = true ∧ plainUnit.unit.loops.depth = 0
    ∧ (bankUnit 0).unit.pad.banks.getLsbD (0#4).toNat = true ∧ fmtValid 0x000006400000000C#64 = true
    ∧ selRing (ringUnit 0#16 0#16 0#16).unit = some (ringOf 0x0010000000600000#64 0#16 0#16 0#16)
    ∧ ringBusy (ringUnit 0#16 0#16 0#16).unit 5#6 = false ∧ qidxOk (ringOf 0x0010000000600000#64 0#16 0#16 0#16) 0x000400030000#64 = true
    ∧ (0x0200000000001000#64).toNat < 2 ^ 58 ∧ (0x0200000000001000#64).toNat / 2 ^ 56 % 4 ≠ 3
    ∧ (0x0200000000001000#64).toNat / 2 ^ 37 % 2 ^ 19 = 0 ∧ (0x0200000000001000#64).toNat / 2 ^ 16 % 4 = 0
    ∧ canDraw plainUnit.unit plainUnit.unit.ns 1 = true := by decide +kernel

/-- Values that an MTCR writes and values that it traps on: of the loop stack, a bank's format, ring indices, the copy mode and the barrier. -/
theorem witness_ControlRegisterValues :
    (0#64).toNat / 2 ^ 0 % 2 ^ 3 = 0 ∧ ¬((5#64).toNat / 2 ^ 0 % 2 ^ 3 ≤ 4)
    ∧ 0 < (landDue (loopUnit 1)).unit.loops.depth ∧ (0x40#64).toNat % 2 ^ 19 / 4 * 4 ≤ ((landDue (loopUnit 1)).unit.loops.last[0]).toNat
    ∧ ¬((0x44#64).toNat % 2 ^ 19 / 4 * 4 ≤ ((landDue (loopUnit 1)).unit.loops.last[0]).toNat)
    ∧ (landDue (bankUnit 0)).unit.pad.banks.getLsbD 0 = true ∧ (12#64).toNat % 2 ^ 4 ≤ 12 ∧ ¬((13#64).toNat % 2 ^ 4 ≤ 12)
    ∧ selRing (landDue (ringUnit 0#16 0#16 0#16)).unit = some (ringOf 0x0010000000600000#64 0#16 0#16 0#16)
    ∧ ringBusy (landDue (ringUnit 0#16 0#16 0#16)).unit 5#6 = false ∧ qidxOk (ringOf 0x0010000000600000#64 0#16 0#16 0#16) 0x000400030000#64 = true
    ∧ qidxOk (ringOf 0x0010000000600000#64 0#16 0#16 0#16) 0x000100030000#64 = false
    ∧ (0x0200000000001000#64).toNat / 2 ^ 56 % 2 ^ 2 = 2 ∧ (0x0300000000001000#64).toNat / 2 ^ 56 % 2 ^ 2 = 3
    ∧ (5#64).toNat < 64 ∧ ¬((64#64).toNat < 64) ∧ crAssigned 0x007 = true ∧ 0x007 < 0x014
    ∧ 0x007#11 ∉ [0x083#11, 0x0A0#11, 0x0A2#11, 0x0D1#11] := by decide +kernel

/-- Q5 as above, in a gang of two cores, of which core 1 has not arrived. -/
def barrierUnit : State := withUnit fun u =>
  let u := withRing 5#6 (ringOf 0x0010000000600000#64 0#16 0#16 0#16) u
  { u with launch := { UnitLaunch.none with nr := 1, nc := 2, units := 2#32 } }

theorem witness_BarrierArrives :
    (5#64).toNat < 64 ∧ barrierUnit.unit.cr.cbarPend = false
    ∧ ringAt barrierUnit.unit.pad ((5#64).setWidth 6) = some (ringOf 0x0010000000600000#64 0#16 0#16 0#16)
    ∧ (ringOf 0x0010000000600000#64 0#16 0#16 0#16).cons = 0
    ∧ (ringOf 0x0010000000600000#64 0#16 0#16 0#16).perm.testBit barrierUnit.unit.cr.lcore.toNat = true
    ∧ (∃ c ∈ gangCores barrierUnit.unit, c ≠ barrierUnit.unit.cr.lcore.toNat ∧ barrierUnit.unit.cr.cbarPeers.getLsbD c = false
      ∧ peerDone barrierUnit c = false) := by decide +kernel

/-! ### Witnesses: memory, vectors and the matrix array -/

/-- Bank 0 alone, and G5 an address. -/
def padUnit (a : W64) : State := withUnit fun u => withG [(5, a)] { u with pad := { u.pad with banks := 1#16 } }

theorem witness_LocalLoadAndStore :
    guardOn 0#4 (landDue (padUnit 0x1FFFC#64)).unit = true
    ∧ (∀ a ∈ [0x1FFFC, 0x1FFFE], (addrOf (landDue (padUnit (w64 a))).unit 5#6 none).toNat = a ∧ a < 0x200000
      ∧ (landDue (padUnit (w64 a))).unit.pad.banks.getLsbD (a / 0x20000) = true)
    ∧ 0x1FFFC % 2 ^ (2#2).toNat = 0 ∧ 0x1FFFE % 2 ^ (2#2).toNat ≠ 0
    ∧ (addrOf (landDue (padUnit 0x20000#64)).unit 5#6 none).toNat = 0x20000
    ∧ (landDue (padUnit 0x20000#64)).unit.pad.banks.getLsbD (0x20000 / 0x20000) = false := by decide +kernel

theorem witness_LocalAccessesComplete :
    guardOn 0#4 (landDue (padUnit 0x1FFFC#64)).unit = true ∧ (addrOf (landDue (padUnit 0x1FFFC#64)).unit 5#6 none).toNat < 0x200000
    ∧ (landDue (padUnit 0x1FFFC#64)).unit.pad.banks.getLsbD ((addrOf (landDue (padUnit 0x1FFFC#64)).unit 5#6 none).toNat / 0x20000) = true
    ∧ (addrOf (landDue (padUnit 0x1FFFC#64)).unit 5#6 none).toNat % 2 ^ (2#2).toNat = 0 := by decide +kernel

theorem witness_VectorLocalLoadsAndStores :
    (∀ k < 64, (mReg (landDue (padUnit 0x1FF00#64)).unit 0#3).getLsbD k = true →
      (∀ j < 4, 0x1FF00 + 4 * k + j < 0x200000
        ∧ (landDue (padUnit 0x1FF00#64)).unit.pad.banks.getLsbD ((0x1FF00 + 4 * k + j) / 0x20000) = true)
        ∧ (0x1FF00 + 4 * k) % 4 = 0)
    ∧ (∀ k < 64, (0x1FF00#64 + BitVec.ofNat 64 (lane (vReg (landDue (padUnit 0x1FF00#64)).unit 3#5) k)).toNat = 0x1FF00)
    ∧ (mReg (landDue (padUnit 0x1FF02#64)).unit 0#3).getLsbD 63 = true
    ∧ (landDue (padUnit 0x1FF02#64)).unit.pad.banks.getLsbD ((0x1FF02 + 4 * 63 + 1) / 0x20000) = true
    ∧ (landDue (padUnit 0x1FF02#64)).unit.pad.banks.getLsbD ((0x1FF02 + 4 * 63 + 2) / 0x20000) = false
    ∧ ¬((landDue (padUnit 0x20000#64)).unit.pad.banks.getLsbD (0x20000 / 0x20000) = true)
    ∧ (∀ k < 64, ∀ j < 4, (landDue (padUnit 0x1FEFE#64)).unit.pad.banks.getLsbD ((0x1FEFE + 4 * k + j) / 0x20000) = true)
    ∧ (∃ k < 64, (mReg (landDue (padUnit 0x1FEFE#64)).unit 0#3).getLsbD k = true ∧ (0x1FEFE + 4 * k) % 4 ≠ 0) := by decide +kernel

/-- R146: a word whose last bytes lie in a bank that is not allotted raises 0x17, though it is misaligned too. -/
theorem test_straddling_lane_traps_17 :
    vectorTrap 1#16 [(0, 0x1FFFE#64)] = some 0x17 ∧ vectorTrap 0xFFFF#16 [(0, 0x1FFFFE#64)] = some 0x17
    ∧ vectorTrap 1#16 [(0, 0x1FFFA#64)] = some 0x18 := by decide +kernel

/-- The pool has n entries drawn for barriers; G4 to G7 hold an address, a value, and a descriptor of two ranks of 64 bits. -/
def globalUnit (n : Nat) (va desc : W64) : State :=
  withUnit fun u => withG [(4, va), (6, 7#64), (7, desc)] { u with nt := n }

theorem witness_GlobalAccessesEnter :
    guardOn 0#4 (landDue (globalUnit 4095 0x1000#64 0#64)).unit = true ∧ canDraw (landDue (globalUnit 4095 0x1000#64 0#64)).unit 0 1 = true
    ∧ (addrOf (landDue (globalUnit 4095 0x1000#64 0#64)).unit 4#6 none).toNat % 8 = 0
    ∧ (addrOf (landDue (globalUnit 4095 0x1000#64 0#64)).unit 4#6 none).toNat % 16 = 0
    ∧ canDraw (landDue (globalUnit 4096 0x1000#64 0#64)).unit 0 1 = false := by decide +kernel

theorem witness_ReductionAndGlobalTraps :
    (gNat (landDue (globalUnit 0 0x1000#64 0x100010001#64)).unit 7) = 0x100010001#64 ∧ (0x100010001#64).toNat < 2 ^ 34
    ∧ (0x100010001#64).toNat / 2 ^ 28 % 16 = 0 ∧ (0x100010001#64).toNat / 2 ^ 12 % 16 = 0 ∧ (1#12 : BitVec 12) ≤ 1#12 ∧ 2 ^ (3#2).toNat = 8
    ∧ 0x1000 % 8 = 0 ∧ 0x1004 % 8 ≠ 0 ∧ ¬((2#12 : BitVec 12) ≤ 1#12)
    ∧ canDraw (landDue (globalUnit 4096 0x1000#64 0x100010001#64)).unit 0 1 = false
    ∧ canDraw (landDue (globalUnit 0 0x1000#64 0x100010001#64)).unit 0 1 = true := by decide +kernel

theorem witness_vector_types : 0#2 ≠ 3#2 ∧ (Instr.vpack 1#5 2#5 2#3 3#2 0#3 false).fieldsOk = true := by decide +kernel

/-- Lane 0 of V1 a NaN; mask M1 has that lane alone. -/
def nanUnit : State := withUnit fun u => { u with v := u.v.set 1 0x7FC00000#2048, m := u.m.set 1 1#64 }

theorem witness_VectorReductionResults :
    (∀ k < 64, (mReg (landDue nanUnit).unit 1#3).getLsbD k = false ∨ (num32 (lane (vReg (landDue nanUnit).unit 1#5) k)).isNan = true)
    ∧ ¬(∀ k < 64, (mReg (landDue nanUnit).unit 0#3).getLsbD k = false ∨ (num32 (lane (vReg (landDue nanUnit).unit 1#5) k)).isNan = true) := by
  decide +kernel

/-- Feeders bound to Q5 and Q6, which lie in bank 0, of format 1 and with a slot filled where t is 1. -/
def arrayUnit (t : W16) : State := withUnit fun u =>
  let feed := fun (q : BitVec 6) => { Feeder.unbound with src := some (.ring q), fmt := 1#64 }
  let u := withRing 5#6 ⟨0x0000007F00000000#64, 1#64, 0#16, t, t, 0#1024, 0#1024, 0#1024⟩ u
  let u := withRing 6#6 ⟨0x0000007F00001000#64, 1#64, 0#16, t, t, 0#1024, 0#1024, 0#1024⟩ u
  { u with pad := { u.pad with banks := 1#16, fmt := u.pad.fmt.set 0 1#64 }, mx := { u.mx with west := feed 5#6, north := feed 6#6 } }

theorem witness_MatrixPushInjectsSlice :
    ¬((landDue plainUnit).unit.mx.west.src ≠ none)
    ∧ (landDue (arrayUnit 1#16)).unit.mx.west.src ≠ none ∧ (landDue (arrayUnit 1#16)).unit.mx.north.src ≠ none
    ∧ pairOk (landDue (arrayUnit 1#16)).unit.mx.cfg (fmtOf (landDue (arrayUnit 1#16)).unit.mx.west.fmt)
      (fmtOf (landDue (arrayUnit 1#16)).unit.mx.north.fmt) = true
    ∧ feederReady (landDue (arrayUnit 1#16)).unit (landDue (arrayUnit 1#16)).unit.mx.west = true
    ∧ feederReady (landDue (arrayUnit 1#16)).unit (landDue (arrayUnit 1#16)).unit.mx.north = true
    ∧ feederReady (landDue (arrayUnit 0#16)).unit (landDue (arrayUnit 0#16)).unit.mx.west = false
    ∧ (landDue (arrayUnit 0#16)).unit.deferred = [] := by decide +kernel

/-- FW bound to a mesh ring with one slice received. -/
def meshUnit : State := { arrayUnit 1#16 with unit :=
  let u := (arrayUnit 1#16).unit
  { u with mx := { u.mx with west := { u.mx.west with src := some (.mesh 0x70#64), landing := [5#1024] } } } }

theorem witness_MatrixElements :
    feederRing (landDue (arrayUnit 1#16)).unit.mx.west = some 5 ∧ feederRing (landDue (arrayUnit 1#16)).unit.mx.north = some 6
    ∧ (ringAt (landDue (arrayUnit 1#16)).unit.pad 5#6).isSome = true ∧ (ringAt (landDue (arrayUnit 1#16)).unit.pad 6#6).isSome = true
    ∧ (landDue (arrayUnit 1#16)).unit.mx.west.pos + 0 < 32
    ∧ 0 < min (beatDepth (fmtOf (landDue (arrayUnit 1#16)).unit.mx.west.fmt)) (beatDepth (fmtOf (landDue (arrayUnit 1#16)).unit.mx.north.fmt))
    ∧ feederReady (landDue meshUnit).unit (landDue meshUnit).unit.mx.west = true
    ∧ feederReady (landDue meshUnit).unit (landDue meshUnit).unit.mx.north = true
    ∧ pairOk (landDue meshUnit).unit.mx.cfg (fmtOf (landDue meshUnit).unit.mx.west.fmt) (fmtOf (landDue meshUnit).unit.mx.north.fmt) = true
    ∧ (landDue meshUnit).unit.mx.west.landing = 5#1024 :: [] ∧ (landDue meshUnit).unit.mx.west.pos + 0 < beatDepth 1 := by decide +kernel

/-- One slice of one element a lane, about to meet row 1 and column 0; fmt, integer mode and the end of a group as given. -/
def peUnit (fmt : W64) (integer : Bool) (rows : W64) (groupN : Nat) : State := withUnit fun u =>
  { u with mx := { u.mx with slices := [
    ⟨0, false, 1, ⟨integer, 0#2, 0#2, rows, 1#64⟩, fmt, fmt, [[0#16], [2#16]], [[3#16]], ⟨0#1024, 0#512⟩, ⟨0#1024, 0#512⟩, groupN⟩] } }

theorem witness_MatrixElement :
    guardOn 0#4 (landDue (peUnit 10#64 true 2#64 8)).unit = true
    ∧ ((landDue (peUnit 10#64 true 2#64 8)).unit.mx.slices.map fun x => (x.age, x.west.map (·.length), x.north.map (·.length), x.groupN))
      = [(0, [1, 1], [1], 8)]
    ∧ 0 + 1 = 1 + 0 ∧ (2#64).getLsbD 1 = true ∧ (0#64).getLsbD 1 = false ∧ (1#64).getLsbD 0 = true
    ∧ fmtAsym (fmtOf 1#64) = false ∧ fmtAsym (fmtOf 10#64) = true := by decide +kernel

/-- G8 to G10: a legal configuration and its masks; G12 an illegal one. -/
def configUnit : State := withUnit (withG [(8, 0x25#64), (9, 5#64), (10, 6#64), (12, 2#64)])

theorem witness_MatrixRowActions :
    guardOn 0#4 (landDue configUnit).unit = true ∧ (landDue configUnit).unit.mx.slices = [] ∧ 8#6 ≠ 0#6
    ∧ (gReg (landDue configUnit).unit 8#6).toNat < 64 ∧ (gReg (landDue configUnit).unit 8#6).getLsbD 1 = false
    ∧ (gReg (landDue configUnit).unit 8#6).toNat / 4 % 4 ≠ 3 ∧ (gReg (landDue configUnit).unit 8#6).toNat / 16 % 4 ≠ 3
    ∧ (gReg (landDue configUnit).unit 12#6).getLsbD 1 ≠ false := by decide +kernel

/-- G8: Q7 of core 0 as a far ring; G10, G11: a handle through Q7; Q7 as the rings of arrayUnit, both feeders unbound. -/
def feedUnit : State := withUnit fun u =>
  let u := withRing 7#6 ⟨0x0000007F00002000#64, 1#64, 0#16, 0#16, 0#16, 0#1024, 0#1024, 0#1024⟩ u
  withG [(8, 0x70#64), (9, 0x400#64), (10, 0x100070003#64)] { u with pad := { u.pad with banks := 1#16, fmt := u.pad.fmt.set 0 1#64 } }

theorem witness_FeederBindings :
    feedFormat (landDue feedUnit).unit.pad 7#6 = some 1#64 ∧ boundRing (landDue feedUnit).unit (feederOf (landDue feedUnit).unit true) ≠ some 7
    ∧ feedFormat (landDue feedUnit).unit.pad 5#6 = none
    ∧ (gReg (landDue feedUnit).unit 8#6).toNat < 2 ^ 20 ∧ (gReg (landDue feedUnit).unit 8#6).toNat / 2 ^ 10 % 4 = 0
    ∧ inGang (landDue feedUnit).unit ((gReg (landDue feedUnit).unit 8#6).setWidth 4 : BitVec 4).toNat = true
    ∧ meshTaken (landDue feedUnit).unit false (gReg (landDue feedUnit).unit 8#6) = false
    ∧ meshTaken (landDue (arrayUnit 0#16)).unit false 0x60#64 = true ∧ padOf (landDue feedUnit) 0 = some feedUnit.unit.pad ∧ ((gReg (landDue feedUnit).unit 8#6 >>> 4).setWidth 6 : BitVec 6) = 7#6
    ∧ ¬((gReg (landDue feedUnit).unit 9#6).toNat / 2 ^ 10 % 4 = 0)
    ∧ (10#6).toNat % 2 = 0 ∧ (gReg (landDue feedUnit).unit 10#6).toNat / 2 ^ 22 % 2 ^ 10 = 0
    ∧ (gReg (landDue feedUnit).unit 10#6).toNat / 2 ^ 32 ≠ 0 ∧ ((gReg (landDue feedUnit).unit 10#6 >>> 16).setWidth 6 : BitVec 6) = 7#6
    ∧ ¬((gReg (landDue feedUnit).unit 8#6).toNat / 2 ^ 32 ≠ 0) := by decide +kernel

/-- Bank 0 of format f. -/
def scaleUnit (f a : W64) : State := withUnit fun u => withG [(5, a)] { u with pad := { u.pad with banks := 1#16, fmt := u.pad.fmt.set 0 f } }

theorem witness_ScaleLatchWrites :
    (addrOf (landDue (scaleUnit 10#64 0x1FF00#64)).unit 5#6 none).toNat < 0x200000
    ∧ fmtAsym (fmtOf (bankFmt (landDue (scaleUnit 10#64 0x1FF00#64)).unit.pad 0x1FF00)) = true
    ∧ bytesTrap (landDue (scaleUnit 10#64 0x1FF00#64)).unit.pad.banks 0x1FF00#64 256 = none
    ∧ fmtAsym (fmtOf (bankFmt (landDue (scaleUnit 3#64 0x1FFC0#64)).unit.pad 0x1FFC0)) = false
    ∧ bytesTrap (landDue (scaleUnit 3#64 0x1FFC0#64)).unit.pad.banks 0x1FFC0#64 64 = none
    ∧ bytesTrap (landDue (scaleUnit 3#64 0x1FFC0#64)).unit.pad.banks 0x20000#64 64 = some 0x17
    ∧ bytesTrap (landDue (scaleUnit 10#64 0x1FF40#64)).unit.pad.banks 0x1FF40#64 256 ≠ none := by decide +kernel

/-! ### Witnesses: engine commands and rings -/

/-- Bank 0 of one-byte elements; G5 a near range at 0, G6 a far range at 0x100 (of core 1 for G10), G7 a handle with its second
word in G8, G9 a control word of one row of 4 elements; a second core, which slot 0 reaches; the pool has n entries drawn. -/
def copyUnit (n : Nat) (paired : Bool) : State :=
  { withUnit fun u => withG [(5, 0#64), (6, 0x100#64), (7, 3#64), (8, 3#64), (9, 3#64), (10, 0x200100#64), (11, 0x10003#64), (12, 0x1000000000003#64)] { u with
      nt := n, pad := { u.pad with banks := 1#16, fmt := u.pad.fmt.set 0 9#64 }
      launch := { UnitLaunch.none with nr := 1, nc := 2, units := 2#32, paired := paired, slots := [(0, [0xA00#16]), (1, [0#16, 4#16])] } }
    with peers := [(1, { Pad.empty with banks := 1#16, fmt := Pad.empty.fmt.set 0 9#64 })] }

theorem witness_CopyCommandsEnter :
    guardOn 0#4 (landDue (copyUnit 0 false)).unit = true ∧ canEnqueue (landDue (copyUnit 0 false)).unit 0 = true
    ∧ g2lCauses (landDue (copyUnit 0 false)).unit 0#64 3#64 3#64 3#64 = []
    ∧ l2gCauses (landDue (copyUnit 0 false)).unit 0#64 3#64 3#64 = [] ∧ (landDue (copyUnit 0 false)).unit.launch.paired = false
    ∧ l2gCauses (landDue (copyUnit 0 true)).unit 0#64 3#64 3#64 = [] ∧ (landDue (copyUnit 0 true)).unit.launch.paired = true
    ∧ l2lCauses (landDue (copyUnit 0 false)).unit 0#64 0x100#64 3#64 = []
    ∧ clCauses (landDue (copyUnit 0 false)) 0#64 0x200100#64 3#64 = []
    ∧ peCauses (landDue (copyUnit 0 false)).unit 0#64 3#64 3#64 = [] := by decide +kernel

theorem witness_CopyCommandsTrapOrWait :
    g2lCauses (landDue (copyUnit 0 false)).unit 0#64 3#64 0x10003#64 3#64 = [0x23]
    ∧ l2gCauses (landDue (copyUnit 0 false)).unit 0#64 0x10003#64 3#64 = [0x23]
    ∧ l2lCauses (landDue (copyUnit 0 false)).unit 0#64 0#64 3#64 = [0x23] ∧ peCauses (landDue (copyUnit 0 true)).unit 0#64 3#64 3#64 = [0x31]
    ∧ clCauses (landDue (copyUnit 0 false)) 0#64 0x100#64 3#64 = [0x29]
    ∧ canEnqueue (landDue (copyUnit 4096 false)).unit 0 = false
    ∧ g2lCauses (landDue (copyUnit 4096 false)).unit 0#64 3#64 3#64 3#64 = [] ∧ l2gCauses (landDue (copyUnit 4096 false)).unit 0#64 3#64 3#64 = []
    ∧ l2lCauses (landDue (copyUnit 4096 false)).unit 0#64 0x100#64 3#64 = []
    ∧ clCauses (landDue (copyUnit 4096 false)) 0#64 0x200100#64 3#64 = []
    ∧ peCauses (landDue (copyUnit 4096 false)).unit 0#64 3#64 3#64 = [] := by decide +kernel

theorem witness_RouteCommandsEnter :
    guardOn 0#4 (landDue (copyUnit 0 false)).unit = true ∧ canEnqueue (landDue (copyUnit 0 false)).unit 4 = true
    ∧ fld 0#64 47 17 = 0 ∧ fld 0#64 38 2 = 0 ∧ fld 0#64 21 11 = 0 ∧ (0#64).toNat % 2 ^ 21 % 32 = 0 ∧ fld 0x100#64 42 22 = 0
    ∧ fld 0x100#64 38 2 = 0 ∧ fld 0x100#64 34 2 = 0 ∧ fld 0x100#64 21 11 = 0 ∧ (0x100#64).toNat % 2 ^ 21 % 32 = 0
    ∧ padOk (landDue (copyUnit 0 false)).unit.pad.banks 0 (1 * (32 * (0 + 1))) = true
    ∧ padOk (landDue (copyUnit 0 false)).unit.pad.banks 0x100 (32 * 1) = true
    ∧ fld 0#64 16 48 = 0 ∧ fld 0#64 28 36 = 0 ∧ fld 0#64 2 14 = 0 ∧ ¬(fld 0x1000000000003#64 16 48 = 0)
    ∧ fld 0#64 49 15 = 0 ∧ fld 0#64 42 6 = 0 ∧ fld 0#64 54 10 = 0
    ∧ padOk (landDue (copyUnit 0 false)).unit.pad.banks 0 (4 * (0 + 1) * (4 * (0 + 1))) = true
    ∧ (0#64).toNat % 4 = 0 ∧ (0x100#64).toNat % 32 = 0 ∧ padOk (landDue (copyUnit 0 false)).unit.pad.banks 0x100 32 = true
    ∧ 5#6 ≠ 0#6 ∧ canEnqueue (landDue (copyUnit 4096 false)).unit 4 = false := by decide +kernel

theorem witness_RouteCommandChecks :
    padOk (landDue (copyUnit 0 false)).unit.pad.banks 0x20000 32 = false ∧ ¬(fld 0x4000000000#64 38 2 = 0) ∧ ¬(fld 1#64 0 21 % 32 = 0)
    ∧ padOk (landDue (copyUnit 0 false)).unit.pad.banks 1 (32 * 1) = true ∧ 5#6 ≠ 0#6
    ∧ canEnqueue (landDue (copyUnit 4096 false)).unit 4 = false ∧ (landDue (copyUnit 4096 false)).unit.launch.paired = false
    ∧ clCauses (landDue (copyUnit 0 false)) 0#64 0x100#64 3#64 = 0x29 :: [] := by decide +kernel

/-- Bank 0; Q5 a ring of four slots of 24,576 bytes that an engine consumes; G5 a page, G6 its second word. -/
def kvUnit : State := withUnit fun u =>
  let u := withRing 5#6 ⟨0x010002FF00600000#64, 1#64, 0#16, 0#16, 0#16, 0#1024, 0#1024, 0#1024⟩ u
  withG [(5, 0x10000#64), (6, 1#64), (7, 5#64), (8, 0x100000000#64), (9, 0x20000#64)] { u with pad := { u.pad with banks := 1#16 } }

theorem witness_KvAndMediaCommandsEnter :
    guardOn 0#4 (landDue kvUnit).unit = true ∧ (landDue kvUnit).unit.launch.paired = false ∧ canEnqueue (landDue kvUnit).unit 5 = true
    ∧ fld 1#64 32 32 = 0 ∧ fld 1#64 1 15 = 0 ∧ (0x10000#64).toNat % 65536 = 0 ∧ fld 1#64 1 63 = 0 ∧ (0x10000#64).toNat % 64 = 0
    ∧ (0#64).toNat % 32 = 0 ∧ (0#64).toNat < 16 ∧ padOk (landDue kvUnit).unit.pad.banks 0 320 = true ∧ 0x10000#64 ≠ 0#64
    ∧ fld 0#64 32 32 = 0 ∧ fld 0#64 4 12 = 0
    ∧ fld 5#64 6 58 = 0 ∧ fld 0#64 30 2 = 0 ∧ fld 0#64 14 10 = 0 ∧ fld 0#64 6 2 = 0 ∧ fld 0#64 1 31 = 0
    ∧ (∃ r, ringAt (landDue kvUnit).unit.pad 5#6 = some r ∧ r.cons = 1 ∧ r.thr = 1 + fld 0#64 0 1 ∧ 24576 ≤ r.size)
    ∧ fld 0#64 2 22 = 0 ∧ fld 0#64 0 2 ≠ 3
    ∧ ¬(fld 0x100000000#64 32 32 = 0) ∧ padOk (landDue kvUnit).unit.pad.banks 0x20000 320 = false ∧ ¬((5#64).toNat % 64 = 0)
    ∧ ¬(fld 0x10000#64 6 58 = 0) := by
  refine ⟨by decide +kernel, by decide +kernel, by decide +kernel, by decide, by decide, by decide, by decide, by decide, by decide, by decide,
    by decide +kernel, by decide, by decide, by decide, by decide, by decide, by decide, by decide, by decide,
    ⟨⟨0x010002FF00600000#64, 1#64, 0#16, 0#16, 0#16, 0#1024, 0#1024, 0#1024⟩, by decide +kernel⟩, by decide +kernel⟩

theorem witness_PantryCommandTraps :
    padOk (landDue kvUnit).unit.pad.banks (1#64 : W64).toNat 320 = true ∧ ¬((1#64 : W64).toNat % 32 = 0)
    ∧ padOk (landDue kvUnit).unit.pad.banks (0#64 : W64).toNat 320 = true := by decide +kernel

theorem witness_RingConfigurationAndTests :
    guardOn 0#4 (landDue (ringUnit 0#16 0#16 0#16)).unit = true ∧ hiddenRing (landDue (ringUnit 0#16 0#16 0#16)).unit 5#6 = false
    ∧ ringBusy (landDue (ringUnit 0#16 0#16 0#16)).unit 5#6 = false
    ∧ ringValid 0x0010000000600000#64 1#64 (landDue (ringUnit 0#16 0#16 0#16)).unit.pad.banks (gangMask (landDue (ringUnit 0#16 0#16 0#16)).unit) = true
    ∧ ringValid 0#64 0#64 1#16 1 = false ∧ ringBusy (landDue (arrayUnit 0#16)).unit 5#6 = true ∧ hiddenRing (landDue (arrayUnit 0#16)).unit 5#6 = false
    ∧ ringAt (landDue (ringUnit 0#16 0#16 0#16)).unit.pad 5#6 = some (ringOf 0x0010000000600000#64 0#16 0#16 0#16)
    ∧ ringAt (landDue (ringUnit 0#16 0#16 0#16)).unit.pad 6#6 = none ∧ (3#6).toNat < 4 ∧ 8 ≤ (13#6).toNat ∧ (13#6).toNat < 14
    ∧ 16 ≤ (21#6).toNat ∧ (21#6).toNat < 22 ∧ (landDue (ringUnit 0#16 0#16 0#16)).unit.fences = [] := by decide +kernel

/-- FW bound to a handle through Q7, whose descriptor it hides. -/
def hiddenUnit : State := withUnit fun u => { u with mx := { u.mx with west := { Feeder.unbound with src := some (.handle 0x70000#64 0#64) } } }

theorem witness_HiddenRing : hiddenRing (landDue hiddenUnit).unit 7#6 = true := by decide +kernel

/-- Q5 as in ringUnit, with w0 as given; G6 the ticket in slot 0. -/
def ringWith (w0 : W64) (h t r : W16) : State := withUnit fun u =>
  let u := withRing 5#6 (ringOf w0 h t r) u
  withG [(7, 0x300000000#64)] { u with pad := { u.pad with banks := 1#16 } }

/-- Plain and reorder rings, each with one slot filled and one reserved, full ones and one that this unit may not produce into. -/
theorem witness_RingAcquiresAndReleases :
    let s := ringWith 0x600000#64 0#16 1#16 2#16
    guardOn 0#4 (landDue s).unit = true ∧ hiddenRing (landDue s).unit 5#6 = false
    ∧ ringAt (landDue s).unit.pad 5#6 = some (ringOf 0x600000#64 0#16 1#16 2#16)
    ∧ (ringOf 0x600000#64 0#16 1#16 2#16).reorder = false ∧ (2#6).toNat ≤ (ringOf 0x600000#64 0#16 1#16 2#16).n
    ∧ mayProduce (landDue s).unit (ringOf 0x600000#64 0#16 1#16 2#16) = true ∧ (2#6).toNat ≤ (ringOf 0x600000#64 0#16 1#16 2#16).room
    ∧ (ringOf 0x600000#64 0#16 1#16 2#16).room < (3#6).toNat ∧ (ringOf 0x600000#64 0#16 1#16 2#16).n < (5#6).toNat
    ∧ mayProduce (landDue s).unit ⟨0x600000#64, 2#64, 0#16, 0#16, 0#16, 0#1024, 0#1024, 0#1024⟩ = false
    ∧ (ringOf 0x80600000#64 0#16 1#16 2#16).reorder = true ∧ 0 < (ringOf 0x80600000#64 0#16 1#16 2#16).room
    ∧ (ringOf 0x80600000#64 0#16 1#16 4#16).room = 0
    ∧ (ringOf 0x600000#64 0#16 1#16 2#16).cons = 0 ∧ feederBound (landDue s).unit 5#6 = false
    ∧ (1#6).toNat ≤ (ringOf 0x600000#64 0#16 1#16 2#16).filled ∧ (ringOf 0x600000#64 0#16 1#16 2#16).filled < (2#6).toNat
    ∧ (landDue s).unit.deferred = [] ∧ (ringOf 0x100000000600000#64 0#16 1#16 2#16).cons ≠ 0
    ∧ feederBound (landDue (arrayUnit 0#16)).unit 5#6 = true ∧ (ringOf 0x600000#64 0#16 1#16 2#16).dist 1#16 2#16 < (2#6).toNat
    ∧ (1#6).toNat ≤ (ringOf 0x600000#64 0#16 1#16 2#16).dist 1#16 2#16 ∧ (gReg (landDue s).unit 7#6).toNat / 2 ^ 32 % 2 ^ 16 = 3
    ∧ (ringOf 0x80600000#64 0#16 1#16 4#16).canFill 3 = true ∧ (ringOf 0x80600000#64 0#16 1#16 2#16).canFill 3 = false := by decide +kernel

theorem witness_RingTraps :
    (⟨0x80600000#64, 2#64, 0#16, 0#16, 0#16, 0#1024, 0#1024, 0#1024⟩ : Ring).reorder = true
    ∧ mayProduce (landDue plainUnit).unit ⟨0x80600000#64, 2#64, 0#16, 0#16, 0#16, 0#1024, 0#1024, 0#1024⟩ = false
    ∧ (ringOf 0x600000#64 0#16 1#16 2#16).cons = 0 ∧ feederBound (landDue plainUnit).unit 5#6 = false
    ∧ (ringOf 0x600000#64 0#16 1#16 2#16).n < (5#6).toNat ∧ (ringOf 0x100000000600000#64 0#16 1#16 2#16).cons ≠ 0
    ∧ hiddenRing (landDue plainUnit).unit 5#6 = false ∧ ringAt (landDue plainUnit).unit.pad 5#6 = none := by decide +kernel

theorem witness_RingOperationsKeepIndices :
    let r := ringOf 0x80600000#64 0#16 1#16 2#16
    r.head.toNat < r.wrap ∧ r.tail.toNat < r.wrap ∧ r.rsv.toNat < r.wrap ∧ r.dist r.head r.tail ≤ r.dist r.head r.rsv
    ∧ r.dist r.head r.rsv ≤ r.n ∧ 2 ≤ r.room ∧ 1 ≤ r.dist r.tail r.rsv ∧ 1 ≤ r.filled ∧ r.canFill 1 = true
    ∧ r.gone = 0#1024 ∧ r.head ≠ r.tail ∧ r.tail ≠ r.rsv ∧ r.hasBit r.held r.tail = false
    ∧ ({ r with held := 2#1024 } : Ring).hasBit 2#1024 r.tail = true := by decide +kernel

/-! ### Witnesses: accesses, slices and translation -/

/-- The place that a translation answers. -/
def placeOf (r : State × Except XStop Place) : Option Place :=
  match r.2 with
  | .ok p => some p
  | .error _ => none

/-- Whether a transfer has succeeded and its state and value meet p. -/
def okWith {α : Type} (r : State × Xfer α) (p : State → α → Bool) : Bool :=
  match r.2 with
  | .ok x => p r.1 x
  | .stop _ _ => false

/-- Identifier 0 live, its tables at 0x1000: the entry for 0x200000 is a leaf of 2 MiB onto the same addresses, that for 0x400000 leads
to the host, that for 0x600000 onto 0x600000; every other address under them is not mapped. Partition 0 owns the identifier. -/
def mapped (f : Machine.Unit → Machine.Unit) : State :=
  { withUnit f with
    asids := [(0, ⟨true, 0#4, 0#4, 1#40⟩)]
    dram := [(0x1000, 0x01#8), (0x1001, 0x10#8), (0x1008, 0xCF#8), (0x100A, 0x20#8), (0x1010, 0xCF#8), (0x1011, 0x02#8), (0x1018, 0xCF#8), (0x101A, 0x60#8)] }

/-- One access of the unit, numbered 3, its one part in the stage. -/
def oneAccess (k : AccKind) (va : W64) (bytes : List (Nat × Byte)) (st : PartStage) : Access := ⟨3, 1#4, k, va, [⟨va, bytes, st⟩], 0#19⟩

def accessUnit (k : AccKind) (va : W64) (bytes : List (Nat × Byte)) (st : PartStage) : State :=
  mapped fun u => { u with nl := 1, ns := 1, nextAcc := 4, accs := [oneAccess k va bytes st] }

theorem witness_AccessAnswersReachUnit :
    (∀ st ∈ [PartStage.done, .aborted 3#4], ∀ k ∈ [AccKind.load 5#6 1, .store],
      accAt (accessUnit k 0x200000#64 [(0, 7#8)] st).unit 3 = some (oneAccess k 0x200000#64 [(0, 7#8)] st)
      ∧ (oneAccess k 0x200000#64 [(0, 7#8)] st).resolved = true)
    ∧ abortedCode (oneAccess (.load 5#6 1) 0x200000#64 [(0, 7#8)] .done) = none
    ∧ abortedCode (oneAccess .store 0x200000#64 [(0, 7#8)] (.aborted 3#4)) = some 3#4
    ∧ AccKind.counter (.load 5#6 1) = 0 ∧ AccKind.counter .store = 1
    ∧ (oneAccess (.red 1#2 1#12 0#12 5#64) 0x200000#64 [(0, 7#8)] .refused).resolved = true
    ∧ AccKind.counter (.red 1#2 1#12 0#12 5#64) = 1 := by decide +kernel

/-- An answered load for G5 beside a result of a later bundle for it in the same issue cycle. -/
def overtaken : State :=
  let s := accessUnit (.load 5#6 1) 0x200000#64 [(0, 7#8)] .done
  { s with unit := { s.unit with ctx := { s.unit.ctx with landed := [⟨0, 9, .g 5#6 8#64, 0#6⟩] } } }

theorem witness_AnswersInOrder :
    (∀ k ∈ [AccKind.load 5#6 1, .atom .add .i32 5#6 1#128 0#128, .vload 5#5 1#64 true],
      accAt (accessUnit k 0x200000#64 [(0, 7#8)] .done).unit 3 = some (oneAccess k 0x200000#64 [(0, 7#8)] .done)
      ∧ (oneAccess k 0x200000#64 [(0, 7#8)] .done).resolved = true ∧ abortedCode (oneAccess k 0x200000#64 [(0, 7#8)] .done) = none
      ∧ (oneAccess k 0x200000#64 [(0, 7#8)] .done).parts.any (fun p => p.stage == .refused) = false
      ∧ (accessUnit k 0x200000#64 [(0, 7#8)] .done).unit.ctx.landed = [])
    ∧ accAt overtaken.unit 3 = some (oneAccess (.load 5#6 1) 0x200000#64 [(0, 7#8)] .done)
    ∧ ⟨0, 9, .g 5#6 8#64, 0#6⟩ ∈ overtaken.unit.ctx.landed ∧ 3 < 9 := by decide +kernel

/-- The access is a read or a write of one byte at 0x200000, waiting; its line stands in the LLC. -/
def homeUnit (k : AccKind) : State :=
  { accessUnit k 0x200000#64 [(0, 7#8)] .waiting with llc := (upto 0x10000 4).map fun i => (i, ⟨8#6, 0xFFFFFFFF#32, 0#32, 9#256⟩) }

/-- A read at an address that no entry maps. -/
def lostUnit : State := accessUnit (.load 5#6 1) 0x800000#64 [(0, 7#8)] .waiting

theorem witness_AccessesPerformAtHome :
    (∀ k ∈ [AccKind.load 5#6 1, .store, .atom .add .i32 5#6 1#128 0#128, .red 1#2 1#12 0#12 5#64],
      (readyPart (homeUnit k) 3 0).isSome = true
      ∧ placeOf (locate (homeUnit k) (unitWho (homeUnit k).unit 1#4 0#2) 0x200000#64 k.right true) = some (.mem 0x200000 0 false)
      ∧ isPinned (locate (homeUnit k) (unitWho (homeUnit k).unit 1#4 0#2) 0x200000#64 k.right true).1 0x200000 = false)
    ∧ AccKind.right (.load 5#6 1) = 0 ∧ AccKind.right .store = 1 ∧ AccKind.right (.atom .add .i32 5#6 1#128 0#128) = 2
    ∧ missing (locate (homeUnit .store) (unitWho (homeUnit .store).unit 1#4 0#2) 0x200000#64 0 true).1 [0x200000] = 0#4
    ∧ (locate (homeUnit .store) (unitWho (homeUnit .store).unit 1#4 0#2) 0x200000#64 0 true).1.groups = []
    ∧ (locate (homeUnit .store) (unitWho (homeUnit .store).unit 1#4 0#2) 0x200000#64 2 true).1.reds = []
    ∧ redRoom (locate (homeUnit .store) (unitWho (homeUnit .store).unit 1#4 0#2) 0x200000#64 2 true).1 (homeSlice 0x200000) 1#12 = true
    ∧ isPinned { homeUnit .store with pinned := [(512, 0#4)] } 0x200000 = true
    ∧ partVa (oneAccess .store 0x200000#64 [(0, 7#8)] .waiting) ⟨0x200000#64, [(0, 7#8)], .waiting⟩ = 0x200000#64
    ∧ ((partPas ⟨0x200000#64, [(0, 7#8)], .waiting⟩ 0x200000).map (·.1)).Nodup
    ∧ (readyPart lostUnit 3 0).isSome = true
    ∧ (match locate lostUnit (unitWho lostUnit.unit 1#4 0#2) 0x800000#64 0 true with
      | (s', .error (.fault _ _ _)) => freePark s' (homeSlice 0x800000) == some 0 && (accAt s'.unit 3).isSome
          && (heldBeside s' (oneAccess (.load 5#6 1) 0x800000#64 [(0, 7#8)] .waiting) 0x800000#64).isNone
      | _ => false) = true := by decide +kernel

/-- That sector's bytes are bad, or another's. -/
theorem witness_BadSectors :
    badSector { homeUnit (.load 5#6 1) with bad := [0x10000] } 0x200000 1 = some 0x10000
    ∧ badSector { homeUnit (.load 5#6 1) with bad := [0x10001] } 0x200000 1 = none
    ∧ placeOf (locate { homeUnit (.load 5#6 1) with bad := [0x10000] } (unitWho (homeUnit (.load 5#6 1)).unit 1#4 0#2) 0x200000#64 0 true)
      = some (.mem 0x200000 0 false) := by decide +kernel

/-- A read merged in a group of slice 8 for line 0x4000, its packet sent, or the group still queued. -/
def groupOf (queued : Bool) : MergeGroup := ⟨8#6, 0x4000, 0, [], 0#4, [(3, 0)], [], true, queued⟩

def sliceUnit : State :=
  { homeUnit (.load 5#6 1) with
    groups := [groupOf true], packets := [(4, ⟨8#6, 0x4000, [7#8], [(3, 0)], []⟩)], redWait := [(8#6, .unit 3)] }

theorem witness_SliceEventsServe :
    sliceUnit.groups.find? (fun x => x.queued && x.slice == 8#6) = some (groupOf true) ∧ groupsAt sliceUnit 8#6 < Config.mergeGroups
    ∧ (∀ k < 128, (llcByte sliceUnit (128 * 0x4000 + k)).isSome = true)
    ∧ ([groupOf false].filter fun x => !x.queued && x.slice == 8#6 && x.line == 0x4000) = [groupOf false]
    ∧ mget sliceUnit.packets 4 = some ⟨8#6, 0x4000, [7#8], [(3, 0)], []⟩
    ∧ (accAt sliceUnit.unit 3).map (·.parts.length) = some 1
    ∧ sliceUnit.redWait.find? (fun x => x.1 == 8#6) = some (8#6, .unit 3) ∧ redRoom sliceUnit 8#6 1#12 = true
    ∧ placeOf (locate { sliceUnit with redWait := [] } (unitWho sliceUnit.unit 1#4 0#2) 0x200000#64 2 true) = some (.mem 0x200000 0 false)
    ∧ accAt (accessUnit .store 0x200000#64 [(0, 7#8)] (.atPin 0x200000)).unit 3 = some (oneAccess .store 0x200000#64 [(0, 7#8)] (.atPin 0x200000))
    ∧ ((partPas ⟨0x200000#64, [(0, 7#8)], .atPin 0x200000⟩ 0x200000).map (·.1)).Nodup
    ∧ (∀ e ∈ sliceUnit.packets, e.1 < 4 → e.2.slice ≠ 8#6) := by decide +kernel

/-- A fault record of partition 0 from slice 8. -/
def aRecord (unit : W32) : FaultRecord :=
  ⟨0x800000#64, 0#64, 0#12, 0#4, 1#4, 2, false, false, 0, 1#4, 8#6, 0#8, 0#5, 0#5, 0#4, 0#2, unit⟩

/-- Partition n with cluster n, the identifiers 16 n to 16 n + 15 and rings of one record. -/
def aPart (n : Nat) : PartDesc := ⟨BitVec.ofNat 4 n, BitVec.ofNat 24 (2 ^ n), 0x10000000, 1000, 0x100000, 16 * n, 16, Vector.replicate 4 1,
  Vector.replicate 4 1, 0x200000#64, 64, 0x200000#64, 1, 0x200000#64, 64⟩

def partState (s : State) : State := { s with pkg := { s.pkg with boot := .running, parts := [(0, aPart 0)], keys := [(0, 1)], nextKey := 2 } }

/-- A posted write before a FENCE; a write to the host; a full fault ring and a record held for it. -/
def flushUnit : State := withUnit fun u => { u with fences := [⟨0xFFFF#16, 3#3, 2⟩], posted := [⟨1, 1#4, 1, 0#64⟩], nextAcc := 2 }

def faultState : State := { partState plainUnit with faults := [(0#4, aRecord 0#32)], heldFlt := [(0#4, aRecord 1#32)] }

/-- The release of Q5 waits for the posted write of access 1. -/
def releaseUnit : State := withUnit fun u => { u with rels := [⟨5#6, true, 0#16, [1], 4⟩], posted := [⟨1, 1#4, 1, 0#64⟩], nextAcc := 2 }

/-- Partition 0, with 100 MiB of the LLC, has the lines of frame 512; one byte of a sector there is dirty. -/
def ownedLines : State :=
  let s := partState sliceUnit
  { s with
    owners := [(512, 0#4)], llc := [(0x10000, ⟨8#6, 0xFFFFFFFF#32, 1#32, 9#256⟩)]
    pkg := { s.pkg with parts := [(0, { aPart 0 with llcQ := 100 })] } }

theorem witness_RoomAndReleases :
    mget ownedLines.owners 512 = some 0#4 ∧ mget ownedLines.pkg.parts (0#4).toNat = some { aPart 0 with llcQ := 100 }
    ∧ (llcLines ownedLines fun i _ => mget ownedLines.owners (i / 128) == some 0#4 && !isPinned ownedLines (32 * i)).length
      + (pinnedBytes ownedLines 0#4 + 127) / 128 ≤ 100 * Config.linesPerMiB
    ∧ (llcLines ownedLines fun i c => c.home == 8#6 && !isPinned ownedLines (32 * i)).length + 32 * pinnedAtSlice ownedLines 8#6
      ≤ Config.sliceLines
    ∧ mget ownedLines.llc 0x10000 = some ⟨8#6, 0xFFFFFFFF#32, 1#32, 9#256⟩ ∧ (1#32).getLsbD 0 = true ∧ 32 * 0x10000 + 32 ≤ Config.mainBytes
    ∧ isPinned ownedLines (32 * 0x10000) = false
    ∧ 0#4 = plainUnit.unit.cr.lcore ∧ inGang plainUnit.unit (0#4).toNat = true ∧ plainUnit.unit.run = .running
    ∧ flushFence releaseUnit.unit (1#6).toNat = none ∧ flushRelease releaseUnit.unit (1#6).toNat = some ⟨5#6, true, 0#16, [1], 4⟩ := by
  decide +kernel

/-- A leaf of frame 0x10000 at 0x10000000 in its own frame, with its Z bit. -/
def zeroLeaf : State := { plainUnit with dram := [(0x10000000, 0x03#8), (0x10000001, 0x01#8)] }

theorem witness_FlushHostErrorAndZeroFill :
    (flushFence flushUnit.unit 1).isSome = true
    ∧ (readyPart (accessUnit .store 0x400000#64 [(0, 7#8)] .waiting) 3 0).isSome = true
    ∧ placeOf (locate (accessUnit .store 0x400000#64 [(0, 7#8)] .waiting) (unitWho plainUnit.unit 1#4 0#2) 0x400000#64 1 true) = some (.host 0)
    ∧ accAt (locate (accessUnit .store 0x400000#64 [(0, 7#8)] .waiting) (unitWho plainUnit.unit 1#4 0#2) 0x400000#64 1 true).1.unit 3
      = accAt (accessUnit .store 0x400000#64 [(0, 7#8)] .waiting).unit 3
    ∧ faultState.heldFlt.find? (fun x => x.2.slice == 8#6) = some (0#4, aRecord 1#32)
    ∧ (faultState.faults.filter fun x => x.1 == 0#4).head? = some (0#4, aRecord 0#32)
    ∧ faultCap faultState 0#4 ≤ (faultState.faults.filter fun x => x.1 == 0#4).length
    ∧ Config.mainBytes < Config.mainBytes - 7 + 8 ∧ 0x10000000 + 8 ≤ Config.mainBytes ∧ 0x10000000 % 8 = 0
    ∧ (dramRead8 zeroLeaf 0 0x10000000).getLsbD 0 = true ∧ (dramRead8 zeroLeaf 0 0x10000000).getLsbD 1 = true
    ∧ (dramRead8 zeroLeaf 0 0x10000000).getLsbD 8 = true ∧ (dramRead8 zeroLeaf 0 0x10000000).getLsbD 9 = false
    ∧ fld (dramRead8 zeroLeaf 0 0x10000000) 12 40 ≠ 0x10000000 / 4096 := by decide +kernel

/-- Partitions 0 and 1; the unit under identifier 16; identifier 0 dead, and 1 live with one translation and a parked access. -/
def aPark : ParkEntry := ⟨8#6, 0#6, .access 3 0, 0x200000#64, 0#4, 1#4, 0#12, 0#4, 0⟩

def transState : State :=
  let s := accessUnit (.load 5#6 1) 0x200000#64 [(0, 7#8)] (.parked 8#6 0#6)
  { s with
    unit := { s.unit with cr := { s.unit.cr with asidSlot := 16#12 } }
    pkg := { s.pkg with parts := [(0, aPart 0), (1, aPart 1)] }, parks := [aPark], tpend := [⟨0#4, [], [], []⟩]
    asids := [(0, ⟨true, 0#4, 0#4, 1#40⟩), (1, ⟨false, 3#4, 0#4, 0#40⟩)] }

theorem witness_TranslationCommands :
    slotInPart transState 0#4 1#12 = true ∧ ((asidOf transState 1#12).getD ⟨false, 0#4, 0#4, 0#40⟩).v = false
    ∧ ((asidOf transState 1#12).getD ⟨false, 0#4, 0#4, 0#40⟩).gen ≠ 15#4 ∧ slotInPart transState 0#4 16#12 = false
    ∧ ((asidOf transState 0#12).getD ⟨false, 0#4, 0#4, 0#40⟩).v = true ∧ transState.unit.cr.asidSlot ≠ 0#12
    ∧ slotInPart transState 0#4 transState.unit.cr.asidSlot = false ∧ 0x1000 + 8 ≤ Config.mainBytes
    ∧ Config.mainBytes < Config.mainBytes - 7 + 8 ∧ parkAt transState 0#4 8#6 1#6 = none ∧ parkAt transState 0#4 8#6 0#6 = some aPark
    ∧ aPark.who = .access 3 0 ∧ recordHeld transState aPark = false
    ∧ placeOf (locate { transState with parks := transState.parks.erase aPark } (parkWho { transState with parks := transState.parks.erase aPark } aPark)
      aPark.va aPark.kind false) = some (.mem 0x200000 0 false)
    ∧ transState.tpend.find? (fun t => t.part == 0#4 && tcmdReady transState t) = some ⟨0#4, [], [], []⟩ := by decide +kernel

/-- The record of that access waits for room in the fault ring, and an ABORT of it waits; or its record has gone out. -/
def waitingAbort : State := { transState with heldFlt := [(0#4, { aRecord 0#32 with park := 0#8 })], twait := [(0#4, 8#6, 0#6, true)] }

theorem witness_WaitingCommands :
    parkAt waitingAbort 0#4 8#6 0#6 = some aPark ∧ recordHeld waitingAbort aPark = true ∧ waitingEnd waitingAbort 0#4 = none
    ∧ waitingEnd { waitingAbort with heldFlt := [] } 0#4 = some (0#4, 8#6, 0#6, true) ∧ waitingEnd transState 0#4 = none
    ∧ 0x2000 / 32 < 0x2040 / 32 ∧ (∀ x, mget transState.dramKey (0x2008 / 32) = some x → x = keyOf transState 0#4) := by
  refine ⟨by decide +kernel, by decide +kernel, by decide +kernel, by decide +kernel, by decide +kernel, by decide, ?_⟩
  intro x h; simp [transState, accessUnit, mapped, withUnit, State.reset, mget] at h

/-! ### Witnesses: the sequencer's events, copies, feeders and chunks -/

/-- A bundle of two words at the program counter; banks 0 and 1, a full plain ring Q58 that the unit may produce into, and Q15. -/
def bundleUnit (x y : W32) : State := withUnit fun u =>
  let u := withRing 58#6 (ringOf 0x600000#64 0#16 0#16 4#16) (withRing 15#6 (ringOf 0x600000#64 0#16 1#16 2#16) u)
  { u with istore := [(0, x), (1, y)], pad := { u.pad with banks := 0xFFFF#16 } }

/-- The two instructions of a bundle of two words. -/
def pairAt (s : State) : Option (Instr × Instr) :=
  match framed s.unit with
  | .ok ([x, y], 2) => some (x.instr, y.instr)
  | _ => none

theorem witness_TwoSlotBundles :
    mayIssue (bundleUnit 0x00153D00#32 0x9C942F00#32) = true
    ∧ pairAt (bundleUnit 0x00153D00#32 0x9C942F00#32) = some (.add 21#6 15#6 16#6 0#4, .vmovg 10#5 2#5 30#5)
    ∧ pairAt (bundleUnit 0x0D3597F0#32 0x9B28BE68#32) = some (.stl 53#6 37#6 15#4 3#2 0#4 none, .vldl 20#5 11#4 28#5 6#3 true none)
    ∧ pairAt (bundleUnit 0x30AD81B0#32 0xB0AD8E20#32) = some (.cpyL2l 45#6 32#6 27#6 0#4, .cpyL2l 45#6 35#6 34#6 0#4)
    ∧ pairAt (bundleUnit 0x00153D00#32 0xB28F00A0#32) = some (.add 21#6 15#6 16#6 0#4, .qcommit 15#6 10#6 0#4)
    ∧ pairAt (bundleUnit 0x00153D00#32 0xB27A2020#32) = some (.add 21#6 15#6 16#6 0#4, .qresv 58#6 8#6 2#6 0#4)
    ∧ (∀ k < 64, (mReg (landDue (bundleUnit 0#32 0#32)).unit 6#3).getLsbD k = true →
      (addrOf (landDue (bundleUnit 0#32 0#32)).unit 28#6 none + BitVec.ofNat 64 (4 * k)).toNat < 0x200000)
    ∧ canEnqueue (landDue (bundleUnit 0#32 0#32)).unit 0 = true
    ∧ (ringOf 0x600000#64 0#16 1#16 2#16).dist 1#16 2#16 < (10#6).toNat ∧ (2#6).toNat ≤ (ringOf 0x600000#64 0#16 0#16 4#16).n
    ∧ mayProduce (landDue (bundleUnit 0#32 0#32)).unit (ringOf 0x600000#64 0#16 0#16 4#16) = true
    ∧ (ringOf 0x600000#64 0#16 0#16 4#16).room < (2#6).toNat := by decide +kernel

/-- A WAIT for loads at word 0 that is blocked since time 0, under a limit of 5. -/
def stalledUnit (time : Nat) : State :=
  { withUnit fun u => { u with
      istore := [(0, 0x8C03FFC0#32)], nl := 2, cr := { u.cr with blocklim := 5#32 }, ctx := { u.ctx with since := some 0 } }
    with time := time }

/-- A release record of the barrier block for Q5. -/
def recordUnit : State := withUnit fun u =>
  let u := withRing 5#6 (ringOf 0x600000#64 0#16 0#16 0#16) u
  { u with cr := { u.cr with cbarRecs := [(5#6, 1#24)] } }

theorem witness_SequencerEvents :
    mayIssue plainUnit = true ∧ (match framed plainUnit.unit with | .error _ => true | .ok _ => false) = true
    ∧ mayIssue (withUnit fun u => { u with istore := [(0, 0x8A430051#32)] }) = true
    ∧ (match framed (withUnit fun u => { u with istore := [(0, 0x8A430051#32)] }).unit with
      | .ok (b, 1) => b.all fun x => match x.instr.guard? with
        | some g => !guardOn g plainUnit.unit
        | none => false
      | _ => false) = true
    ∧ (stalledUnit 6).unit.run = .running ∧ divertDue (stalledUnit 6) = none ∧ (landDue (stalledUnit 6)).unit.cr.blocklim ≠ 0#32
    ∧ (stalledUnit 6).unit.ctx.since = some 0 ∧ (blockingSlot (stalledUnit 6)).isSome = true
    ∧ (landDue (stalledUnit 6)).unit.cr.blocklim.toNat < (stalledUnit 6).time - 0 ∧ (stalledUnit 5).time - 0 ≤ (landDue (stalledUnit 5)).unit.cr.blocklim.toNat
    ∧ barrierAdvance recordUnit = recordUnit ∧ recordUnit.unit.cr.cbarRecs = (5#6, 1#24) :: []
    ∧ ringAt recordUnit.unit.pad 5#6 = some (ringOf 0x600000#64 0#16 0#16 0#16) ∧ (ringOf 0x600000#64 0#16 0#16 0#16).reorder = false
    ∧ (shownRing recordUnit.unit 5#6 (ringOf 0x600000#64 0#16 0#16 0#16)).room ≠ 0 := by decide +kernel

/-- A CPY.L2L of one row of 4 elements from bank 1 (or from Q6 there) to 0x100 in bank 0, of formats n and f, at the head of CQ0. -/
def localEntry (far : W64) (n f : W64) (st : Stage) : QEntry :=
  ⟨5, 0#32, 0#19, 2#4, .cpyL2l 0x100#64 far 3#64, ((Vector.replicate 16 0#64).set 0 n).set 1 f, st, .none⟩

def localUnit (e : QEntry) (t : W16) : State := withUnit fun u =>
  let u := withRing 6#6 (ringOf 0x0100000000620000#64 0#16 t t) u
  { u with nc := 1, nextAcc := 6, cq0 := [e], pad := { u.pad with banks := 3#16, bytes := [(0x20000, 7#8)] } }

/-- A near range that runs on into a bank of another format. -/
theorem witness_UnlikeBanks :
    padOk 3#16 (ldAddr 0x20000#64) (spanOf 12#64 (ldPitch 0x20000#64) 4 1 false) = true
    ∧ 0x20000 / Config.bankBytes = 1 ∧ (0x20000 + spanOf 12#64 0 4 1 false - 1) / Config.bankBytes = 1
    ∧ (0x1FFF0 + spanOf 12#64 0 64 1 true - 1) / Config.bankBytes = 1 ∧ 12#64 <<< 8 ≠ 10#64 <<< 8
    ∧ chainOf 1#64 10#64 false = none := by decide +kernel

/-- Whether n slots of a ring are filled that no copy of the unit has taken. -/
def firesOn (u : Machine.Unit) (q : BitVec 6) (r : Ring) (n : Nat) : Bool :=
  decide (takenFrom u q (shownRing u q r) + n ≤ (shownRing u q r).filled)

theorem witness_LocalCopyBeginsAndPerforms :
    (∀ e ∈ [localEntry 0x8600000000000000#64 12#64 12#64 .waiting, localEntry 0x20000#64 12#64 12#64 .waiting, localEntry 0x20000#64 10#64 1#64 .waiting,
        localEntry 0x20000#64 12#64 12#64 (.begun 0x20000 0x100 [] [0#64])],
      readyEntry (localUnit e 1#16).unit 0 = some e ∧ e.halt = .none)
    ∧ ldRing 0x100#64 = false ∧ ldRing 0x8600000000000000#64 = true ∧ ldRing 0x20000#64 = false
    ∧ (ringAt (localUnit (localEntry 0x8600000000000000#64 12#64 12#64 .waiting) 1#16).unit.pad (ldQ 0x8600000000000000#64)).isSome = true
    ∧ firesOn (localUnit (localEntry 0x8600000000000000#64 12#64 12#64 .waiting) 1#16).unit 6#6 (ringOf 0x0100000000620000#64 0#16 1#16 1#16) 1 = true
    ∧ firesOn (localUnit (localEntry 0x8600000000000000#64 12#64 12#64 .waiting) 0#16).unit 6#6 (ringOf 0x0100000000620000#64 0#16 0#16 0#16) 1 = false
    ∧ padOk 3#16 (ldAddr 0x20000#64) (spanOf 12#64 (ldPitch 0x20000#64) 4 1 false) = true
    ∧ padOk 3#16 (ldAddr 0x3FFFF#64) (spanOf 12#64 (ldPitch 0x3FFFF#64) 4 1 false) = false
    ∧ chainOf 12#64 12#64 false ≠ none ∧ localAligned 12#64 0x20000 0 4 1 = true ∧ localAligned 12#64 0x100 0 4 1 = true
    ∧ chainOf 1#64 10#64 false = none := by decide +kernel

/-- FW bound to a handle of 2 panels through Q7 (or, with m, to a remote ring of core 1). -/
def feedingUnit (src : FeedSrc) : State := withUnit fun u =>
  let u := withRing 7#6 ⟨0x0000007F00202000#64, 1#64, 0#16, 0#16, 0#16, 0#1024, 0#1024, 0#1024⟩ u
  { u with
    mx := { u.mx with west := { Feeder.unbound with src := some src, fmt := 1#64 } }
    launch := { UnitLaunch.none with nr := 1, nc := 2, units := 2#32, slots := [(0, [0#16, 2#16]), (1, [0x28#16])] } }

/-- A chunk of two bytes for 0x200000, its check value as given; the package has translated that address before. -/
def aChunk (crc : W32) : Chunk := ⟨0#32, 1#16, 0#16, 1#16, 0#64, crc, [1#8, 2#8], [(some 0x200000#64, 2)], 0#12, 0#4, 0#4, 0#16⟩

def chunkState : State := (locate (mapped id) (chunkWho (aChunk 0#32)) 0x200000#64 1 true).1

/-- A CPY.PE at the head of CQ0: a push whose one chunk has been sent, or a pull in progress. -/
def peerEntry (ctl : W64) (st : Stage) : QEntry := ⟨5, 0#32, 0#19, 2#4, .cpyPe 0x100#64 0#64 0#64 ctl, Vector.replicate 16 0#64, st, .none⟩

/-- FW bound by a result that is due. -/
def dueFeeder : State := withUnit fun u => { feedingUnit (.ring 7#6) |>.unit with
  mx := u.mx, landing := [⟨0, 1, .feeder false { Feeder.unbound with src := some (.mesh 0x51#64), fmt := 1#64 }, 0#6⟩] }

/-- FW bound to this core's own Q7, of which one slot is filled, by a slot that reaches this core alone; with src none, to nothing. -/
def ownMesh (src : Option FeedSrc) : State := withUnit fun u =>
  let u := withRing 7#6 ⟨0x0000007F00202000#64, 1#64, 0#16, 1#16, 1#16, 0#1024, 0#1024, 0#1024⟩ u
  { u with
    mx := { u.mx with west := { Feeder.unbound with src := src, fmt := 1#64 } }
    launch := { UnitLaunch.none with nr := 1, nc := 2, units := 2#32, slots := [(0, [5#16])] } }

theorem witness_OwnMeshFlits :
    (feederOf (landBinds (ownMesh (some (.mesh 0x70#64)))).unit false).src = some (.mesh 0x70#64)
    ∧ meshMembers (landBinds (ownMesh (some (.mesh 0x70#64)))).unit false = [false]
    ∧ meshSlotFor (landBinds (ownMesh (some (.mesh 0x70#64)))).unit 0x70#64 1 = true
    ∧ fld 0x70#64 0 4 = (landBinds (ownMesh (some (.mesh 0x70#64)))).unit.cr.lcore.toNat
    ∧ (feederOf (landBinds (ownMesh (some (.mesh 0x70#64)))).unit false).landing.length < 4
    ∧ (localFlit (landBinds (ownMesh (some (.mesh 0x70#64)))).unit 0x70#64
      (feederOf (landBinds (ownMesh (some (.mesh 0x70#64)))).unit false)).isSome = true
    ∧ ((ringAt (landBinds (ownMesh none)).unit.pad 7#6).any fun r => (shownRing (landBinds (ownMesh none)).unit 7#6 r).filled != 0) = true
    ∧ boundRing (landBinds (ownMesh none)).unit (landBinds (ownMesh none)).unit.mx.west ≠ some 7
    ∧ boundRing (landBinds (ownMesh none)).unit (landBinds (ownMesh none)).unit.mx.north ≠ some 7 := by decide +kernel

theorem witness_FeederAndPeerEvents :
    (∀ src ∈ [FeedSrc.handle 0x200070003#64 0#64, .mesh 0x51#64], (landBinds (feedingUnit src)).unit = (feedingUnit src).unit)
    ∧ (feederOf (landBinds dueFeeder).unit false).src = some (.mesh 0x51#64)
    ∧ (feederOf (feedingUnit (.handle 0x200070003#64 0#64)).unit false).src = some (.handle 0x200070003#64 0#64)
    ∧ queueOf (feedingUnit (.handle 0x200070003#64 0#64)).unit (feederQueue false) = []
    ∧ (ringAt (feedingUnit (.handle 0x200070003#64 0#64)).unit.pad (BitVec.ofNat 6 (fld 0x200070003#64 16 6))).map (·.room) = some 2
    ∧ (feederOf (feedingUnit (.handle 0x200070003#64 0#64)).unit false).fetched < fld 0x200070003#64 32 32
    ∧ canDraw (feedingUnit (.handle 0x200070003#64 0#64)).unit 0 1 = true
    ∧ meshMembers (feedingUnit (.mesh 0x51#64)).unit false = [false] ∧ meshSlotFor (feedingUnit (.mesh 0x51#64)).unit 0x51#64 1 = true
    ∧ fld 0x51#64 0 4 ≠ (feedingUnit (.mesh 0x51#64)).unit.cr.lcore.toNat
    ∧ (feederOf (feedingUnit (.mesh 0x51#64)).unit false).landing.length < 4
    ∧ mget chunkState.pkg.resets (0#4).toNat = none ∧ (aChunk (crc32c [1#8, 2#8])).land = 0#16
    ∧ (0x200000#64).toNat % 128 + (aChunk 0#32).payload.length ≤ 128
    ∧ (locate chunkState (chunkWho (aChunk 0#32)) 0x200000#64 1 true).1 = chunkState
    ∧ placeOf (locate chunkState (chunkWho (aChunk 0#32)) 0x200000#64 1 true) = some (.mem 0x200000 0 false)
    ∧ crc32c (aChunk 0#32).payload ≠ (aChunk 0#32).crc ∧ chunkState.pkg.badChunks.contains (1#16, 0#32, 0#16) = false
    ∧ (locate (unholdChunk chunkState (aChunk 0#32)) (chunkWho (aChunk 0#32)) 0x200000#64 1 true).1 = unholdChunk chunkState (aChunk 0#32)
    ∧ placeOf (locate (unholdChunk chunkState (aChunk 0#32)) (chunkWho (aChunk 0#32)) 0x200000#64 1 true) = some (.mem 0x200000 0 false)
    ∧ (∀ e ∈ [peerEntry 3#64 (.sent 0x100 [aChunk 0#32] [0#64]), peerEntry 0x200000000000003#64 (.begun 0 0x100 [] [0#64])],
      readyEntry (localUnit e 0#16).unit 0 = some e)
    ∧ fbit 3#64 57 = false ∧ fbit 0x200000000000003#64 57 = true ∧ ldRing 0x100#64 = false := by decide +kernel

/-! ### Witnesses: routing, KV pages and the pantry -/

/-- One command at the head of RQ or KQ. -/
def queued (cmd : Cmd) : QEntry := ⟨5, 0#32, 0#19, 0#4, cmd, Vector.replicate 16 0#64, .waiting, .none⟩

/-- RQ holds that command; entry 0 of the object table at 0x200000 is a route table of 4 words at 0x200100; the scratchpad holds bs. -/
def routeUnit (cmd : Cmd) (bs : Memory) : State :=
  let s := mapped fun u => { u with
    nc := 1, nextAcc := 6, rq := [queued cmd], pad := { u.pad with banks := 1#16, bytes := bs }
    cr := { u.cr with otbase := 0x200000#64, otlen := 1#17 }, launch := { UnitLaunch.none with nr := 1, nc := 2, units := 2#32 } }
  { s with dram := s.dram ++ [(0x200001, 1#8), (0x200002, 0x20#8), (0x200008, 4#8), (0x200030, 0xC1#8), (0x200031, 0x08#8), (0x200100, 9#8)] }

/-- The header of a return of 4 bytes to unit n, for a RRET of 0 and 0x20. -/
def returnHeader (n : Byte) : Memory := [(0x26, 4#8)] ++ if n = 0#8 then [] else [(0x28, n)]

theorem witness_RouteTablesAndReturns :
    (∀ cmd ∈ [Cmd.rasm 0#64 0#64, .rtcfg 1#64 0#64, .rtcfg 0#64 0#64, .rret 0#64 0x20#64],
      readyEntry (routeUnit cmd []).unit 4 = some (queued cmd) ∧ (queued cmd).halt = .none
      ∧ ∀ k : Fin 4, ((routeUnit cmd []).unit.rt.ra[k]).open_ = none)
    ∧ (routeUnit (.rtcfg 1#64 0#64) []).unit.cr.otlen.toNat ≤ fld 1#64 0 16
    ∧ (match readHandle (routeUnit (.rtcfg 0#64 0#64) []) (unitWho (routeUnit (.rtcfg 0#64 0#64) []).unit 0#4 3#2) 0 with
      | (s1, some (.ok ws)) => (Handle.of ws).ok && (Handle.of ws).tgt == 0 && (Handle.of ws).rights.testBit 3 && !(Handle.of ws).fault
          && (Handle.of ws).fmt == 0xC && fld (nth ws 6 0#64) 1 2 == 0
          && okWith (vread s1 (unitWho (routeUnit (.rtcfg 0#64 0#64) []).unit 0#4 3#2) 0 (w64 (Handle.of ws).base) 16) (fun _ bs => bs.length == 16)
      | _ => false) = true
    ∧ (∀ n ∈ [0#8, 1#8], let p := (routeUnit (.rret 0#64 0x20#64) (returnHeader n)).unit.pad
      padRead p 0x23 1 % 8 = 0 ∧ padRead p 0x2D 3 = 0 ∧ padRead p 0x32 14 = 0 ∧ padRead p 0x26 2 = 4 ∧ padRead p 0x28 4 = n.toNat
      ∧ padOk p.banks 0 4 = true)
    ∧ unitResident (routeUnit (.rret 0#64 0x20#64) (returnHeader 1#8)) 0 = true
    ∧ unitResident (routeUnit (.rret 0#64 0x20#64) (returnHeader 1#8)) 1 = true
    ∧ unitResident { routeUnit (.rret 0#64 0x20#64) (returnHeader 1#8) with
        unit := { (routeUnit (.rret 0#64 0x20#64) (returnHeader 1#8)).unit with launch := { UnitLaunch.none with units := 2#32 } } } 1 = false
    ∧ (queued (.rret 0#64 0x20#64)).stage = .waiting
    ∧ padRead (routeUnit (.rret 0#64 0x20#64) []).unit.pad 0x26 2 < 4 := by decide +kernel

/-- Mortar table 1 with returns at 0x1000, output ring Q5 and one row; Q5 as given, Q6 a reorder ring; the round r open. -/
def roundUnit (r : Option Round) (w0 : W64) (rsv : W16) : State := withUnit fun u =>
  let u := withRing 5#6 ⟨w0, 0x10000#64, 0#16, 0#16, rsv, 0#1024, 0#1024, 0#1024⟩ u
  let u := withRing 6#6 ⟨0x0000000280604000#64, 1#64, 0#16, 0#16, 0#16, 0#1024, 0#1024, 0#1024⟩ u
  { u with
    nc := 1, nt := 1, nextAcc := 6, rq := [queued (.route 0#64 0x1000000100#64 0#64)], pad := { u.pad with banks := 1#16 }
    rt := { u.rt with ra := u.rt.ra.set 1 { Mortar.start with conf := some (0x500001000#64, 0#64), open_ := r } } }

/-- A round of one row with one rank, of the entry of RQ. -/
def aRound (done : Bool) (slot : Option (Nat × Nat)) (ps : List RowPacket) (deadline : Option Nat) : Round :=
  ⟨5, 0#16, 1, 1, 32, [1#8], deadline, [[⟨if done then .returned else .pending, 0, 0#32, 0#16, false⟩]], [done], [false], slot, ps⟩

def aPacket : RowPacket := ⟨0, 0, 0, 6#6, 0#16, false, true⟩

theorem witness_RouteRoundsGoOn :
    ((roundUnit none 0#64 0#16).unit.rt.ra[(1 : Fin 4)]).conf = some (0x500001000#64, 0#64)
    ∧ (∀ k : Fin 4, ((roundUnit none 0#64 0#16).unit.rt.ra[k]).open_ = none)
    ∧ nextRoute (roundUnit none 0#64 0#16).unit = some (0, queued (.route 0#64 0x1000000100#64 0#64)) ∧ routeTable 0x1000000100#64 = 1
    ∧ qfenceHolds (roundUnit none 0#64 0#16).unit 4 5 = false ∧ (roundUnit none 0#64 0#16).unit.fences = []
    ∧ routeUsable (roundUnit none 0#64 0#16).unit 0#64 0x1000000100#64 = false
    ∧ routeUsable (roundUnit none 0x0000000200600000#64 4#16).unit 0#64 0x1000000100#64 = true
    ∧ (engRing (roundUnit none 0x0000000200600000#64 4#16) 0 5#6).map (·.room) = some 0 ∧ fld 0#64 0 32 = 0
    ∧ (∀ k : Fin 4, k ≠ 1 → ((roundUnit (some (aRound false none [] none)) 0x200600000#64 0#16).unit.rt.ra[k]).open_ = none)
    ∧ ((aRound false none [] none).deadline.any fun d => decide (d ≤ 0)) = false
    ∧ (∀ i < 1, (nth (aRound false none [] none).ranks i []).any (·.st == .pending) = true) ∧ (aRound false none [] none).rowsDone.all id = false
    ∧ (ringAt (roundUnit none 0x200600000#64 0#16).unit.pad 5#6).map (fun rg => decide (1 ≤ (shownRing plainUnit.unit 5#6 rg).room)) = some true
    ∧ (aRound false (some (0, 0)) [aPacket] none).packets = [aPacket] ∧ aPacket.drawn = true ∧ aPacket.core = 0
    ∧ (ringAt (roundUnit none 0#64 0#16).unit.pad 6#6).map (fun rg => rg.reorder && decide (1 ≤ (shownRing plainUnit.unit 6#6 rg).room)) = some true
    ∧ (nth (aRound false none [] none).ranks (0#6).toNat [])[(0#2).toNat]? = some ⟨.pending, 0, 0#32, 0#16, false⟩
    ∧ unitResident (roundUnit none 0#64 0#16) (coreUnit (roundUnit none 0#64 0#16).unit 0) = true
    ∧ (ringAt (roundUnit none 0#64 0#16).unit.pad 6#6).map (fun rg => (rg.reserve 1).canFill rg.rsv.toNat) = some true
    ∧ (aRound false none [] none).id ≠ 1#16
    ∧ (∀ i < 1, nth (aRound true (some (0, 0)) [] none).rowsDone i true = true) ∧ (aRound true (some (0, 0)) [] none).rowsDone.all id = true
    ∧ (roundUnit (some (aRound true (some (0, 0)) [] none)) 0x200600000#64 1#16).unit.rq = queued (.route 0#64 0x1000000100#64 0#64) :: []
    ∧ (ringAt (roundUnit none 0x200600000#64 1#16).unit.pad 5#6).map (·.reorder) = some false
    ∧ (aRound false none [] (some 0)).deadline = some 0 ∧ 0 ≤ (roundUnit none 0#64 0#16).time := by decide +kernel

/-- The session, with a KV region of two pages at 0x800000 and its frame pool at 0x200400. -/
def kvJob : Job := { aJob with r := { aJob.r with kvBase := 0x800000#64, kvLen := 0x20000#64, pool := 0x200400#64 } }

/-- KQ holds the command; a table of leaves at 0x2000 maps 0x800000; the leaves of its first page are onto the frames of 0x300 with these
low bits, where there are any; the pool holds the frames at 0x300; more stands at 0x200440; a pantry of 64 buckets is registered; a block
record of one token stands at 0. -/
def kvState (cmd : Cmd) (low : Option (Byte × Byte)) (more : Memory) : State :=
  let s := mapped fun u => { u with
    nc := 1, nextAcc := 6, kq := [queued cmd], pad := { u.pad with banks := 1#16, bytes := [(4, 1#8), (64, 5#8)] } }
  { s with
    jobs := [(0, kvJob)], pantries := [(0, ⟨0x100000, 6, 0x180000⟩)]
    dram := s.dram ++ [(0x1020, 0x01#8), (0x1021, 0x20#8)] ++ (match low with
        | none => []
        | some (a, b) => (upto 0 16).flatMap fun i => [(0x2000 + 8 * i, a), (0x2001 + 8 * i, b), (0x2002 + 8 * i, 0x30#8)])
      ++ [(0x200400, 1#8), (0x200404, 4#8), (0x200409, 3#8)] ++ more }

/-- A sequence record of one page at 0x800000 with two tokens, and a window descriptor of one slot there. -/
def aSequence : Memory := [(0x200442, 0x80#8), (0x200448, 2#8), (0x20044C, 1#8), (0x200450, 8#8)]
def aWindow : Memory := [(0x200442, 0x80#8), (0x200448, 1#8)] ++ (upto 0 16).map fun i => (0x200450 + i, 0xFF#8)

theorem witness_KvPagesAndWindows :
    (∀ cmd ∈ [Cmd.kvmap 0x800000#64 0#64, .kvtrunc 0x200440#64 1#64, .kvadv 0x200440#64 0#64],
      readyEntry (kvState cmd none []).unit 5 = some (queued cmd) ∧ (queued cmd).halt = .none ∧ (queued cmd).stage = .waiting
      ∧ kvWaits (kvState cmd none []) = false)
    ∧ fld 0#64 0 2 = 0 ∧ fld 0#64 16 16 = 0 ∧ (leafBase (kvState (.kvmap 0x800000#64 0#64) none []) 0x800000 == some 0x2000) = true
    ∧ 0x2000 % 8 = 0 ∧ 0x2000 + 128 ≤ Config.mainBytes
    ∧ ((leavesAt (kvState (.kvmap 0x800000#64 0#64) none []) 0x2000).all fun x => !x.getLsbD 0) = true
    ∧ (match (poolPop (kvState (.kvmap 0x800000#64 0#64) none [])).2 with | .ok f => f == 0x300 | .error _ => false) = true
    ∧ ((leavesAt (kvState (.kvmap 0x800000#64 0#64) (some (0x3F#8, 0#8)) []) 0x2000).any fun x => x.getLsbD 0) = true
    ∧ (match kvRead (kvState (.kvtrunc 0x200440#64 1#64) (some (0x3F#8, 0#8)) []) 0 0x200440#64 64 with
      | (s1, .ok bs) => !seqOk s1 (seqRec bs) | _ => false) = true
    ∧ (match kvRead (kvState (.kvtrunc 0x200440#64 1#64) (some (0x3F#8, 0#8)) aSequence) 0 0x200440#64 64 with
      | (s1, .ok bs) => seqOk s1 (seqRec bs) && 1 ≤ (seqRec bs).ntok && (truncBad s1 (seqRec bs)).isNone
          && (seqRec bs).npages == ceilDiv 1 (seqRec bs).block
          && (match (seqWrite s1 0x200440#64 1 (seqRec bs).npages 1).2 with | .ok _ => true | .error _ => false)
      | _ => false) = true
    ∧ (match kvRead (kvState (.kvadv 0x200440#64 0#64) none []) 2 0x200440#64 64 with | (s1, .ok bs) => !(windowOf s1 bs).ok | _ => false) = true
    ∧ (match kvRead (kvState (.kvadv 0x200440#64 0#64) none aWindow) 2 0x200440#64 64 with
      | (s1, .ok bs) => (windowOf s1 bs).ok
          && (match (advance s1 0x200440#64 false (windowOf s1 bs)).2 with | .ok _ => true | .error _ => false)
      | _ => false) = true
    ∧ (match kvRead (kvState (.kvadv 0x200440#64 0#64) (some (0x3F#8, 0#8)) aWindow) 2 0x200440#64 64 with
      | (s1, .ok bs) => (windowOf s1 bs).ok
          && (match (advance s1 0x200440#64 false (windowOf s1 bs)).2 with | .error (.err kind) => kind < 2 ^ 16 | _ => false)
      | _ => false) = true := by decide +kernel

def aPantry : Pantry := ⟨0x100000, 6, 0x180000⟩

/-- The key of the block record that stands at 0, and the entry of that block; the cells of entry i of its bucket. -/
def aKey : List Byte := [0x1E, 0x46, 0x60, 0x27, 0x0A, 0xA6, 0x06, 0xC9, 0x7E, 0x61, 0xC3, 0xC7, 0x62, 0x37, 0xDB, 0x22]

def blockEntry : PnEntry :=
  ⟨aKey, 0, 1, 1, 2, 0, 0x300, 5 :: List.replicate 63 0⟩

def entryCells (x : PnEntry) (i : Nat) : Memory :=
  ((pnBytes x).zipIdx (0x112C00 + 320 * i)).filterMap fun c => if c.1 = 0#8 then none else some (c.2, c.1)

theorem witness_PantryCommands :
    (∀ cmd ∈ [Cmd.pnlook 0#64 0#64 0#64, .pnins 0x800000#64 0#64 0#64, .pnrel 0x800000#64 0#64],
      readyEntry (kvState cmd none []).unit 5 = some (queued cmd) ∧ kvWaits (kvState cmd none []) = false)
    ∧ pantryOf (kvState (.pnlook 0#64 0#64 0#64) none []) 0 = some aPantry
    ∧ (blockRec (kvState (.pnlook 0#64 0#64 0#64) none []).unit.pad 0).ok = true
    ∧ ((leavesAt (kvState (.pnins 0x800000#64 0#64 0#64) (some (0x3F#8, 0#8)) []) 0x2000).all fun l => l.getLsbD 0 && !l.getLsbD 10) = true
    ∧ (leafBase (kvState (.pnins 0x800000#64 0#64 0#64) (some (0x3F#8, 0#8)) []) 0x800000 == some 0x2000) = true
    ∧ ((leavesAt (kvState (.pnrel 0x800000#64 0#64) (some (0x37#8, 4#8)) []) 0x2000).all fun l => l.getLsbD 0 && l.getLsbD 10) = true
    ∧ 0x100000 + 2560 * 2 ^ 6 ≤ Config.mainBytes ∧ 0x180000 + backBytes ≤ Config.mainBytes ∧ 0x100000 % 4096 = 0
    ∧ mget (kvState (.pnlook 0#64 0#64 0#64) none []).pantries (16 * (0#4).toNat + (0#4).toNat) = some aPantry ∧ 7 < 8 ∧ 63 < 2 ^ 6 := by
  decide +kernel

theorem bucket_aKey : pnBucket aPantry aKey = 30 ∧ pnAddr aPantry 30 0 = 0x112C00 := by decide

set_option maxRecDepth 100000 in
theorem blockKey_aKey : (blockKey (blockRec (kvState (.pnlook 0#64 0#64 0#64) none []).unit.pad 0) == aKey) = true := by decide +kernel

theorem witness_PantryLookups :
    let r := blockRec (kvState (.pnlook 0#64 0#64 0#64) none []).unit.pad 0
    (pnFind (kvState (.pnlook 0#64 0#64 0#64) none []) aPantry 30 fun v => pnMatches v r aKey).isNone = true
    ∧ (match pnFind (kvState (.pnlook 0#64 0#64 0#64) none (entryCells blockEntry 0)) aPantry 30 fun v => pnMatches v r aKey with
      | some (i, v) => i == 0 && v.refs == 2 && v.frame == 0x300
      | none => false) = true := by
  decide +kernel

/-- The state of PNINS where the bucket holds x in each entry. -/
def insState (x : PnEntry) : State :=
  kvState (.pnins 0x800000#64 0#64 0#64) (some (0x3F#8, 0#8)) ((upto 0 8).flatMap (entryCells x))

theorem witness_PantryEntries :
    let r := blockRec (kvState (.pnlook 0#64 0#64 0#64) none []).unit.pad 0
    (pnFind (kvState (.pnins 0x800000#64 0#64 0#64) (some (0x3F#8, 0#8)) []) aPantry 30 fun v => v.state == 0).isSome = true
    ∧ (pnFind (insState { blockEntry with model := 1 }) aPantry 30 fun v => pnMatches v r aKey).isNone = true
    ∧ (pnFind (insState { blockEntry with model := 1 }) aPantry 30 fun v => v.state == 0).isNone = true
    ∧ (pnFind (insState { blockEntry with model := 1 }) aPantry 30 fun v => v.refs == 0).isNone = true := by
  decide +kernel

theorem witness_PantryRelease :
    let s := kvState (.pnrel 0x800000#64 0#64) (some (0x37#8, 4#8)) (entryCells blockEntry 0 ++ [(0x1800C0, 0xF1#8)])
    ((leavesAt s 0x2000).all fun l => leafFrame l / 16 == 0x30) = true ∧ backWord s aPantry 0x300 = 241
    ∧ (pnRead s aPantry 30 0).refs = 2 := by
  decide +kernel

/-! ### Witnesses: frame rings and the encoder -/

/-- Ring 3 of two frames of one tile at 0x200000, its slots as given. -/
def frameReg : FrameRingReg := ⟨3#6, 0#4, 2, 64, 64, 0x200000#64, 0#2, 0#2, 0x208000#64, 0#32, 0#12⟩

def aFrame (sl : FrameSlot) : FrameRing :=
  ⟨frameReg, List.replicate 48 0#32, List.replicate 48 0#32, [sl, ⟨0, 0#32, 0, []⟩], 0#32, [512, 513, 514, 515, 516, 517, 518]⟩

/-- The ring for frames of 2 by 2 pixels, one slot in a state. -/
def smallFrame (st : Nat) : FrameRing := { aFrame ⟨st, 0#32, 1, [(0, 0)]⟩ with reg := { frameReg with w := 2, h := 2 } }

/-- A session at 0x209000 with a bitstream ring of 65,536 bytes at 0x210000; rptr as given modulo 2^24. -/
def aSession : Session := ⟨3#6, 0#32, 0x209000#64, 122880, 1, 0, 0#12, 0#4, true⟩

def sessionCells (wptr : Byte) : Memory :=
  [(0x209002, 0x21#8), (0x20900A, 1#8), (0x20900D, 8#8), (0x209018, 1#8), (0x209020, 30#8), (0x209024, 1#8)]
    ++ if wptr = 0#8 then [] else [(0x20902A, wptr)]

/-- The span of the ring is pinned for partition 0; the encoder and KQ as given. -/
def frameState (fs : List (Nat × FrameRing)) (kq : List QEntry) (enc : Encoder) (more : Memory) : State :=
  let s := mapped fun u => { u with nc := 1, nextAcc := 6, kq := kq, pad := { u.pad with banks := 1#16 } }
  let s := { s with unit := withRing 6#6 (ringOf 0x0100000000600000#64 0#16 1#16 1#16) s.unit }
  { s with
    jobs := [(0, aJob)], frames := fs, enc := enc, dram := s.dram ++ more
    pinned := (upto 512 8).map fun f => (f, 0#4) }

def noEnc : Encoder := ⟨[], none, [], [], []⟩

def frameFree : FrameSlot := ⟨0, 0#32, 0, []⟩

theorem witness_FrameRings :
    frameRegOk frameReg = true ∧ frameRegOk { frameReg with nslot := 1 } = false ∧ frameRing (frameState [] [] noEnc []) 3#6 = none
    ∧ (frameRing (frameState [(3, aFrame frameFree)] [] noEnc []) 3#6 == some (aFrame frameFree)) = true
    ∧ frSpan frameReg = 28672 ∧ ((upto 0 7).all fun p => pinnedAt (frameState [] [] noEnc []) frameReg p == some (512 + p)) = true
    ∧ okWith (vread (frameState [] [] noEnc []) (regWho (frameState [] [] noEnc []) 0#12) 0 0x208000#64 384) (fun _ bs => bs.length == 384) = true
    ∧ (frameState [(3, aFrame frameFree)] [] { noEnc with bound := [aSession] } []).enc.bound = [aSession] ∧ aSession.fr = 3#6
    ∧ cmdFrame (queued (.pxtile 6#64 0x3000000#64 0#64)).cmd = some 3#6
    ∧ ((queued (.pxtile 6#64 0x3000000#64 0#64)).stage == .waiting) = true ∧ BitVec.ofNat 6 (fld 0x3000000#64 24 6) = 3#6 := by decide +kernel

theorem witness_LatentTiles :
    readyEntry (frameState [] [queued (.pxtile 6#64 0x3000000#64 0#64)] noEnc []).unit 5 = some (queued (.pxtile 6#64 0x3000000#64 0#64))
    ∧ readyEntry (frameState [] [queued (.pxtile 6#64 0x203000000#64 0#64)] noEnc []).unit 5 = some (queued (.pxtile 6#64 0x203000000#64 0#64))
    ∧ BitVec.ofNat 6 (fld 6#64 0 6) = 6#6
    ∧ ringAt (frameState [] [queued (.pxtile 6#64 0x3000000#64 0#64)] noEnc []).unit.pad 6#6
      = some (ringOf 0x0100000000600000#64 0#16 1#16 1#16)
    ∧ (ringOf 0x0100000000600000#64 0#16 1#16 1#16).thr = 1
    ∧ firesOn (frameState [] [queued (.pxtile 6#64 0x3000000#64 0#64)] noEnc []).unit 6#6 (ringOf 0x0100000000600000#64 0#16 1#16 1#16) 1 = true
    ∧ firesOn (frameState [] [queued (.pxtile 6#64 0x3000000#64 0#64)] noEnc []).unit 6#6 (ringOf 0x0100000000600000#64 0#16 0#16 0#16) 1 = false
    ∧ (aFrame frameFree).reg.part = plainUnit.unit.cr.part
    ∧ (aFrame frameFree).admits (w32 (fld 0x203000000#64 32 32)) = false ∧ (aFrame frameFree).stale (w32 (fld 0x203000000#64 32 32)) = false
    ∧ (aFrame frameFree).admits (w32 (fld 0x3000000#64 32 32)) = true ∧ 64 * fld 0x3000000#64 0 6 < 64 ∧ 64 * fld 0x3000000#64 8 6 < 64
    ∧ ((aFrame frameFree).slotOf 0#32).taken.contains (0, 0) = false ∧ ((aFrame frameFree).slotOf 0#32).st < 2 := by decide +kernel

/-- The lines of a tile are writable; a PXTILE whose write has been aborted, or is parked. -/
theorem witness_TileWrites :
    okWith (vcheck (frameState [] [] noEnc []) (regWho (frameState [] [] noEnc []) 0#12) 1 (tileRanges (smallFrame 0).reg 0#32 0 0))
      (fun _ _ => true) = true
    ∧ (smallFrame 0).admits 0#32 = true ∧ 64 * 0 < (smallFrame 0).reg.w ∧ ((smallFrame 0).slotOf 0#32).st < 2 ∧ (smallFrame 0).reg.part = 0#4
    ∧ ((smallFrame 0).slotOf 0#32).taken.contains (1, 0) = false
    ∧ (∀ h ∈ [Halt.aborted 3#4 5#64, .parked 8#6 0#6],
      (readyEntry (frameState [] [{ queued (.pxtile 6#64 0x3000000#64 0#64) with halt := h }] noEnc []).unit 5).isSome = true) := by
  decide +kernel

/-- KQ holds an ENCFRM of operation op. -/
def encState (op : Nat) (fs : List (Nat × FrameRing)) (enc : Encoder) (more : Memory) : State :=
  frameState fs [queued (.encfrm 0x209000#64 (w64 (0x3000000 + op)))] enc more

theorem witness_EncoderCommands :
    (∀ op < 3, encHead (encState op [] noEnc []) op = some (queued (.encfrm 0x209000#64 (w64 (0x3000000 + op))), 0x209000#64, w64 (0x3000000 + op))
      ∧ BitVec.ofNat 6 (fld (w64 (0x3000000 + op)) 24 6) = 3#6 ∧ frameRing (encState op [] noEnc []) 3#6 = none
      ∧ okWith (vread (encState op [(3, aFrame frameFree)] noEnc []) (kvWho plainUnit.unit) 0 0x209000#64 64) (fun _ bs => !(sessionRec bs).ok) = true
      ∧ okWith (vread (encState op [(3, aFrame frameFree)] noEnc (sessionCells 0#8)) (kvWho plainUnit.unit) 0 0x209000#64 64)
        (fun s bs => (sessionRec bs).ok && (sessionOf s (aFrame frameFree) 0x209000#64 0#32 (sessionRec bs)) == aSession) = true)
    ∧ (rateSum [aSession]).1 ≤ 497664000 * (rateSum [aSession]).2 ∧ w32 (fld (w64 0x3000001) 32 32) = (aFrame frameFree).fhead
    ∧ (∃ x ∈ [aSession], x.fr = 3#6) := by decide +kernel

/-- A complete frame, and one that the encoder has taken. -/
def takeState (st : Nat) (enc : Encoder) (wptr : Byte) : State := frameState [(3, smallFrame st)] [] enc (sessionCells wptr)

def encBusy : Encoder := ⟨[aSession], some ⟨aSession, 0#32, false, 0, .none⟩, [], [3#6], []⟩

theorem witness_EncoderFrames :
    (encNext (takeState 2 { encBusy with busy := none } 0#8) 3#6 == some (aSession, 0#32, false)) = true
    ∧ ({ encBusy with busy := none } : Encoder).turn.find? (fun y => (encNext (takeState 2 { encBusy with busy := none } 0#8) y).isSome) = some 3#6
    ∧ (match vread (takeState 3 encBusy 1#8) (edgeWho 0#12 0#4) 0 0x209000#64 64 with
      | (_, .ok bs) => (sessionRec bs).outlen == 65536 && (sessionRec bs).wptr == 65536 && (sessionRec bs).rptr == 0
      | _ => false) = true
    ∧ 16 + ceilDiv 16 16 * 16 = 32 ∧ 65536 < 65536 + 32
    ∧ (match vread (takeState 3 encBusy 0#8) (edgeWho 0#12 0#4) 0 0x209000#64 64 with
      | (s1, .ok bs) => okWith (frameRead s1 (smallFrame 3).reg 0#32) (fun s2 px => px.length == 12 &&
          okWith (vcheck s2 (edgeWho 0#12 0#4) 1
          ((wrapRuns (sessionRec bs).outbase (sessionRec bs).outlen (sessionRec bs).wptr (List.replicate 32 0#8)).map (fun y => (y.1, y.2.length))
            ++ [(0x209000#64 + 40, 8), (0x209000#64 + 56, 5)])) (fun _ _ => (sessionRec bs).wptr == 0))
      | _ => false) = true
    ∧ ((smallFrame 3).slotOf 0#32).st = 3 ∧ ((smallFrame 3).slotOf 0#32).fn = 0#32
    ∧ (frameRing (takeState 3 encBusy 0#8) 3#6 == some (smallFrame 3)) = true := by decide +kernel

/-! ### Witnesses: the dispatcher -/

/-- A launch of n units, one a gang, of the image at 0x100 with bank 0, of priority p. -/
def launchRec (n p : Nat) : LaunchRec :=
  ⟨((((Vector.replicate 16 0#64).set 0 0x100#64).set 1 (w64 (p * 2 ^ 28 + 2 ^ 32))).set 2 (w64 (n * 2 ^ 32))).set 5 1#64⟩

def anImage : Image := ⟨0#64, [0x80000000#32], [], [], [], [], [], true⟩

def aGang (st : GangState) : Gang := ⟨st, none, none, 0, false⟩

def launchOne (p order : Nat) (st : GangState) : Launch :=
  ⟨launchRec 1 p, order, [], 0#3, 256, [aGang st], [], 1, none, none, 0#8, 0#8, 0#64, none, none⟩

/-- The job with these launches in its graph 0. -/
def jobWith (ls : List Launch) : Job :=
  if ls.isEmpty then aJob else { aJob with graphs := [⟨0#16, ls, false, none⟩], nextSeq := 1#16 }

/-- Partition 0 with its job and image; the unit as given. -/
def dispState (f : Machine.Unit → Machine.Unit) (j : Job) (more : Memory) : State :=
  let s := partState (mapped f)
  { s with jobs := [(0, j)], images := [(0x100, anImage)], dram := s.dram ++ more }

def streamJob : Job := { aJob with r := { aJob.r with stream := true, ladder := 0x200000#64 }, due := some 5 }

/-- Rung 0 at 0x200000 names one launch record at 0x201000. -/
def rungCells : Memory :=
  [(0x200001, 0x10#8), (0x200002, 0x20#8), (0x200008, 1#8), (0x20000B, 1#8), (0x20000C, 1#8), (0x201001, 1#8), (0x20100C, 1#8), (0x201014, 1#8),
    (0x201028, 1#8)]

def streamState (time : Nat) : State := { dispState id streamJob rungCells with time := time }

/-- One launch that waits while another of lower priority runs, on the unit among all the cores of the cluster. -/
def fullState : State :=
  { dispState id (jobWith [launchOne 0 0 (.running ⟨0#5, .id, 0, 0⟩), launchOne 1 1 .waiting]) [] with
    time := 2, cores := (upto 0 16).map fun k => (0#5, BitVec.ofNat 4 k) }

theorem witness_JobsAndGraphs :
    mget (dispState id aJob []).jobs (jobKey 0#4 0#32) = some aJob ∧ aJob.graphs = [] ∧ aJob.r.stream = false ∧ aJob.open_ = true
    ∧ aJob.done = false ∧ aJob.r.part = 0#4 ∧ aJob.r.job = 0#32 ∧ aJob.failed = false
    ∧ launchDetail (dispState id aJob []) aJob 0 (lrSetPhase (launchRec 1 0) (max (lrPhase (launchRec 1 0)) aJob.phase.toNat)) = 0
    ∧ (mget (dispState id aJob []).images (lrImage (lrSetPhase (launchRec 1 0) 0)) == some anImage) = true ∧ anImage.handles = []
    ∧ launchDetail (dispState id aJob []) aJob 0 (lrSetPhase (launchRec 0 0) (max (lrPhase (launchRec 0 0)) aJob.phase.toNat)) = 2
    ∧ (dispState id aJob []).text.ctxs = [] ∧ (64 < (List.replicate 65 (launchRec 1 0)).length)
    ∧ mget (dispState id aJob []).jobs (jobKey 0#4 7#32) = none ∧ (mget (dispState id aJob []).pkg.parts 0).isSome = true
    ∧ aJob.r.ladder = 0#64 ∧ aJob.r.rung = 0#3 := by decide +kernel

theorem witness_StreamsAndTicks :
    mget (streamState 5).jobs (jobKey 0#4 0#32) = some streamJob ∧ streamJob.due = some 5 ∧ (streamState 4).time < 5 ∧ 5 ≤ (streamState 5).time
    ∧ streamJob.open_ = true ∧ (streamState 5).parks = []
    ∧ (match rungEntry (streamState 5) streamJob 0 (.ladder 0) with
      | (s1, some (va, count, cscale)) => va == 0x201000#64 && count == 1 && cscale == 256
          && okWith (vread s1 (jobWho streamJob) 0 va 128) (fun _ bs => bs.length == 128)
      | _ => false) = true
    ∧ (dispState id aJob []).pkg.parts = [(0, aPart 0)] ∧ (firstStuck (markReady (dispState id aJob [])) (aPart 0).part).isNone = true
    ∧ fullState.pkg.parts = [(0, aPart 0)]
    ∧ (match firstStuck (markReady fullState) (aPart 0).part with
      | some x => x.launch == 1 && (match victimFor (markReady fullState) (aPart 0).part x with
        | some y => y.launch == 0 && y.g.st == .running ⟨0#5, .id, 0, 0⟩ && ownGang fullState y.key y.seq y.launch y.gang
        | none => false)
      | none => false) = true
    ∧ fullState.unit.run = .running ∧ (workView (dispState id aJob []) == workView fullState) = false := by decide +kernel

def startState : State := dispState (fun u => { u with run := .none }) (jobWith [launchOne 0 0 .waiting]) []

theorem witness_GangStartsItsUnits :
    (match gangRef (markReady startState) ⟨0#4, 0#32, 0#16, 0⟩ 0 with
      | some x => (launchOf (markReady startState) ⟨0#4, 0#32, 0#16, 0⟩ == some x.l) && x.g.st == .waiting && mayPlace (markReady startState) 0#4 x
          && admits (markReady startState) 0#4 x.l 0 (markReady startState).cores ⟨0#5, .id, 0, 0⟩
          && modelledCore startState.here x.l.rec_ ⟨0#5, .id, 0, 0⟩ == some 0 && mget startState.images (lrImage x.l.rec_) == some anImage
      | none => false) = true
    ∧ (mget (markReady startState).jobs (idKey ⟨0#4, 0#32, 0#16, 0⟩)).isSome = true ∧ startState.unit.run = .none
    ∧ (match execGangStart ⟨0#4, 0#32, 0#16, 0⟩ 0 ⟨0#5, .id, 0, 0⟩ startState with
      | .next t => (firstStuck (markReady t) 0#4).isNone
      | _ => false) = true := by decide +kernel

/-- The unit of the only launch has exited. -/
def exitState : State := dispState (fun u => { u with run := .exited }) (jobWith [launchOne 0 0 (.running ⟨0#5, .id, 0, 0⟩)]) []

/-- The launch has not started. -/
def waitingState : State := dispState id (jobWith [launchOne 0 0 .waiting]) []

theorem witness_OnlyLaunchRuns : OnlyLaunch exitState ⟨0#4, 0#32, 0#16, 0⟩ (jobWith [launchOne 0 0 (.running ⟨0#5, .id, 0, 0⟩)])
    (launchOne 0 0 (.running ⟨0#5, .id, 0, 0⟩)) (aGang (.running ⟨0#5, .id, 0, 0⟩)) :=
  ⟨by decide +kernel, by decide +kernel, by decide +kernel, by decide +kernel, by decide +kernel, by decide +kernel, by decide +kernel⟩

theorem witness_OnlyLaunchWaits : OnlyLaunch waitingState ⟨0#4, 0#32, 0#16, 0⟩ (jobWith [launchOne 0 0 .waiting]) (launchOne 0 0 .waiting)
    (aGang .waiting) :=
  ⟨by decide +kernel, by decide +kernel, by decide +kernel, by decide +kernel, by decide +kernel, by decide +kernel, by decide +kernel⟩

/-- A TRIGGER of the running unit whose release has performed. -/
def triggerState : State := dispState (fun u => { u with triggers := [1] }) (jobWith [launchOne 0 0 (.running ⟨0#5, .id, 0, 0⟩)]) []

def heldRecord : CompRecord := ⟨0#32, 0#16, 0#8, 1#8, 0#8, 0#8, 0#8, 0#32, 0#64, 0⟩

def recordState (b : Byte) : State :=
  dispState id { aJob with r := { aJob.r with compRing := 0x200000#64 }, held := [heldRecord] } (if b = 0#8 then [] else [(0x200007, b)])

theorem witness_UnitsAndLaunchesComplete :
    exitState.unit.run = .exited ∧ exitState.unit.launch.gang = 0 ∧ exitState.unit.launch.nr = 1 ∧ exitState.unit.launch.nc = 1
    ∧ exitState.unit.cr.lcore = 0#4 ∧ exitState.unit.cr.cbarPend = false ∧ exitState.unit.cr.cbarPeers = 0#16 ∧ unitQuiet exitState.unit = true
    ∧ exitState.unit.accs = [] ∧ exitState.unit.triggers = [] ∧ exitState.unit.deferred = []
    ∧ jobKey exitState.unit.cr.part exitState.unit.cr.job = 0 ∧ exitState.unit.launch.graph = 0#16 ∧ exitState.unit.launch.launch = 0
    ∧ (launchOf triggerState ⟨0#4, 0#32, 0#16, 0⟩).isSome = true ∧ ownUnit triggerState ⟨0#4, 0#32, 0#16, 0⟩ triggerState.unit.cr.unit = true
    ∧ lrPaired (launchRec 1 0) = false
    ∧ (triggerState.unit.triggers.find? fun t => triggerState.unit.accs.all fun a => decide (t ≤ a.id) || a.performed) = some 1
    ∧ (∀ b ∈ [0#8, 1#8], (match mget (recordState b).jobs 0 with
      | some j => j.held == [heldRecord] && j.halt == .none
          && (match vread (recordState b) (jobWho j) 0 (j.r.compRing + w64 (32 * j.compTail.toNat) + 7) 1 with
            | (s1, .ok bs) => bs == [b] && okWith (vcheck s1 (jobWho j) 1 [(j.r.compRing + w64 (32 * j.compTail.toNat), 32)]) fun _ _ => true
            | _ => false)
      | none => false) = true) := by decide +kernel

/-- A freeze of partition 0's unit waits for its ring record; the first slot of the partition is valid. -/
def ringState : State :=
  let s := dispState id aJob []
  { s with asids := [(0, ⟨true, 0#4, 0#4, 1#40⟩)], events := [⟨0#4, 0#32, 0#32, 0#4, 2, 0#64, 0x200000#64⟩] }

theorem witness_RingRecord :
    (match mget ringState.pkg.parts 0 with
      | some d => d.part == 0#4 && (asidOf ringState (BitVec.ofNat 12 d.asidBase)).any (·.v)
      | none => false) = true
    ∧ aJob.held = [] ∧ mget ringState.jobs 0 = some aJob ∧ mget ringState.ringPos 0 = none
    ∧ (ringState.events.filter fun e => e.part == 0#4) = [⟨0#4, 0#32, 0#32, 0#4, 2, 0#64, 0x200000#64⟩] := by decide +kernel

/-! ### Witnesses: pre-emption, freeze and resume -/

/-- A request since cycle 0; a drain table that covers the program counter or none; a stall in progress or none. -/
def requestedUnit (covered : Bool) (since : Option Nat) : State := withUnit fun u => { u with
  request := some 0, launch := { UnitLaunch.none with drain := if covered then [(0#19, 0x10#19, 0x20#19)] else [] }, ctx := { u.ctx with since := since } }

/-- The area as the unit on the core has it written. -/
def anArea (kind reason : Nat) : CtxArea := { CtxArea.start plainUnit.unit with kind := kind, reason := reason }

def withArea (kind reason : Nat) (f : Machine.Unit → Machine.Unit) : State := { withUnit f with area := some (anArea kind reason) }

def overrunUnit : State := withUnit fun u => { u with cyc := Config.stubCycles, stub := some 0, cr := { u.cr with pending := true } }

theorem witness_PreemptAndFreeze :
    divertDue (requestedUnit true none) = some 0x20#19 ∧ divertDue (requestedUnit false (some 0)) = none
    ∧ (withArea 1 0 fun u => { u with run := .yielded }).unit.run = .yielded
    ∧ (withArea 1 0 fun u => { u with run := .yielded }).area = some (anArea 1 0)
    ∧ unitQuiet (withArea 1 0 fun u => { u with run := .yielded }).unit = true ∧ unitQuiet (withUnit fun u => { u with nl := 1 }).unit = false
    ∧ requested (requestedUnit false (some 0)).unit = true ∧ (requestedUnit false (some 0)).unit.ctx.since.isSome = true
    ∧ (timeoutTrap (requestedUnit false (some 0))).isNone = true
    ∧ (timeoutTrap { stalledUnit 6 with unit := { (stalledUnit 6).unit with request := some 0 } }).isSome = true
    ∧ requested plainUnit.unit = false ∧ overrunUnit.unit.run = .running ∧ overrunUnit.unit.cr.pending = true ∧ overrunUnit.unit.stub = some 0
    ∧ Config.stubCycles ≤ overrunUnit.unit.cyc - 0 ∧ plainUnit.unit.run = .running ∧ plainUnit.unit.cr.pending = false := by decide +kernel

/-- That area, its bytes written at CR.CTXBASE as they stand. -/
def writtenArea (f : Machine.Unit → Machine.Unit) : State :=
  let s := withArea 1 0 f
  { s with areaMem := some (s.unit.cr.ctxbase, liveArea s.unit (anArea 1 0)) }

theorem witness_AreaWrites :
    areaStale (withArea 1 0 fun u => { u with run := .yielded }) = true
    ∧ (writtenArea fun u => { u with run := .yielded }).area = some (anArea 1 0)
    ∧ areaStale (writtenArea fun u => { u with run := .yielded }) = false ∧ (writtenArea fun u => { u with run := .yielded }).unit.run = .yielded
    ∧ unitQuiet (writtenArea fun u => { u with run := .yielded }).unit = true
    ∧ areaStale (writtenArea fun u => { u with nl := 1 }) = false ∧ unitQuiet (writtenArea fun u => { u with nl := 1 }).unit = false := by
  decide +kernel

/-- A unit frozen by the debugger, off its core, beside the running one. -/
def asideState : State :=
  { plainUnit with aside := [⟨{ plainUnit.unit with run := .saved }, [], some (anArea 2 2), [], []⟩] }

theorem witness_ResumeAside :
    asideState.unit.run = .running ∧ asideState.aside.map (·.unit.run) = [.saved] ∧ asideState.aside.map (·.area) = [some (anArea 2 2)]
    ∧ (anArea 2 2).kind = 2 ∧ (anArea 2 2).resumed = none := by decide +kernel

/-- The saved gang of the unit's launch, its context of a kind. -/
def savedState (kind reason : Nat) : State :=
  { dispState (fun u => { u with run := .saved }) (jobWith [launchOne 0 0 .saved]) [] with area := some (anArea kind reason) }

theorem witness_Resume :
    (withArea 2 2 fun u => { u with run := .frozen .halt }).unit.run = .frozen .halt
    ∧ (withArea 2 2 fun u => { u with run := .frozen .halt }).area = some (anArea 2 2)
    ∧ (withArea 2 2 fun u => { u with run := .frozen .halt }).unit.stubpc = none
    ∧ (withArea 2 2 fun u => { u with run := .frozen .halt }).unit.cr.pending = false
    ∧ 0x100 < 524288 ∧ 0x100 % 4 = 0 ∧ ¬(0x102 < 524288 ∧ 0x102 % 4 = 0)
    ∧ (∀ kind ∈ [1, 2],
      (match gangRef (markReady (savedState kind 2)) ⟨0#4, 0#32, 0#16, 0⟩ 0 with
        | some x => x.g.st == .saved && mayPlace (markReady (savedState kind 2)) 0#4 x
            && admits (markReady (savedState kind 2)) 0#4 x.l 0 (markReady (savedState kind 2)).cores ⟨0#5, .id, 0, 0⟩
            && placedCore x.l.rec_ ⟨0#5, .id, 0, 0⟩ (savedState kind 2).unit.cr.lcore.toNat == some (0#5, 0#4)
        | none => false) = true
      ∧ ownGang (savedState kind 2) 0 0#16 0 0 = true ∧ (savedState kind 2).unit.run = .saved
      ∧ (savedState kind 2).area = some (anArea kind 2) ∧ (anArea kind 2).kind = kind ∧ (anArea kind 2).resumed = none
      ∧ (savedState kind 2).aside = [] ∧ (savedState kind 2).unit.stubpc = none) := by decide +kernel

/-! ### Witnesses: the text engines -/

def aVocab : Vocab := ⟨0#4, false, 256, [], [(5, [0x61#8])], [], [], [], [], 0⟩

def aRequest : TokReq := ⟨0#4, 0#32, 0#4, false, [0x61#8], none, ⟨0#32, 8#6⟩, ⟨0#32, 10#6⟩, 0#2⟩

def aContext : DetokCtx := ⟨0#4, 0#32, 3, 7#64, 0#4, false, false, [], 0, [], [], 0, 0, false, ⟨0#32, 9#6⟩, 0x200000#64, 0#12⟩

def aTemplate : TemplateReg :=
  ⟨0#4, 0#16, 0#32, 0#4, 0x208000#64, [launchRec 1 0], ⟨0#32, 8#6⟩, ⟨0#32, 9#6⟩, ⟨0#32, 10#6⟩, 0x200000#64, 1, 0#12⟩

/-- The image whose rings serve the template: Q8 and Q10 from the package edge, Q9 to it. -/
def textImage : Image :=
  { anImage with rings := [(8#6, 0x200000#64, 0x100000#64, false), (9#6, 0x0100000000201000#64, 1#64, false), (10#6, 0x202000#64, 0x100000#64, false)] }

/-- The unit of the job's first launch with Q8 (t8 slots in use) and Q9, which holds one slot of token 5. -/
def textState (t8 : W16) (f : TextState → TextState) (more : Memory) : State :=
  let s := dispState (fun u =>
    let u := withRing 9#6 ⟨0x0100000000201000#64, 1#64, 0#16, 1#16, 1#16, 0#1024, 0#1024, 0#1024⟩ (withRing 8#6 ⟨0x200000#64, 0x100000#64, 0#16, t8, t8, 0#1024, 0#1024, 0#1024⟩ u)
    { u with pad := { u.pad with banks := 1#16, bytes := [(0x1000, 1#8), (0x1008, 5#8)] }, launch := { UnitLaunch.none with units := 1#32 } }) aJob more
  { s with images := [(0x100, textImage)], text := f s.text }

def tokState (t8 : W16) : State := textState t8 (fun t => { t with toks := t.toks.set 0 ⟨some aRequest, [5#32], 0, false, none⟩ }) []

def queueState : State := textState 0#16 (fun t => { t with vocabs := [(0, aVocab)], queue := [aRequest] }) []

theorem witness_Tokenisers :
    (queueState.text.toks[0]).req = none ∧ nextRequests queueState = [aRequest]
    ∧ (mget queueState.text.vocabs 0 == some aVocab) = true
    ∧ ((tokState 0#16).text.toks[0]).req = some aRequest ∧ ((tokState 0#16).text.toks[0]).ended = false
    ∧ ringCore (tokState 0#16) 0#4 0#32 0#32 = some 0
    ∧ ringAt (tokState 0#16).unit.pad 8#6 = some ⟨0x200000#64, 0x100000#64, 0#16, 0#16, 0#16, 0#1024, 0#1024, 0#1024⟩
    ∧ ringAt (tokState 2#16).unit.pad 8#6 = some ⟨0x200000#64, 0x100000#64, 0#16, 2#16, 2#16, 0#1024, 0#1024, 0#1024⟩
    ∧ (⟨0x200000#64, 0x100000#64, 0#16, 0#16, 0#16, 0#1024, 0#1024, 0#1024⟩ : Ring).perm.testBit 20 = true
    ∧ (⟨0x200000#64, 1#64, 0#16, 0#16, 0#16, 0#1024, 0#1024, 0#1024⟩ : Ring).perm.testBit 20 = false
    ∧ (tokState 0#16).unit.cr.lcore.toNat = 0 ∧ (⟨0x200000#64, 0x100000#64, 0#16, 0#16, 0#16, 0#1024, 0#1024, 0#1024⟩ : Ring).reorder = false
    ∧ (shownRing plainUnit.unit 8#6 ⟨0x200000#64, 0x100000#64, 0#16, 2#16, 2#16, 0#1024, 0#1024, 0#1024⟩).room = 0
    ∧ (shownRing plainUnit.unit 8#6 ⟨0x200000#64, 0x100000#64, 0#16, 0#16, 0#16, 0#1024, 0#1024, 0#1024⟩).room ≠ 0 := by decide +kernel

/-- An image of 256 tokens without bytes at 0x210000. -/
def vocabCells : Memory :=
  [(0x210000, 0x4E#8), (0x210001, 0x56#8), (0x210002, 0x4F#8), (0x210003, 0x43#8), (0x210004, 1#8), (0x210009, 1#8), (0x210021, 8#8)]

/-- A request block of the template's, of the unit's job and flow 3. -/
def aBlock : ReqBlock := ⟨0#4, 0#16, 0, 0#32, 0#4, 3, 7#64, [launchRec 1 0]⟩

def vocabState : State := textState 0#16 id vocabCells

/-- The header of that image. -/
def aVocabHead : List Byte :=
  [0x4E#8, 0x56#8, 0x4F#8, 0x43#8, 1#8, 0#8, 0#8, 0#8, 0#8, 1#8] ++ List.replicate 23 0#8 ++ [8#8] ++ List.replicate 1342 0#8

theorem witness_Vocabularies :
    okWith (vread vocabState (regWho vocabState 0#12) 0 0x210000#64 64) (fun _ bs => bs == aVocabHead.take 64) = true
    ∧ mget vocabState.text.vocabs (0#4).toNat = none ∧ (mget queueState.text.vocabs 0).isSome = true
    ∧ (vocabHead aVocabHead).mergeoff = 0 ∧ (vocabHead aVocabHead).nmerge = 0
    ∧ (vocabHead aVocabHead).tboff = 0x800 ∧ (vocabHead aVocabHead).ntok = 256 ∧ (vocabHead aVocabHead).specoff = 0
    ∧ (vocabHead aVocabHead).nspec = 0 ∧ (vocabHead aVocabHead).pooloff = 0 ∧ (vocabHead aVocabHead).poollen = 0
    ∧ ((parseVocab 0#4 aVocabHead [] (List.replicate 2048 0#8) [] []).any fun v =>
        decide (pinnedBytes vocabState 0#4 + v.bytes ≤ pinQuota vocabState 0#4)) = true
    ∧ queueState.text.blocks = []
    ∧ (∃ b ∈ (textState 0#16 (fun t => { t with blocks := [aBlock] }) []).text.blocks, b.vocab = 0#4) := by decide +kernel

/-- A context of the unit's job, its reply open. -/
def replyState : State := textState 0#16 (fun t => { t with vocabs := [(0, aVocab)], ctxs := [aContext] }) []

def requestState : State := textState 0#16 (fun t => { t with templates := [aTemplate] }) []

/-- A request record without body. -/
def aMirot : List Byte := [0x4D#8, 0x49#8, 0x52#8, 0x51#8, 1#8, 0#8, 0#8, 0#8, 0xC8#8] ++ List.replicate 191 0#8

theorem witness_RepliesAndRequests :
    replyState.text.ctxs[0]? = some aContext ∧ aContext.ended = false ∧ ringCore replyState 0#4 0#32 0#32 = some replyState.unit.cr.lcore.toNat
    ∧ ringAt replyState.unit.pad 9#6 = some ⟨0x0100000000201000#64, 1#64, 0#16, 1#16, 1#16, 0#1024, 0#1024, 0#1024⟩
    ∧ takenFrom replyState.unit 9#6 (shownRing replyState.unit 9#6 ⟨0x0100000000201000#64, 1#64, 0#16, 1#16, 1#16, 0#1024, 0#1024, 0#1024⟩)
      < (shownRing replyState.unit 9#6 ⟨0x0100000000201000#64, 1#64, 0#16, 1#16, 1#16, 0#1024, 0#1024, 0#1024⟩).filled
    ∧ (⟨0x0100000000201000#64, 1#64, 0#16, 1#16, 1#16, 0#1024, 0#1024, 0#1024⟩ : Ring).cons = 1
    ∧ mget replyState.text.vocabs (0#4).toNat = some aVocab
    ∧ padRead replyState.unit.pad 0x1000 2 = 1 ∧ 1 ≤ ((⟨0x0100000000201000#64, 1#64, 0#16, 1#16, 1#16, 0#1024, 0#1024, 0#1024⟩ : Ring).size - 8) / 4
    ∧ ([5#32].foldl (detokStep aVocab) (aContext, [], none)).2.2 = none ∧ padRead replyState.unit.pad 0x1002 1 % 2 = 0
    ∧ requestStatus requestState 0#4 [] = 0x10 ∧ requestStatus requestState 0#4 aMirot = 0
    ∧ (requestState.text.templates.find? fun t => t.part == 0#4 && t.template.toNat == byteField aMirot 24 2) = some aTemplate
    ∧ aTemplate.graph.length ≤ 64 ∧ templateRing requestState aTemplate aTemplate.inRing (fun r => r.perm.testBit 20) = true
    ∧ templateRing requestState aTemplate aTemplate.rpRing (fun r => r.perm.testBit 20) = true
    ∧ templateRing requestState aTemplate aTemplate.outRing (fun r => r.cons == 1) = true
    ∧ requestState.text.ctxs = [] ∧ replyState.text.ctxs = [aContext] ∧ aContext.flow = 3
    ∧ mget replyState.jobs (jobKey aContext.part aContext.job) = some aJob := by decide +kernel

/-- A request block is open for the job, its flow 3. -/
def blockState : State := textState 0#16 (fun t => { t with blocks := [aBlock] }) []

theorem witness_RequestBlocks :
    okWith (vread requestState (regWho requestState aTemplate.slot) 0 aTemplate.jobRec 128) (fun _ bs => bs.length == 128) = true
    ∧ blockState.text.blocks = [aBlock] ∧ aBlock.flow = 3 ∧ mget blockState.jobs (jobKey aBlock.part aBlock.job) = some aJob
    ∧ aJob.graphs = [] ∧ aJob.done = false ∧ aJob.r.part = aBlock.part ∧ aJob.r.job = aBlock.job
    ∧ (∀ b ∈ requestState.text.blocks, ¬(b.part = 0#4 ∧ b.flow = 3)) := by decide +kernel

/-! ### Witnesses: partitions, pins and the package -/

def okPart (n : Nat) : PartDesc := { aPart n with memQ := 1000, llcQ := 100, pinQ := 64, faultLen := 64 }

/-- Partition 0 exists; frame 1 is pinned for it. -/
def ownedState : State :=
  let s := partState plainUnit
  { s with pinned := [(1, 0#4)], asids := [(3, ⟨true, 0#4, 0#4, 1#40⟩)], pkg := { s.pkg with parts := [(0, okPart 0)] } }

theorem witness_PartitionsAndPins :
    ownedState.pkg.boot = .running ∧ mget ownedState.pkg.parts (1#4).toNat = none ∧ descLimits (okPart 1) = true ∧ descFits ownedState (okPart 1) = true
    ∧ mget ownedState.pkg.parts (0#4).toNat = some (okPart 0) ∧ descLimits (aPart 1) = false ∧ descFits ownedState { okPart 1 with clusters := 1#24 } = false
    ∧ descLimits { okPart 0 with pinQ := 65 } = true ∧ descFits ownedState { okPart 0 with pinQ := 65 } = true
    ∧ descLimits { okPart 0 with clusters := 4#24 } = true ∧ descFits ownedState { okPart 0 with clusters := 4#24 } = true
    ∧ hasOpenJob ownedState 0#4 = false ∧ hasOpenJob { ownedState with jobs := [(0, aJob)] } 0#4 = true ∧ (okPart 0).clusters ≠ 4#24
    ∧ mget ownedState.pkg.resets (0#4).toNat = none ∧ encodes ownedState 0#4 = false
    ∧ framesOf 0x3000 8192 = [3, 4] ∧ 4 < Config.mainFrames ∧ mget ownedState.pinned 3 = none ∧ mget ownedState.pinned 4 = none
    ∧ pinnedBytes ownedState 0#4 + 4096 * 2 ≤ pinQuota ownedState 0#4
    ∧ (∀ h < 64, pinnedAtSlice { ownedState with pinned := [3, 4].foldl (fun m f => mset m f 0#4) ownedState.pinned } (BitVec.ofNat 6 h) ≤ 16384)
    ∧ framesOf 0x1000 1 = [1] ∧ mget ownedState.pinned 1 ≠ none := by decide +kernel

/-- A posted write to package 1, which is in the domain. -/
def domainState : State :=
  { flushUnit with pkg := { flushUnit.pkg with boot := .running, parts := [(0, okPart 0)], number := 0#5, members := 3#32 }, jobs := [(0, aJob)] }

theorem witness_PackageEvents :
    State.reset.pkg.boot = .off ∧ domainState.pkg.boot ≠ .off ∧ domainState.pkg.boot = .running
    ∧ mget domainState.pkg.parts (0#4).toNat = some (okPart 0) ∧ 600 ≤ 600 ∧ 1400 ≤ 1400 ∧ 599 < 600 ∧ 1400 < 1401
    ∧ (3#32).getLsbD (1#5).toNat = true ∧ (3#32).getLsbD (2#5).toNat = false ∧ 0#5 = domainState.pkg.number ∧ 1#5 ≠ domainState.pkg.number
    ∧ mget domainState.pkg.resets (0#4).toNat = none ∧ mcJob domainState .gddr 0#16 none = none
    ∧ mcJob domainState .scratchpad 0#16 none = some 0#32 ∧ mget domainState.jobs (jobKey 0#4 0#32) = some aJob := by decide +kernel

theorem witness_MachineChecks :
    (mcSector .gddr 0x200000#64).any ({ domainState with bad := [0x10000] } : State).bad.contains = true
    ∧ (mcSector .gddr 0x200000#64).any domainState.bad.contains = false ∧ mcJob { domainState with bad := [0x10000] } .gddr 0#16 none = none
    ∧ (mcSector .scratchpad 0#64).any domainState.bad.contains = false ∧ State.reset.pkg.boot ≠ .running
    ∧ mldsaVerify [] [] [] = false := by decide +kernel

/-! ### Single steps, and values that the spec works out -/

/-- The value and the delay of the one result that lands in a G register after the slot has issued on a unit with G5 = a and G6 = b. -/
def resultG (i : Instr) (a b : W64) : Option (W64 × Nat) :=
  match exec i (withUnit (withG [(5, a), (6, b)])) with
  | .next t => match t.unit.landing with
    | [⟨due, _, .g _ v, _⟩] => some (v, due)
    | _ => none
  | _ => none

theorem test_add_wraps : resultG (.add 7#6 5#6 6#6 0#4) 0xFFFFFFFFFFFFFFFF#64 2#64 = some (1#64, 1) := by decide +kernel

theorem test_sub_order : (resultG (.sub 7#6 5#6 6#6 0#4) 5#64 7#64).map (·.1) = some 0xFFFFFFFFFFFFFFFE#64 := by decide +kernel

theorem test_andn_order : (resultG (.andn 7#6 5#6 6#6 0#4) 0xFF#64 0x0F#64).map (·.1) = some 0xF0#64 := by decide +kernel

theorem test_sar_sign : (resultG (.sar 7#6 5#6 6#6 0#4) 0x8000000000000000#64 63#64).map (·.1) = some 0xFFFFFFFFFFFFFFFF#64 := by
  decide +kernel

/-- The table of R61. -/
theorem test_div : resultG (.div 7#6 5#6 6#6 0#4) (BitVec.ofInt 64 (-7)) 2#64 = some (BitVec.ofInt 64 (-3), 12)
    ∧ (resultG (.div 7#6 5#6 6#6 0#4) 5#64 0#64).map (·.1) = some 0xFFFFFFFFFFFFFFFF#64 := by decide +kernel

theorem test_divu : (resultG (.divu 7#6 5#6 6#6 0#4) 0xFFFFFFFFFFFFFFF9#64 2#64).map (·.1) = some 0x7FFFFFFFFFFFFFFC#64 := by
  decide +kernel

theorem test_rem : (resultG (.rem 7#6 5#6 6#6 0#4) (BitVec.ofInt 64 (-7)) 2#64).map (·.1) = some 0xFFFFFFFFFFFFFFFF#64
    ∧ (resultG (.rem 7#6 5#6 6#6 0#4) 9#64 0#64).map (·.1) = some 9#64 := by decide +kernel

theorem test_remu : (resultG (.remu 7#6 5#6 6#6 0#4) 0xFFFFFFFFFFFFFFF9#64 2#64).map (·.1) = some 1#64 := by decide +kernel

theorem test_mulh_signs : (resultG (.mulh 7#6 5#6 6#6 0#4) 0xFFFFFFFFFFFFFFFF#64 2#64).map (·.1) = some 0xFFFFFFFFFFFFFFFF#64
    ∧ (resultG (.mulhu 7#6 5#6 6#6 0#4) 0xFFFFFFFFFFFFFFFF#64 2#64).map (·.1) = some 1#64 := by decide +kernel

/-- The example of R278: the home of 0x0000_0100_0000_3180 is slice 19. -/
theorem test_home_slice : homeSlice 0x0000010000003180 = 19#6 := by decide

/-- R16, R17: the second LIMM of the bundle ADDI, LIMM, VLDL, LIMM is refused in its slot with cause 0x04. -/
theorem test_second_limm : (match frameBundle [0x05440380#32, 0x50000000#32, 0x1B28BE68#32, 0xD0000000#32] 8 with
    | .error (k, e) => k == 3 && e.cause == 0x04
    | .ok _ => false) = true := by decide +kernel

/-- The entries of R342's example under T90. -/
theorem test_physical_entries : physEntry .t90 0x0A00#16 = 0x0140#16 ∧ physEntry .t90 0x0104#16 = 0x0009#16
    ∧ physEntry .t90 0x0001#16 = 0x0002#16 := by decide +kernel

/-- The four words of R334's fault record. -/
theorem test_fault_record :
    (faultBytes ⟨0x10040002000#64, 0x10000000105001#64, 0x025#12, 3#4, 2#4, 3, false, false, 0, 0#4, 19#6, 0#8, 0#5, 7#5, 5#4, 0#2, 0#32⟩
      == leBytes 0x0000010040002000 8 ++ leBytes 0x0010000000105001 8 ++ leBytes 0x0000130000233025 8 ++ leBytes 0x1D4 8) = true := by
  decide +kernel

/-- The check value of R355. -/
theorem test_crc64 : crc64 [0x31#8, 0x32#8, 0x33#8, 0x34#8, 0x35#8, 0x36#8, 0x37#8, 0x38#8, 0x39#8] = 0x6C40DF5F0B497347#64 := by decide +kernel

/-- R99. -/
theorem test_e8m0 : e8m0 0 = some (-127) ∧ e8m0 0x7F = some 0 ∧ e8m0 0x80 = some 1 ∧ e8m0 0xFE = some 127 ∧ e8m0 0xFF = none := by decide

/-- The combine of the round that 18_route.md works by hand. -/
theorem test_combine : fma32 0x3E800000 0x40000000 (fma32 0x3F000000 0x40000000 0) = 0x3FC00000
    ∧ fma32 0x3E800000 0x40800000 0x40100000 = 0x40500000 := by decide +kernel

end
end

section
/-! SUPPORT. Memory byte by byte (R5): what an address reads after each write, numbers as little-endian bytes, and the canonical form as
the only one with its contents. -/

namespace Sys2Proof.Machine

/-! ### Runs of addresses -/

theorem upto_eq_range' (lo n : Nat) : upto lo n = List.range' lo n := by
  induction n generalizing lo with
  | zero => rfl
  | succ n ih => rw [upto, ih, List.range'_succ]

@[simp] theorem mem_upto {lo n a : Nat} : a ∈ upto lo n ↔ lo ≤ a ∧ a < lo + n := by
  rw [upto_eq_range', List.mem_range'_1]

@[simp] theorem length_upto (lo n : Nat) : (upto lo n).length = n := by
  rw [upto_eq_range', List.length_range']

theorem nodup_upto (lo n : Nat) : (upto lo n).Nodup := by
  rw [upto_eq_range']; exact List.nodup_range'

/-! ### Bytes written and read -/

theorem readByte_writeByte (m : Memory) (a c : Nat) (b : Byte) : readByte (writeByte m a b) c = if a = c then b else readByte m c := by
  unfold readByte writeByte
  by_cases hb : b = 0#8
  · simp only [hb, beq_self_eq_true, if_true, mget_mdel]
    split <;> rfl
  · simp only [beq_iff_eq, hb, if_false, mget_mset]
    split <;> rfl

/-- A run of bytes written leaves every address outside it as it was. -/
theorem readByte_writeBytes_outside (bs : List Byte) (m : Memory) (a c : Nat) (h : c < a ∨ a + bs.length ≤ c) :
    readByte (writeBytes m a bs) c = readByte m c := by
  induction bs generalizing m a with
  | nil => rfl
  | cons b bs ih =>
    rw [List.length_cons] at h
    rw [writeBytes, ih _ _ (by omega), readByte_writeByte, if_neg (by omega)]

/-- The first byte of a run stands at its lowest address: the bytes after it are written above it. -/
theorem readByte_writeBytes_cons (m : Memory) (a : Nat) (b : Byte) (bs : List Byte) : readByte (writeBytes m a (b :: bs)) a = b := by
  rw [writeBytes, readByte_writeBytes_outside _ _ _ _ (.inl (Nat.lt_succ_self a)), readByte_writeByte, if_pos rfl]

theorem readBytes_writeBytes (bs : List Byte) (m : Memory) (a : Nat) : readBytes (writeBytes m a bs) a bs.length = bs := by
  induction bs generalizing m a with
  | nil => rfl
  | cons b bs ih =>
    rw [List.length_cons, readBytes, readByte_writeBytes_cons, writeBytes, ih]

theorem readByte_writeBytes_inside (bs : List Byte) (m : Memory) (a k : Nat) (h : k < bs.length) :
    readByte (writeBytes m a bs) (a + k) = bs[k] := by
  induction bs generalizing m a k with
  | nil => exact absurd h (Nat.not_lt_zero k)
  | cons b bs ih =>
    cases k with
    | zero => exact readByte_writeBytes_cons m a b bs
    | succ k =>
      rw [writeBytes, show a + (k + 1) = a + 1 + k by omega, ih _ _ _ (by simpa using h), List.getElem_cons_succ]

/-! ### Numbers as bytes (R5) -/

@[simp] theorem length_leBytes (v n : Nat) : (leBytes v n).length = n := by
  induction n generalizing v with
  | zero => rfl
  | succ n ih => rw [leBytes, List.length_cons, ih]

theorem getElem_leBytes (v n k : Nat) (h : k < (leBytes v n).length) : (leBytes v n)[k] = BitVec.ofNat 8 (v / 256 ^ k) := by
  induction n generalizing v k with
  | zero => simp [leBytes] at h
  | succ n ih =>
    cases k with
    | zero => simp [leBytes]
    | succ k => simp only [leBytes, List.getElem_cons_succ, ih, Nat.div_div_eq_div_mul, Nat.pow_succ']

theorem leNat_leBytes (v n : Nat) : leNat (leBytes v n) = v % 256 ^ n := by
  induction n generalizing v with
  | zero => simp [leBytes, leNat, Nat.mod_one]
  | succ n ih =>
    have hb : (BitVec.ofNat 8 v).toNat = v % 256 := BitVec.toNat_ofNat v 8
    rw [leBytes, leNat, ih, hb, Nat.pow_succ', Nat.mod_mul]

theorem readNat_writeNat (m : Memory) (a n v : Nat) : readNat (writeNat m a n v) a n = v % 256 ^ n := by
  have h := readBytes_writeBytes (leBytes v n) m a
  rw [length_leBytes] at h
  rw [readNat, writeNat, h, leNat_leBytes]

theorem readByte_writeNat (m : Memory) (a n v k : Nat) (h : k < n) :
    readByte (writeNat m a n v) (a + k) = BitVec.ofNat 8 (v / 256 ^ k) := by
  rw [writeNat, readByte_writeBytes_inside _ _ _ _ (by rwa [length_leBytes]), getElem_leBytes]

/-! ### The canonical form has one memory for each contents -/

theorem mget_eq_some_iff {α : Type} {m : List (Nat × α)} (h : mwf m = true) (k : Nat) (v : α) : mget m k = some v ↔ (k, v) ∈ m := by
  rw [mwf_iff] at h
  induction m with
  | nil => simp
  | cons e m ih =>
    obtain ⟨a, w⟩ := e
    obtain ⟨hlt, hm⟩ := List.pairwise_cons.1 h
    rw [mget_cons, List.mem_cons]
    by_cases hk : a = k
    · subst hk
      have hnot : (a, v) ∉ m := fun hin => Nat.lt_irrefl a (hlt _ hin)
      simp [hnot, eq_comm]
    · simp [hk, Ne.symm hk, ih hm]

/-- Two maps in canonical form that hold the same at every key are the same data. -/
theorem eq_of_mget_eq {α : Type} {m k : List (Nat × α)} (hm : mwf m = true) (hk : mwf k = true) (h : ∀ a, mget m a = mget k a) :
    m = k := by
  have hmem : ∀ e, e ∈ m ↔ e ∈ k := fun e => by
    rw [← mget_eq_some_iff hm e.1 e.2, ← mget_eq_some_iff hk e.1 e.2, h]
  have hm' := (mwf_iff m).1 hm
  have hk' := (mwf_iff k).1 hk
  have nodup : ∀ l : List (Nat × α), l.Pairwise (fun a b => a.1 < b.1) → l.Nodup :=
    fun _ hl => hl.imp fun hab => ne_of_apply_ne Prod.fst hab.ne
  exact ((List.perm_ext_iff_of_nodup (nodup m hm') (nodup k hk')).2 hmem).eq_of_pairwise
    (fun _ _ _ _ hab hba => absurd hba hab.asymm) hm' hk'

/-- A memory in canonical form lists exactly its bytes other than 0x00. -/
theorem mget_eq_readByte {m : Memory} (h : Memory.wf m = true) (a : Nat) :
    mget m a = if readByte m a = 0#8 then none else some (readByte m a) := by
  obtain ⟨hw, hne⟩ := (wf_iff m).1 h
  unfold readByte
  cases hg : mget m a with
  | none => rfl
  | some b =>
    have hb : b ≠ 0#8 := hne _ ((mget_eq_some_iff hw a b).1 hg)
    simp [hb]

theorem eq_of_readByte_eq {m k : Memory} (hm : Memory.wf m = true) (hk : Memory.wf k = true) (h : ∀ a, readByte m a = readByte k a) :
    m = k :=
  eq_of_mget_eq ((wf_iff m).1 hm).1 ((wf_iff k).1 hk).1 fun a => by rw [mget_eq_readByte hm, mget_eq_readByte hk, h]

/-- Settles O5: a run of bytes by induction on the run, the bytes of a number by induction on their count, and the canonical form because it
lists exactly the bytes other than 0x00, in order. -/
theorem memoryReadsAfterWrites : Obligations.MemoryReadsAfterWrites :=
  ⟨fun m a bs => ⟨readBytes_writeBytes bs m a, fun c hc => readByte_writeBytes_outside bs m a c hc⟩,
    fun m a n v => ⟨readNat_writeNat m a n v, fun k hk => readByte_writeNat m a n v k hk⟩,
    fun _ _ hm hk h => eq_of_readByte_eq hm hk h⟩

end Sys2Proof.Machine
end

section
/-! SUPPORT. Memory as its home holds it (R269, R279, R280): what an address reads after bytes have been placed in the LLC, and after a write
ordered at its home. -/

namespace Sys2Proof.Machine

/-! ### A byte of a word of any width -/

/-- A bit of byte j of a word. -/
theorem getLsbD_byteAt {w : Nat} (x : BitVec w) (j k : Nat) :
    (BitVec.ofNat 8 (x.toNat / 2 ^ (8 * j))).getLsbD k = (decide (k < 8) && x.getLsbD (8 * j + k)) := by
  rw [BitVec.getLsbD_ofNat, Nat.testBit_div_two_pow, BitVec.testBit_toNat, Nat.add_comm]

/-- A bit of a word with byte i replaced by b. -/
theorem getLsbD_replaceByte {w : Nat} (x : BitVec w) (i n : Nat) (b : Byte) (hn : n < w) :
    ((x &&& ~~~BitVec.ofNat w (255 * 2 ^ (8 * i))) ||| BitVec.ofNat w (b.toNat * 2 ^ (8 * i))).getLsbD n
      = if 8 * i ≤ n ∧ n < 8 * i + 8 then b.getLsbD (n - 8 * i) else x.getLsbD n := by
  have mask : (255 : Nat).testBit (n - 8 * i) = decide (n - 8 * i < 8) := Nat.testBit_two_pow_sub_one 8 _
  rw [BitVec.getLsbD_or, BitVec.getLsbD_and, BitVec.getLsbD_not, BitVec.getLsbD_ofNat, BitVec.getLsbD_ofNat,
    Nat.testBit_mul_two_pow, Nat.testBit_mul_two_pow, mask, BitVec.testBit_toNat]
  by_cases hlo : 8 * i ≤ n
  · by_cases hhi : n < 8 * i + 8
    · simp [hn, hlo, hhi, show n - 8 * i < 8 by omega]
    · simp [hn, hlo, hhi, show ¬ n - 8 * i < 8 by omega, BitVec.getLsbD_of_ge b (n - 8 * i) (by omega)]
  · simp [hn, hlo]

/-- A word with byte i replaced reads b there, and every other byte as before. -/
theorem byteAt_replaceByte {w : Nat} (x : BitVec w) (i j : Nat) (b : Byte) (hj : 8 * j + 8 ≤ w) :
    BitVec.ofNat 8
        (((x &&& ~~~BitVec.ofNat w (255 * 2 ^ (8 * i))) ||| BitVec.ofNat w (b.toNat * 2 ^ (8 * i))).toNat / 2 ^ (8 * j))
      = if j = i then b else BitVec.ofNat 8 (x.toNat / 2 ^ (8 * j)) := by
  refine BitVec.eq_of_getLsbD_eq fun k hk => ?_
  rw [getLsbD_byteAt, getLsbD_replaceByte _ _ _ _ (by omega)]
  by_cases hji : j = i
  · subst hji
    simp [hk]
  · rw [if_neg (by omega), if_neg hji, getLsbD_byteAt]

/-! ### A byte placed in the LLC (R279) -/

theorem put_valid (sec : Sector) (i j : Nat) (b : Byte) (d : Bool) (hj : j < 32) :
    (sec.put i b d).valid.getLsbD j = (sec.valid.getLsbD j || decide (j = i)) := by
  rw [Sector.put, BitVec.getLsbD_or, BitVec.getLsbD_ofNat, Nat.testBit_two_pow]
  simp [hj, eq_comm]

theorem put_byte (sec : Sector) (i j : Nat) (b : Byte) (d : Bool) (hj : j < 32) :
    BitVec.ofNat 8 ((sec.put i b d).data.toNat / 2 ^ (8 * j)) = if j = i then b else BitVec.ofNat 8 (sec.data.toNat / 2 ^ (8 * j)) :=
  byteAt_replaceByte sec.data i j b (by omega)

/-- The sector of an address, or the one that slice h would allocate for it. -/
def sectorAt (h : BitVec 6) (llc : SMap Sector) (a : Nat) : Sector := (mget llc (a / 32)).getD (.start h)

theorem sectorAt_llcPut (h : BitVec 6) (llc : SMap Sector) (a q : Nat) (b : Byte) (d : Bool) :
    sectorAt h (llcPut h llc a b d) q = if a / 32 = q / 32 then (sectorAt h llc q).put (a % 32) b d else sectorAt h llc q := by
  unfold sectorAt llcPut
  rw [mget_mset]
  split
  · next hsec => rw [hsec, Option.getD_some]
  · rfl

/-- The byte the LLC holds at an address, an absent sector being one without a valid byte. -/
theorem llcByte_eq (s : State) (h : BitVec 6) (q : Nat) :
    llcByte s q = if (sectorAt h s.llc q).valid.getLsbD (q % 32)
      then some (BitVec.ofNat 8 ((sectorAt h s.llc q).data.toNat / 2 ^ (8 * (q % 32))))
      else if isPinned s q then some 0#8 else none := by
  unfold llcByte sectorAt
  cases mget s.llc (q / 32) with
  | none => simp [Sector.start]
  | some sec => rfl

/-- A byte written into the LLC is the byte it holds there, and every other address reads as before. -/
theorem llcByte_llcPut (s : State) (h : BitVec 6) (a q : Nat) (b : Byte) (d : Bool) :
    llcByte { s with llc := llcPut h s.llc a b d } q = if q = a then some b else llcByte s q := by
  have hq : q % 32 < 32 := Nat.mod_lt _ (by omega)
  rw [llcByte_eq _ h, llcByte_eq s h, sectorAt_llcPut]
  by_cases hsec : a / 32 = q / 32
  · rw [if_pos hsec, put_valid _ _ _ _ _ hq, put_byte _ _ _ _ _ hq]
    have hoff : q % 32 = a % 32 ↔ q = a := by omega
    by_cases hqa : q = a
    · rw [if_pos hqa, if_pos (hoff.2 hqa), decide_eq_true (hoff.2 hqa), Bool.or_true, if_pos rfl]
    · rw [if_neg hqa, if_neg (mt hoff.1 hqa), decide_eq_false (mt hoff.1 hqa), Bool.or_false]; rfl
  · have hqa : q ≠ a := fun e => hsec (e ▸ rfl)
    rw [if_neg hsec, if_neg hqa]; rfl

/-- The LLC with bytes written at their addresses, one after the other, at slice h. -/
def llcPuts (h : BitVec 6) (llc : SMap Sector) (pas : List (Nat × Byte)) : SMap Sector :=
  pas.foldl (fun llc (a, b) => llcPut h llc a b true) llc

theorem llcByte_llcPuts_outside (h : BitVec 6) (pas : List (Nat × Byte)) (s : State) (q : Nat) (hq : q ∉ pas.map (·.1)) :
    llcByte { s with llc := llcPuts h s.llc pas } q = llcByte s q := by
  induction pas generalizing s with
  | nil => rfl
  | cons e pas ih =>
    obtain ⟨a, b⟩ := e
    simp only [List.map_cons, List.mem_cons, not_or] at hq
    calc llcByte { s with llc := llcPuts h s.llc ((a, b) :: pas) } q
        = llcByte { s with llc := llcPut h s.llc a b true } q := ih { s with llc := llcPut h s.llc a b true } hq.2
      _ = llcByte s q := by rw [llcByte_llcPut, if_neg hq.1]

/-- Where no address is written twice, each reads the byte written. -/
theorem llcByte_llcPuts_mem (h : BitVec 6) (pas : List (Nat × Byte)) (s : State) (hn : (pas.map (·.1)).Nodup) (e : Nat × Byte)
    (he : e ∈ pas) : llcByte { s with llc := llcPuts h s.llc pas } e.1 = some e.2 := by
  induction pas generalizing s with
  | nil => cases he
  | cons d pas ih =>
    obtain ⟨hd, hn⟩ := List.nodup_cons.1 hn
    rcases List.mem_cons.1 he with rfl | he
    · calc llcByte { s with llc := llcPuts h s.llc (e :: pas) } e.1
          = llcByte { s with llc := llcPut h s.llc e.1 e.2 true } e.1 :=
            llcByte_llcPuts_outside h pas { s with llc := llcPut h s.llc e.1 e.2 true } e.1 hd
        _ = some e.2 := by rw [llcByte_llcPut, if_pos rfl]
    · exact ih { s with llc := llcPut h s.llc d.1 d.2 true } hn he

/-! ### A write ordered at its home (R268, R269, R279) -/

/-- The end of merge groups touches only the groups and the statistics. -/
theorem splitGroups_rest (s : State) (h : BitVec 6) (line : Nat) :
    splitGroups s h line = { s with groups := (splitGroups s h line).groups, stats := (splitGroups s h line).stats } := by
  unfold splitGroups
  split <;> rfl

/-- A state after the bytes have been written at slice h, and before room is made for their line. -/
def placed (s : State) (h : BitVec 6) (line : Nat) (pas : List (Nat × Byte)) : State :=
  { splitGroups s h line with llc := llcPuts h s.llc pas, stamp := s.stamp + 1 }

theorem placed_unit (s : State) (h : BitVec 6) (line : Nat) (pas : List (Nat × Byte)) : (placed s h line pas).unit = s.unit := by
  rw [placed, splitGroups_rest]

theorem placed_eq (s : State) (h : BitVec 6) (line : Nat) (pas : List (Nat × Byte)) :
    placed s h line pas = { splitGroups s h line with llc := (placed s h line pas).llc, stamp := s.stamp + 1 } := rfl

theorem homeWrite_cons (s : State) (h : BitVec 6) (e : Nat × Byte) (pas : List (Nat × Byte)) :
    homeWrite s h (e :: pas) = makeRoom (placed s h (e.1 / 128) (e :: pas)) h (e.1 / 4096) := by
  have hs := splitGroups_rest s h (e.1 / 128)
  have hl : (splitGroups s h (e.1 / 128)).llc = s.llc := by rw [hs]
  have ht : (splitGroups s h (e.1 / 128)).stamp = s.stamp := by rw [hs]
  simp only [homeWrite, placed, llcPuts, hl, ht]

theorem llcByte_placed (s : State) (h : BitVec 6) (line : Nat) (pas : List (Nat × Byte)) (q : Nat) :
    llcByte (placed s h line pas) q = llcByte { s with llc := llcPuts h s.llc pas } q := by
  rw [placed, splitGroups_rest]; rfl

theorem dramByte_placed (s : State) (h : BitVec 6) (line : Nat) (pas : List (Nat × Byte)) (key q : Nat) :
    dramByte (placed s h line pas) key q = dramByte s key q := by
  rw [placed, splitGroups_rest]; rfl

/-- Every byte written reads so at its home, under every key. -/
theorem memByte_placed_mem (s : State) (h : BitVec 6) (line : Nat) (pas : List (Nat × Byte)) (hn : (pas.map (·.1)).Nodup)
    (e : Nat × Byte) (he : e ∈ pas) (key : Nat) : memByte (placed s h line pas) key e.1 = e.2 := by
  rw [memByte, llcByte_placed, llcByte_llcPuts_mem h pas s hn e he, Option.getD_some]

/-- Every other byte reads as before. -/
theorem memByte_placed_outside (s : State) (h : BitVec 6) (line : Nat) (pas : List (Nat × Byte)) (q key : Nat)
    (hq : q ∉ pas.map (·.1)) : memByte (placed s h line pas) key q = memByte s key q := by
  rw [memByte, llcByte_placed, llcByte_llcPuts_outside h pas s q hq, dramByte_placed, memByte]

/-! ### A run of bytes written at its home -/

/-- The addresses of a run of bytes. -/
theorem map_fst_run {pa n : Nat} {bs : List Byte} (hn : bs.length = n) : ((upto pa n).zip bs).map (·.1) = upto pa n :=
  List.map_fst_zip (by rw [length_upto, hn])

theorem homeWrite_run (s : State) (h : BitVec 6) (pa : Nat) {n : Nat} {bs : List Byte} (hn : bs.length = n) (hpos : 0 < n) :
    homeWrite s h ((upto pa n).zip bs) = makeRoom (placed s h (pa / 128) ((upto pa n).zip bs)) h (pa / 4096) := by
  subst hn
  cases bs with
  | nil => exact absurd hpos (Nat.lt_irrefl 0)
  | cons b bs => exact homeWrite_cons s h (pa, b) _

/-- What the run then reads is what was written. -/
theorem memBytes_placed_run (s : State) (h : BitVec 6) (line key pa : Nat) {n : Nat} {bs : List Byte} (hn : bs.length = n) :
    memBytes (placed s h line ((upto pa n).zip bs)) key pa n = bs := by
  let run := (upto pa n).zip bs
  have hnd : (run.map (·.1)).Nodup := (map_fst_run hn).symm ▸ nodup_upto pa n
  calc memBytes (placed s h line run) key pa n
      = (run.map (·.1)).map fun q => memByte (placed s h line run) key q := by rw [map_fst_run hn]; rfl
    _ = run.map fun e => memByte (placed s h line run) key e.1 := List.map_map
    _ = run.map (·.2) := List.map_congr_left fun e he => memByte_placed_mem s h line run hnd e he key
    _ = bs := List.map_snd_zip (by rw [length_upto, hn])

theorem memByte_placed_run_outside (s : State) (h : BitVec 6) (line key pa q : Nat) {n : Nat} {bs : List Byte} (hn : bs.length = n)
    (hq : q < pa ∨ pa + n ≤ q) : memByte (placed s h line ((upto pa n).zip bs)) key q = memByte s key q := by
  refine memByte_placed_outside s h line _ q key ?_
  rw [map_fst_run hn, mem_upto]
  omega

end Sys2Proof.Machine
end

section
/-! SUPPORT. The unit's accesses at their homes (R267 to R292, R323): what the end of a part's stage leaves alone, what an access that is ready
does, and where it goes once it is translated. -/

namespace Sys2Proof.Machine

/-! ### What the access path alone changes -/

/-- t differs from s only in the unit, whose G registers are the same. -/
structure UnitOnly (s t : State) : Prop where
  rest : t = { s with unit := t.unit }
  g    : t.unit.g = s.unit.g

theorem UnitOnly.refl (s : State) : UnitOnly s s := ⟨rfl, rfl⟩

theorem UnitOnly.trans {a b c : State} (h : UnitOnly a b) (k : UnitOnly b c) : UnitOnly a c :=
  ⟨by rw [k.rest, h.rest], k.g.trans h.g⟩

theorem UnitOnly.mapUnit (s : State) (f : Unit → Unit) (hf : (f s.unit).g = s.unit.g) : UnitOnly s (s.mapUnit f) := ⟨rfl, hf⟩

theorem UnitOnly.dram {s t : State} (h : UnitOnly s t) : t.dram = s.dram := by rw [h.rest]
theorem UnitOnly.llc {s t : State} (h : UnitOnly s t) : t.llc = s.llc := by rw [h.rest]
theorem UnitOnly.packets {s t : State} (h : UnitOnly s t) : t.packets = s.packets := by rw [h.rest]
theorem UnitOnly.reds {s t : State} (h : UnitOnly s t) : t.reds = s.reds := by rw [h.rest]
theorem UnitOnly.parks {s t : State} (h : UnitOnly s t) : t.parks = s.parks := by rw [h.rest]

theorem pruneFences_unitOnly (s : State) : UnitOnly s (pruneFences s) := ⟨rfl, rfl⟩

theorem setPart_unitOnly (s : State) (id i : Nat) (f : Part → Part) : UnitOnly s (setPart s id i f) := by
  unfold setPart
  split
  · exact (UnitOnly.mapUnit s _ rfl).trans (pruneFences_unitOnly _)
  · exact .refl s

theorem setStage_unitOnly (s : State) (id i : Nat) (st : PartStage) : UnitOnly s (setStage s id i st) := setPart_unitOnly s id i _

theorem partRead_unitOnly (s : State) (id i : Nat) (f : Nat → Byte) : UnitOnly s (partRead s id i f) := setPart_unitOnly s id i _

theorem l1Drop_unitOnly (s : State) (va : Nat) : UnitOnly s (s.mapUnit fun u => l1Drop u va) := .mapUnit s _ rfl

/-- Writes that the L1 takes change no G register. -/
theorem l1Writes_unitOnly (s : State) (va : W64) (bs : List (Nat × Byte)) :
    UnitOnly s (s.mapUnit fun u => bs.foldl (fun u e => l1Write u u.cr.asidSlot u.cr.asidGen (va + w64 e.1).toNat [e.2]) u) := by
  refine .mapUnit s _ ?_
  generalize s.unit = u
  induction bs generalizing u with
  | nil => rfl
  | cons e bs ih => exact ih _

/-! ### An access that is ready, at its home -/

/-- A part that is ready is of the access named. -/
theorem readyPart_id {s : State} {acc i : Nat} {a : Access} {p : Part} (h : readyPart s acc i = some (a, p)) : a.id = acc := by
  unfold readyPart accAt at h
  split at h
  · cases h
  · next b hb =>
    have hid : b.id = acc := by simpa using List.find?_some hb
    split at h
    · split at h
      · cases h; exact hid
      · cases h
    · cases h

theorem exec_sliceReadRequest (who : Requester) (part : Nat) (s : State) :
    exec (.sliceReadRequest who part) s = execSliceReadRequest who part s := rfl

theorem exec_sliceReadRequest_unit {s : State} {acc i : Nat} {a : Access} {p : Part} (h : readyPart s acc i = some (a, p))
    (hk : a.kind.isRead = true) : exec (.sliceReadRequest (.unit acc) i) s = .next (readAtSlice s a i p) := by
  simp only [exec_sliceReadRequest, execSliceReadRequest, h, hk, if_true]

theorem exec_sliceWriteRequest (who : Requester) (part : Nat) (s : State) :
    exec (.sliceWriteRequest who part) s = execSliceWriteRequest who part s := rfl

theorem exec_sliceWriteRequest_store {s : State} {acc i : Nat} {a : Access} {p : Part} (h : readyPart s acc i = some (a, p))
    (hk : a.kind = .store) : exec (.sliceWriteRequest (.unit acc) i) s = .next (writeAtSlice s a i p) := by
  simp only [exec_sliceWriteRequest, execSliceWriteRequest, h, hk]

theorem exec_sliceAtomic (who : Requester) (s : State) :
    exec (.sliceAtomic who) s = execSliceAtomic who s := rfl

theorem exec_sliceAtomic_unit {s : State} {acc : Nat} {a : Access} {p : Part} {op : AtomOp} {ty : AtomTy} {d : BitVec 6}
    {v e : BitVec 128} (h : readyPart s acc 0 = some (a, p)) (hk : a.kind = .atom op ty d v e) :
    exec (.sliceAtomic (.unit acc)) s = .next (atomAtSlice s a p op ty v e) := by
  simp only [exec_sliceAtomic, execSliceAtomic, h, hk]

theorem exec_redContribution (who : Requester) (s : State) :
    exec (.redContribution who) s = execRedContribution who s := rfl

theorem exec_redContribution_unit {s : State} {acc : Nat} {a : Access} {p : Part} {ty : BitVec 2} {nm1 rank : BitVec 12} {v : W64}
    (h : readyPart s acc 0 = some (a, p)) (hk : a.kind = .red ty nm1 rank v) :
    exec (.redContribution (.unit acc)) s = .next (redAtSlice s a ⟨ty, nm1, rank, v⟩) := by
  simp only [exec_redContribution, execRedContribution, h, hk]

/-- A read asks for the right to read (R316). -/
theorem right_of_isRead {k : AccKind} (h : k.isRead = true) : k.right = 0 := by
  cases k with
  | load => rfl
  | vload => rfl
  | _ => cases h

/-! ### Reads (R268, R292) -/

section Reads
variable {s s' : State} {a : Access} {i pa key : Nat} {p : Part}

theorem readAtSlice_pinned (hl : locate s (unitWho s.unit a.cls 0#2) (partVa a p) 0 true = (s', .ok (.mem pa key false)))
    (hp : isPinned s' pa = true) : readAtSlice s a i p = setStage s' a.id i (.atPin pa) := by
  simp only [readAtSlice, hl, hp, if_true]

theorem readAtSlice_mem (hl : locate s (unitWho s.unit a.cls 0#2) (partVa a p) 0 true = (s', .ok (.mem pa key false)))
    (hp : isPinned s' pa = false) :
    readAtSlice s a i p = orderRead s' (homeSlice (partVa a p).toNat) a i p pa key := by
  simp only [readAtSlice, hl, hp, Bool.false_eq_true, if_false]

theorem readAtSlice_stop {x : XStop} (hl : locate s (unitWho s.unit a.cls 0#2) (partVa a p) 0 true = (s', .error x)) :
    readAtSlice s a i p = stopPart s' a i (partVa a p) x := by
  simp only [readAtSlice, hl]

end Reads

/-- A read of failing bytes is aborted, and its job is to be cancelled (R489). -/
theorem orderRead_bad {s : State} {h : BitVec 6} {a : Access} {i pa key x : Nat} {p : Part}
    (hb : badSector s pa p.bytes.length = some x) :
    orderRead s h a i p pa key = setStage (meetBad s x) a.id i (.aborted (Config.abortCode s.freeCtr)) := by
  simp only [orderRead, hb]

/-- Statistics are no part of memory. -/
theorem memBytes_addStats (s : State) (h : BitVec 6) (f : SliceStats → SliceStats) (key pa n : Nat) :
    memBytes (addStats s h f) key pa n = memBytes s key pa n := rfl

/-- A line read whose bytes are valid and of whose line no fill is pending sends one packet, with the bytes of its line (R292). -/
theorem lineRead_hit {s : State} {h : BitVec 6} {key line : Nat} {pas : List Nat} {members : List (Nat × Nat)} {puts : List LadlePut}
    (hm : missing s pas = 0#4) (hg : ∀ g ∈ s.groups, g.queued = true ∨ g.line ≠ line) :
    lineRead s h key line pas members puts =
      (sendPacket (addStats s h fun t => { t with hits := t.hits + 1 }) h
        ⟨h, line, memBytes s key (128 * line) 128, members, puts⟩, true) := by
  have hnone : s.groups.filter (fun g => !g.queued && g.line == line) = [] := by
    rw [List.filter_eq_nil_iff]
    intro g hin
    rcases hg g hin with hq | hq <;> simp [hq]
  simp only [lineRead, hm, hnone, List.isEmpty_nil, if_true, beq_self_eq_true, memBytes_addStats]

theorem orderRead_hit {s : State} {h : BitVec 6} {a : Access} {i pa key : Nat} {p : Part}
    (hb : badSector s pa p.bytes.length = none) (hm : missing s ((partPas p pa).map (·.1)) = 0#4)
    (hg : ∀ g ∈ s.groups, g.queued = true ∨ g.line ≠ pa / 128) :
    ∃ b, UnitOnly b (orderRead s h a i p pa key) ∧ b.dram = s.dram ∧ b.llc = s.llc ∧ b.unit.g = s.unit.g
      ∧ b.packets = s.packets ++ [(s.nextPkt, ⟨h, pa / 128, memBytes s key (pa / 128 * 128) 128, [(a.id, i)], []⟩)] := by
  simp only [orderRead, hb]
  rw [lineRead_hit (s := s.mapUnit _) hm hg]
  exact ⟨_, setStage_unitOnly _ _ _ _, rfl, rfl, rfl, by rw [Nat.mul_comm (pa / 128)]; rfl⟩

/-- A fault record changes neither memory, nor the unit, nor what is parked. -/
theorem writeFault_keeps (s : State) (part : BitVec 4) (r : FaultRecord) :
    (writeFault s part r).dram = s.dram ∧ (writeFault s part r).llc = s.llc ∧ (writeFault s part r).unit = s.unit
      ∧ (writeFault s part r).parks = s.parks := by
  unfold writeFault
  split <;> exact ⟨rfl, rfl, rfl, rfl⟩

/-- A read that faults where its slice has a free park entry is parked there (R323). -/
theorem stopPart_parked {s : State} {a : Access} {i level k : Nat} {va e : W64} {c : BitVec 4} (hk : freePark s (homeSlice va.toNat) = some k)
    (hn : heldBeside s a va = none) :
    ∃ b, UnitOnly b (stopPart s a i va (.fault c level e)) ∧ b.dram = s.dram ∧ b.llc = s.llc ∧ b.unit = s.unit
      ∧ b.parks = s.parks ++ [⟨homeSlice va.toNat, BitVec.ofNat 6 k, .access a.id i, va, slotPart s s.unit.cr.asidSlot, c,
        s.unit.cr.asidSlot, s.unit.cr.asidGen, a.kind.right⟩] := by
  simp only [stopPart, hn, hold, hk]
  exact ⟨_, setStage_unitOnly _ _ _ _, writeFault_keeps _ _ _⟩

/-! ### Writes (R269, R279) -/

theorem writeAtSlice_mem {s s' : State} {a : Access} {i pa key : Nat} {p : Part}
    (hl : locate s (unitWho s.unit a.cls 0#2) (partVa a p) 1 true = (s', .ok (.mem pa key false))) (hp : isPinned s' pa = false) :
    writeAtSlice s a i p = orderWrite s' (homeSlice (partVa a p).toNat) a i p pa := by
  simp only [writeAtSlice, hl, hp, Bool.false_eq_true, if_false]

/-- The first byte of a part stands at the address to which the part translates. -/
theorem partPas_cons {p : Part} (pa : Nat) (hp : p.bytes ≠ []) : ∃ e rest, partPas p pa = e :: rest ∧ e.1 = pa := by
  unfold partPas
  cases hb : p.bytes with
  | nil => exact absurd hb hp
  | cons e rest => exact ⟨_, _, rfl, by simp [nth]⟩

/-- A write places its bytes at their home and then makes room for their line; besides, it changes only the unit. -/
theorem orderWrite_placed {s : State} {h : BitVec 6} {a : Access} {i pa : Nat} {p : Part} (hp : p.bytes ≠ []) :
    UnitOnly (makeRoom (placed s h (pa / 128) (partPas p pa)) h (pa / 4096)) (orderWrite s h a i p pa) := by
  obtain ⟨e, rest, hcons, he⟩ := partPas_cons pa hp
  have hw : homeWrite s h (partPas p pa) = makeRoom (placed s h (pa / 128) (partPas p pa)) h (pa / 4096) := by
    rw [hcons, homeWrite_cons, he]
  rw [orderWrite, hw]
  exact (l1Writes_unitOnly _ _ _).trans (setStage_unitOnly _ _ _ _)

/-! ### Atomics (R267, R284) -/

theorem atomAtSlice_mem {s s' : State} {a : Access} {pa key : Nat} {p : Part} {op : AtomOp} {ty : AtomTy} {v e : BitVec 128}
    (hl : locate s (unitWho s.unit a.cls 0#2) a.va 2 true = (s', .ok (.mem pa key false))) (hp : isPinned s' pa = false) :
    atomAtSlice s a p op ty v e = orderAtom s' (homeSlice a.va.toNat) a p pa key op ty v e := by
  simp only [atomAtSlice, hl, hp, Bool.false_eq_true, if_false]

theorem atomTy_bytes_pos (ty : AtomTy) : 0 < ty.bytes := by cases ty <;> decide

/-- An atomic does to memory what atomAt does; besides, it changes only the unit. -/
theorem orderAtom_good {s : State} {h : BitVec 6} {a : Access} {pa key : Nat} {p : Part} {op : AtomOp} {ty : AtomTy} {v e : BitVec 128}
    (hb : badSector s pa ty.bytes = none) :
    UnitOnly (atomAt s h key pa op ty v e).1 (orderAtom s h a p pa key op ty v e) := by
  simp only [orderAtom, hb]
  exact (l1Drop_unitOnly _ _).trans (partRead_unitOnly _ _ _ _)

theorem atomAt_none {s : State} {h : BitVec 6} {pa key : Nat} {op : AtomOp} {ty : AtomTy} {v e : BitVec 128}
    (hx : atomNew op ty (leNat (wholeRead s h key (pa / 128) (upto pa ty.bytes) []).2) v.toNat e.toNat = none) :
    (atomAt s h key pa op ty v e).1 = (wholeRead s h key (pa / 128) (upto pa ty.bytes) []).1 := by
  simp only [atomAt, hx]

theorem atomAt_some {s : State} {h : BitVec 6} {pa key x : Nat} {op : AtomOp} {ty : AtomTy} {v e : BitVec 128}
    (hx : atomNew op ty (leNat (wholeRead s h key (pa / 128) (upto pa ty.bytes) []).2) v.toNat e.toNat = some x) :
    (atomAt s h key pa op ty v e).1 = makeRoom (placed (wholeRead s h key (pa / 128) (upto pa ty.bytes) []).1 h (pa / 128)
      ((upto pa ty.bytes).zip (leBytes x ty.bytes))) h (pa / 4096) := by
  simp only [atomAt, hx]
  exact homeWrite_run _ h pa (length_leBytes x ty.bytes) (atomTy_bytes_pos ty)

theorem wholeRead_bytes (s : State) (h : BitVec 6) (key line pa n : Nat) (by_ : List (Nat × Nat)) :
    (wholeRead s h key line (upto pa n) by_).2 = memBytes s key pa n := by
  unfold wholeRead
  dsimp only
  split <;> rfl

/-! ### Contributions (R287) -/

theorem redAtSlice_mem {s s' : State} {a : Access} {pa key : Nat} {c : RedPart}
    (hl : locate s (unitWho s.unit a.cls 0#2) a.va 2 true = (s', .ok (.mem pa key false))) (hp : isPinned s' pa = false) :
    redAtSlice s a c = redPlace s' (homeSlice a.va.toNat) (.unit a.id) s'.unit.cr.asidSlot s'.unit.cr.asidGen a.va pa c := by
  simp only [redAtSlice, hl, hp, Bool.false_eq_true, if_false]

/-- The first of several contributions to an address opens its group. -/
theorem redPlace_opens {s : State} {h : BitVec 6} {acc pa : Nat} {slot : BitVec 12} {gen : BitVec 4} {va : W64} {c : RedPart}
    (hn : c.nm1 ≠ 0#12) (hg : ∀ g ∈ s.reds, g.va ≠ va) (hr : redRoom s h c.nm1 = true) :
    redPlace s h (.unit acc) slot gen va pa c
      = setStage { s with reds := s.reds ++ [⟨h, slot, gen, va, pa, c.ty, c.nm1, [(c.rank.toNat, c.v)], [acc]⟩] } acc 0 (.redOpen h) := by
  have hnone : s.reds.find? (fun g => g.slot == slot && g.gen == gen && g.va == va) = none := by
    rw [List.find?_eq_none]
    intro g hin
    simp [hg g hin]
  have hpos : 0 < c.nm1.toNat := Nat.pos_of_ne_zero fun h0 => hn (BitVec.eq_of_toNat_eq h0)
  simp only [redPlace, hnone, hr, if_true, redStage, ownAcc, redComplete, List.length_singleton]
  rw [if_pos (by omega)]

end Sys2Proof.Machine
end

section
/-! PROOF. What each event of the slices does with a ready and translated access of the unit, and O45 from that (R267 to R269, R279, R280, R284,
R287, R292, R323, R489). -/

namespace Sys2Proof.Machine

/-- Translation leaves the unit alone. -/
theorem unit_of_locate {s s' : State} {w : Who} {va : W64} {kind : Nat} {c : Bool} {r : Except XStop Place}
    (h : locate s w va kind c = (s', r)) : s'.unit = s.unit := by
  have hm := (locate_memOnly s w va kind c).unit
  rwa [h] at hm

theorem unit_makeRoom_placed (s : State) (h : BitVec 6) (line f : Nat) (pas : List (Nat × Byte)) :
    (makeRoom (placed s h line pas) h f).unit = s.unit :=
  (makeRoom_memOnly _ h f).unit.trans (placed_unit s h line pas)

/-- A read of a ready part whose line is valid, with no fill of it pending, sends the line's packet (R292). -/
theorem exec_sliceReadRequest_hit {s s' : State} {acc i pa key : Nat} {a : Access} {p : Part} (hr : readyPart s acc i = some (a, p))
    (hk : a.kind.isRead = true) (hl : locate s (unitWho s.unit a.cls 0#2) (partVa a p) 0 true = (s', .ok (.mem pa key false)))
    (hp : isPinned s' pa = false) (hb : badSector s' pa p.bytes.length = none) (hm : missing s' ((partPas p pa).map (·.1)) = 0#4)
    (hg : ∀ g ∈ s'.groups, g.queued = true ∨ g.line ≠ pa / 128) :
    ∃ t, exec (.sliceReadRequest (.unit acc) i) s = .next t
      ∧ t.packets = s'.packets ++ [(s'.nextPkt, ⟨homeSlice (partVa a p).toNat, pa / 128, memBytes s' key (pa / 128 * 128) 128, [(acc, i)], []⟩)]
      ∧ t.dram = s'.dram ∧ t.llc = s'.llc ∧ t.unit.g = s'.unit.g := by
  obtain ⟨b, hu, hd, hc, hub, hpk⟩ := orderRead_hit (h := homeSlice (partVa a p).toNat) (a := a) (i := i) (key := key) hb hm hg
  refine ⟨_, (exec_sliceReadRequest_unit hr hk).trans (congrArg _ (readAtSlice_mem hl hp)), ?_, hu.dram.trans hd, hu.llc.trans hc,
    hu.g.trans hub⟩
  rw [hu.packets, hpk, readyPart_id hr]

/-- A store makes its bytes the bytes of memory (R269, R279). -/
theorem exec_sliceWriteRequest_places {s s' : State} {acc i pa key : Nat} {a : Access} {p : Part} (hr : readyPart s acc i = some (a, p))
    (hk : a.kind = .store) (hl : locate s (unitWho s.unit a.cls 0#2) (partVa a p) 1 true = (s', .ok (.mem pa key false)))
    (hp : isPinned s' pa = false) (hne : p.bytes ≠ []) :
    ∃ t, exec (.sliceWriteRequest (.unit acc) i) s = .next t
      ∧ UnitOnly (makeRoom (placed s' (homeSlice (partVa a p).toNat) (pa / 128) (partPas p pa)) (homeSlice (partVa a p).toNat) (pa / 4096)) t :=
  ⟨_, (exec_sliceWriteRequest_store hr hk).trans (congrArg _ (writeAtSlice_mem hl hp)), orderWrite_placed hne⟩

/-- An atomic reads and writes in one step (R267, R284). -/
theorem exec_sliceAtomic_performs {s s' : State} {acc pa key : Nat} {a : Access} {p : Part} {op : AtomOp} {ty : AtomTy} {d : BitVec 6}
    {v e : BitVec 128} (hr : readyPart s acc 0 = some (a, p)) (hk : a.kind = .atom op ty d v e)
    (hl : locate s (unitWho s.unit a.cls 0#2) a.va 2 true = (s', .ok (.mem pa key false))) (hp : isPinned s' pa = false)
    (hb : badSector s' pa ty.bytes = none) :
    ∃ t, exec (.sliceAtomic (.unit acc)) s = .next t ∧ UnitOnly (atomAt s' (homeSlice a.va.toNat) key pa op ty v e).1 t :=
  ⟨_, (exec_sliceAtomic_unit hr hk).trans (congrArg _ (atomAtSlice_mem hl hp)), orderAtom_good hb⟩

/-- A read that faults is parked at its home, where that has room (R323). -/
theorem exec_sliceReadRequest_parks {s s' : State} {acc i level k : Nat} {a : Access} {p : Part} {e : W64} {c : BitVec 4}
    (hr : readyPart s acc i = some (a, p)) (hk : a.kind.isRead = true)
    (hl : locate s (unitWho s.unit a.cls 0#2) (partVa a p) 0 true = (s', .error (.fault c level e)))
    (hf : freePark s' (homeSlice (partVa a p).toNat) = some k) (hn : heldBeside s' a (partVa a p) = none) :
    ∃ t, exec (.sliceReadRequest (.unit acc) i) s = .next t ∧ t.llc = s'.llc ∧ t.dram = s'.dram ∧ t.unit.g = s'.unit.g
      ∧ t.parks = s'.parks ++ [⟨homeSlice (partVa a p).toNat, BitVec.ofNat 6 k, .access acc i, partVa a p,
        slotPart s' s.unit.cr.asidSlot, c, s.unit.cr.asidSlot, s.unit.cr.asidGen, 0⟩] := by
  obtain ⟨b, hu, hd, hc, hub, hpk⟩ := stopPart_parked (i := i) (level := level) (e := e) (c := c) hf hn
  refine ⟨_, (exec_sliceReadRequest_unit hr hk).trans (congrArg _ (readAtSlice_stop hl)), hu.llc.trans hc, hu.dram.trans hd,
    hu.g.trans (congrArg Unit.g hub), ?_⟩
  rw [hu.parks, hpk, readyPart_id hr, right_of_isRead hk, unit_of_locate hl]

/-- Settles O45, clause by clause: each access goes through its translation to the operation at its home, which changes memory as placed says
and besides only the unit. -/
theorem accessesPerformAtHome : Obligations.AccessesPerformAtHome := by
  intro s s' acc i a p pa key hr at_ ids found wrote h packet room
  refine ⟨?hit, ?pinned, ?bad, ?store, ?atomic, ?contribution, ?fault⟩
  case hit =>
    intro hk hl hp hb hm hg
    exact exec_sliceReadRequest_hit hr hk hl hp hb hm hg
  case pinned =>
    intro hk hl hp
    rw [exec_sliceReadRequest_unit hr hk, readAtSlice_pinned hl hp, readyPart_id hr]
  case bad =>
    intro x hk hl hp hb
    rw [exec_sliceReadRequest_unit hr hk, readAtSlice_mem hl hp, orderRead_bad hb, readyPart_id hr, meetBad]
  case store =>
    intro hk hl hp hnodup hne
    obtain ⟨t, ht, hu⟩ := exec_sliceWriteRequest_places hr hk hl hp hne
    refine ⟨t, placed s' h (pa / 128) at_, ht, placed_eq _ _ _ _, ⟨?_, ?_⟩, ⟨hu.llc, hu.dram⟩, ?_⟩
    · exact fun e he k => memByte_placed_mem s' h _ at_ hnodup e he k
    · exact fun q k hq => memByte_placed_outside s' h _ at_ q k hq
    · exact hu.g.trans (congrArg Unit.g (unit_makeRoom_placed _ _ _ _ _))
  case atomic =>
    intro op ty d v e hi hk hva hl hp hb n read
    subst hi
    obtain ⟨t, ht, hu⟩ := exec_sliceAtomic_performs hr hk hl hp hb
    rw [← hva] at hu
    refine ⟨wholeRead_bytes _ _ _ _ _ _ _, t, ht, hu.g.trans (congrArg Unit.g (atomAt_memOnly ..).unit), ?_⟩
    cases hx : atomNew op ty (leNat read.2) v.toNat e.toNat with
    | none =>
      rw [atomAt_none hx] at hu
      exact ⟨hu.llc, hu.dram⟩
    | some x =>
      rw [atomAt_some hx] at hu
      exact ⟨placed read.1 h (pa / 128) ((upto pa n).zip (leBytes x n)), placed_eq _ _ _ _, ⟨hu.llc, hu.dram⟩,
        memBytes_placed_run _ _ _ _ _ (length_leBytes x n), fun q hq => memByte_placed_run_outside _ _ _ _ _ q (length_leBytes x n) hq⟩
  case contribution =>
    intro ty nm1 rank v hi hk hl hp hn hg hroom
    subst hi
    refine ⟨_, (exec_redContribution_unit hr hk).trans (congrArg _ ((redAtSlice_mem hl hp).trans (redPlace_opens hn hg hroom))), ?_, ?_, ?_⟩
    · exact (setStage_unitOnly _ _ _ _).llc
    · exact (setStage_unitOnly _ _ _ _).dram
    · rw [(setStage_unitOnly _ _ _ _).reds, readyPart_id hr]
  case fault =>
    intro e c level k hk hl hf _ _ hn
    exact exec_sliceReadRequest_parks hr hk hl hf hn

end Sys2Proof.Machine
end

section
/-! SUPPORT. Registers that no write changes (R50), the values at reset (R47, R494), and what a trap leaves (R58, R379). -/

namespace Sys2Proof.Machine

/-! ### G0 and P0 (R50) -/

@[simp] theorem setG_zero (u : Unit) (v : W64) : setG u 0#6 v = u := rfl

@[simp] theorem setP_zero (u : Unit) (v : Bool) : setP u 0#3 v = u := rfl

/-- No write of a G register reaches G0. -/
@[simp] theorem setG_g_zero (u : Unit) (r : BitVec 6) (v : W64) : (setG u r v).g[0] = u.g[0] := by
  unfold setG
  split
  · rfl
  · next h =>
    have hr : r.toNat ≠ 0 := fun e => h (by simpa using BitVec.eq_of_toNat_eq (y := 0#6) e)
    simp [Vector.getElem_set_ne, hr]

/-- What loads and atomics write of G and V leaves G0. -/
theorem putDests_g_zero (ds : List Dest) (u : Unit) : (putDests u ds).g[0] = u.g[0] := by
  unfold putDests
  induction ds generalizing u with
  | nil => rfl
  | cons d ds ih =>
    rw [List.foldl_cons, ih]
    cases d with
    | g r v => exact setG_g_zero u r v
    | _ => rfl

/-- Settles O8: each write of G0 or P0 is the identity, and the writes of an access go through setG. -/
theorem hardwiredRegisters : Obligations.HardwiredRegisters :=
  fun u _ v b => ⟨gReg_zero u, pReg_zero u, setG_zero u v, setP_zero u b, rfl, rfl, fun a => putDests_g_zero (accDests a) u⟩

/-! ### A trap outside a stub (R58, R379, R383) -/

/-- The unit with CR.FAULTINFO written. -/
def withInfo (u : Unit) (info : W64) : Unit := { u with cr := { u.cr with faultinfo := info } }

/-- CR.FAULTINFO written and the freeze of a unit that is in no stub, field by field. -/
theorem freeze_program {s : State} (h : s.unit.cr.pending = false) (info : W64) (why : FreezeReason) (pc : BitVec 19) :
    freeze (s.mapCr fun c => { c with faultinfo := info }) why pc = { s with
      area := some { s.area.getD (CtxArea.start (withInfo s.unit info)) with
        resumed := none, rings := s.unit.pad.rings, v := s.unit.v, mx := s.unit.mx, pad := s.unit.pad.bytes, kind := 2
        reason := why.code, banks := s.unit.pad.banks, time := s.time, issued := s.unit.cr.issued
        savepc := pc, stubpc := none, scalar := { scalarOf s.unit with cr := (withInfo s.unit info).cr }, snapshot := snapshotOf s.unit
        landed := s.unit.ctx.landed }
      events := s.events ++ [⟨s.unit.cr.part, s.unit.cr.job, s.unit.cr.unit, s.unit.cr.lcore, why.code, info, s.unit.cr.ctxbase⟩]
      unit := { s.unit with
        run := .frozen why, pc := pc, landing := [], cr := { s.unit.cr with faultinfo := info, savepc := pc }
        ctx := { s.unit.ctx with tried := false, since := none } } } := by
  simp [freeze, unitEvent, h, withInfo, snapshotOf, scalarOf]

/-- CR.FAULTINFO of a slot below 8 and a cause below 256. -/
theorem faultInfo_eq (pc : BitVec 19) (code : BitVec 12) {slot cause : Nat} (hs : slot < 8) (hc : cause < 256) :
    faultInfo pc code slot cause = BitVec.ofNat 64 (pc.toNat * 2 ^ 32 + code.toNat * 2 ^ 12 + slot * 2 ^ 8 + cause) := by
  rw [faultInfo, Nat.mod_eq_of_lt hs, Nat.mod_eq_of_lt hc, w64]

/-- Settles O18: the trap is CR.FAULTINFO written and the freeze of a unit that is in no stub. -/
theorem trapEntry : Obligations.TrapEntry := by
  intro s slot cause code hp hs hc
  rw [trapHere_eq, freeze_program hp]
  exact ⟨faultInfo_eq _ _ hs hc, rfl, rfl, rfl, rfl, ⟨_, rfl, rfl, rfl, rfl, rfl, rfl, rfl, rfl, rfl, rfl, rfl, rfl, rfl, rfl, rfl, rfl⟩,
    rfl, rfl⟩

/-! ### Power-on (R47, R494) -/

/-- The package at power-on keeps the invariant of partitions, keys, domain and power. -/
theorem packageOk_start : PackageOk Package.start where
  sorted := ⟨rfl, rfl⟩
  listed := fun _ h => absurd h List.not_mem_nil
  limits := fun _ h => absurd h List.not_mem_nil
  apart := List.Pairwise.nil
  below := fun _ h => absurd h List.not_mem_nil
  keys := List.Pairwise.nil
  domain := .inl rfl
  power := ⟨by decide, by decide⟩

theorem machineOk_reset : MachineOk State.reset := ⟨packageOk_start, reset_memory_wf.1⟩

/-- R188: every SCALE 0x007F and every ZP 0, latch by latch. -/
theorem latches_start : ∀ k < 64, latchScale Latches.start k = 0x007F ∧ latchZp Latches.start k = 0 := by decide +kernel

/-- The control registers that read 0 in a fresh unit. -/
theorem crRead_reset : ∀ n ∈ [0x000, 0x001, 0x002, 0x007, 0x008, 0x010, 0x011, 0x012, 0x013, 0x01C, 0x080, 0x082, 0x090, 0x0A0, 0x0A1,
    0x0A2, 0x0B1, 0x0B2, 0x0C0, 0x0E4], crRead State.reset n = 0#64 := by decide +kernel

theorem crRead_reset_format : ∀ k : Fin 16, crRead State.reset (0x050 + k.val) = 0#64 := by decide +kernel

theorem gReg_reset (r : BitVec 6) : gReg State.reset.unit r = 0#64 := by
  simp [gReg, State.reset, Unit.start]

theorem vReg_reset (r : BitVec 5) : vReg State.reset.unit r = 0#2048 := by
  simp [vReg, State.reset, Unit.start]

theorem mReg_reset (r : BitVec 3) : mReg State.reset.unit r = if r = 0#3 then BitVec.allOnes 64 else 0#64 := by
  simp [mReg, State.reset, Unit.start]

theorem pReg_reset : ∀ r : BitVec 3, pReg State.reset.unit r = decide (r = 0#3) := by decide

theorem queueOf_reset (q : Nat) : queueOf State.reset.unit q = [] := by
  unfold queueOf
  split <;> rfl

/-- Settles O3, register by register. -/
theorem resetValues : Obligations.ResetValues :=
  ⟨gReg_reset, vReg_reset, mReg_reset, pReg_reset, crRead_reset, crRead_reset_format, fun _ => rfl,
    fun q => by simp [ringAt, State.reset, Unit.start, Pad.empty], fun k hk =>
      have h := latches_start k hk
      ⟨h.1, h.2, h.1, h.2⟩, fun q _ => queueOf_reset q, rfl, fun k => by simp [State.reset, Package.start], rfl, rfl, machineOk_reset⟩

end Sys2Proof.Machine
end

section
/-! SUPPORT. Slots that issue alone and whose effect is one result in flight or a trap (R30, R32, R58): one lemma per answer, stated for
every slot that has a guard which is true. -/

namespace Sys2Proof.Machine

/-! ### Registers as a slot reads them at issue -/

@[simp] theorem gReg_atIssue (n : Nat) (s : State) (r : BitVec 6) : gReg (atIssue n s).unit r = gReg (landDue s).unit r := rfl
@[simp] theorem addrOf_atIssue (n : Nat) (s : State) (a : BitVec 6) (x : Option Limm) :
    addrOf (atIssue n s).unit a x = addrOf (landDue s).unit a x := rfl
@[simp] theorem pad_atIssue (n : Nat) (s : State) : (atIssue n s).unit.pad = (landDue s).unit.pad := rfl
@[simp] theorem pc_atIssue (n : Nat) (s : State) : (atIssue n s).unit.pc = (landDue s).unit.pc := rfl
@[simp] theorem cr_atIssue (n : Nat) (s : State) : (atIssue n s).unit.cr = (landDue s).unit.cr := rfl

/-- An effect on the unit that leaves alone what the sequencer keeps. -/
structure OwnEffect (F : Unit → Unit) : Prop where
  ctx : ∀ u c, F { u with ctx := c } = { F u with ctx := c }
  pc : ∀ u, (F u).pc = u.pc
  cyc : ∀ u, (F u).cyc = u.cyc
  loops : ∀ u, (F u).loops = u.loops
  issued : ∀ u, (F u).cr.issued = u.cr.issued
  pending : ∀ u, (F u).cr.pending = u.cr.pending

theorem push_own (lat : Nat) (d : Dest) (flags : BitVec 6) : OwnEffect fun u => push u lat d flags := by
  constructor <;> intros <;> rfl

section Slot

variable {i : Instr} {s : State} {g : BitVec 4} {e st c : Bool} {k : State → SlotAnswer}

/-- A guarded slot whose guard is true answers as its body does. -/
theorem guarded_atIssue (n : Nat) (hg : guardOn g (landDue s).unit = true) : guarded g (atIssue n s) k = k (atIssue n s) :=
  guarded_on hg

/-- A slot whose effect is on the unit alone. -/
theorem acts_of_mapUnit (hx : exec i s = issueOne e st (slotWords i) c (fun s => guarded g s k) s)
    (hg : guardOn g (landDue s).unit = true) {F : Unit → Unit} (hF : OwnEffect F)
    (hk : k (atIssue (slotWords i) s) = .go ((atIssue (slotWords i) s).mapUnit F)) : Acts i s F := by
  refine acts_of_go hx ((guarded_atIssue _ hg).trans (hk.trans ?_)) (hF.pc _) (hF.cyc _) (hF.loops _) (hF.issued _) (hF.pending _)
  rw [atIssue_unit, State.mapUnit, hF.ctx]

/-- A slot that puts one result in flight and does nothing else. -/
theorem lands_of_go (hx : exec i s = issueOne e st (slotWords i) c (fun s => guarded g s k) s) (hg : guardOn g (landDue s).unit = true)
    {lat : Nat} {d : Dest} {flags : BitVec 6}
    (hk : k (atIssue (slotWords i) s) = .go ((atIssue (slotWords i) s).mapUnit fun u => push u lat d flags)) :
    Lands i s lat d flags :=
  acts_of_mapUnit hx hg (push_own lat d flags) hk

theorem landsG_of_go (hx : exec i s = issueOne e st (slotWords i) c (fun s => guarded g s k) s) (hg : guardOn g (landDue s).unit = true)
    {lat : Nat} {d : BitVec 6} {v : W64} (hk : k (atIssue (slotWords i) s) = .go (pushG (atIssue (slotWords i) s) lat d v)) :
    LandsG i s lat d v :=
  lands_of_go hx hg hk

theorem traps_of_trap (hx : exec i s = issueOne e st (slotWords i) c (fun s => guarded g s k) s) (hg : guardOn g (landDue s).unit = true)
    {cause : Nat} {code : BitVec 12} (hk : k (atIssue (slotWords i) s) = .trap cause code) : Traps i s cause code :=
  hx.trans (issueOne_trap ((guarded_atIssue _ hg).trans hk))

theorem waits_of_block (hx : exec i s = issueOne e st (slotWords i) c (fun s => guarded g s k) s) (hg : guardOn g (landDue s).unit = true)
    (hk : k (atIssue (slotWords i) s) = .block) : Waits i s c :=
  hx.trans (issueOne_block ((guarded_atIssue _ hg).trans hk))

/-- A guarded operation on two registers. -/
theorem landsG_alu {d a b : BitVec 6} {lat : Nat} {f : W64 → W64 → W64}
    (hx : exec i s = issueOne e st (slotWords i) c (alu g d lat a b f) s) (hg : guardOn g (landDue s).unit = true) :
    LandsG i s lat d (f (gReg (landDue s).unit a) (gReg (landDue s).unit b)) :=
  landsG_of_go hx hg rfl

/-- A guarded operation on one register. -/
theorem landsG_alu1 {d a : BitVec 6} {f : W64 → W64}
    (hx : exec i s = issueOne e st (slotWords i) c (alu1 g d a f) s) (hg : guardOn g (landDue s).unit = true) :
    LandsG i s 1 d (f (gReg (landDue s).unit a)) :=
  landsG_of_go hx hg rfl

end Slot

/-! ### Division (R61) -/

theorem divS_zero (x : W64) : divS x 0#64 = BitVec.allOnes 64 := rfl
theorem divU_zero (x : W64) : divU x 0#64 = BitVec.allOnes 64 := rfl
theorem remS_zero (x : W64) : remS x 0#64 = x := rfl
theorem remU_zero (x : W64) : remU x 0#64 = x := rfl

theorem toNat_divU {x y : W64} (hy : y ≠ 0#64) : (divU x y).toNat = x.toNat / y.toNat := by
  have hlt : x.toNat / y.toNat < 2 ^ 64 := (Nat.div_le_self _ _).trans_lt x.isLt
  simp only [divU, beq_iff_eq, hy, if_false, w64, BitVec.toNat_ofNat, Nat.mod_eq_of_lt hlt]

theorem toNat_remU {x y : W64} (hy : y ≠ 0#64) : (remU x y).toNat = x.toNat % y.toNat := by
  have hlt : x.toNat % y.toNat < 2 ^ 64 := (Nat.mod_le _ _).trans_lt x.isLt
  simp only [remU, beq_iff_eq, hy, if_false, w64, BitVec.toNat_ofNat, Nat.mod_eq_of_lt hlt]

/-- The quotient is the library's signed division, but for a zero divisor. -/
theorem divS_eq_sdiv (x : W64) {y : W64} (hy : y ≠ 0#64) : divS x y = x.sdiv y := by
  simp only [divS, beq_iff_eq, hy, if_false]
  exact BitVec.eq_of_toInt_eq (by rw [BitVec.toInt_ofInt, BitVec.toInt_sdiv])

/-- The remainder is the library's, which gives the dividend back for a zero divisor. -/
theorem remS_eq_srem (x : W64) {y : W64} (hy : y ≠ 0#64) : remS x y = x.srem y := by
  simp only [remS, beq_iff_eq, hy, if_false]
  rw [← BitVec.toInt_srem, BitVec.ofInt_toInt]

/-- The one quotient that does not fit a word is −2^63 by −1. -/
theorem toInt_divS {x y : W64} (hy : y ≠ 0#64) (h : ¬(x.toInt = -2 ^ 63 ∧ y.toInt = -1)) : (divS x y).toInt = x.toInt.tdiv y.toInt := by
  rw [divS_eq_sdiv x hy]
  refine BitVec.toInt_sdiv_of_ne_or_ne x y ((not_and_or.1 h).imp (fun hx e => hx ?_) (fun hm e => hm ?_))
  · rw [e]; decide
  · rw [e]; decide

theorem toInt_remS {x y : W64} (hy : y ≠ 0#64) : (remS x y).toInt = x.toInt.tmod y.toInt := by
  rw [remS_eq_srem x hy, BitVec.toInt_srem]

/-- −2^63 by −1 wraps to −2^63, and leaves nothing. -/
theorem divS_overflow {x y : W64} (hx : x.toInt = -2 ^ 63) (hy : y.toInt = -1) : divS x y = x ∧ remS x y = 0#64 := by
  have hx' : x = BitVec.intMin 64 := BitVec.eq_of_toInt_eq (hx.trans (by decide))
  have hy' : y = -1#64 := BitVec.eq_of_toInt_eq (hy.trans (by decide))
  subst hx' hy'
  decide

/-- A remainder of truncating division other than 0 has the sign of the dividend. -/
theorem tmod_sign (a b : Int) : a.tmod b = 0 ∨ (a.tmod b < 0 ↔ a < 0) := by
  have hs := Int.sign_tmod a b
  by_cases hd : b ∣ a
  · exact .inl (Int.tmod_eq_zero_of_dvd hd)
  · rw [if_neg hd] at hs
    exact .inr (by rw [← Int.sign_eq_neg_one_iff_neg, hs, Int.sign_eq_neg_one_iff_neg])

/-- Truncating division: the quotient and the remainder give the dividend back, the remainder is below the divisor and has the sign
of the dividend. -/
theorem divS_remS {x y : W64} (hy : y ≠ 0#64) (h : ¬(x.toInt = -2 ^ 63 ∧ y.toInt = -1)) :
    x.toInt = (divS x y).toInt * y.toInt + (remS x y).toInt ∧ (remS x y).toInt.natAbs < y.toInt.natAbs
      ∧ (remS x y = 0#64 ∨ ((remS x y).toInt < 0 ↔ x.toInt < 0)) := by
  have hy0 : y.toInt ≠ 0 := fun e => hy (BitVec.eq_of_toInt_eq (e.trans BitVec.toInt_zero.symm))
  have hr := toInt_remS (x := x) hy
  rw [toInt_divS hy h, hr]
  refine ⟨?_, ?_, ?_⟩
  · rw [Int.mul_comm, Int.mul_tdiv_add_tmod]
  · rw [Int.natAbs_tmod]
    exact Nat.mod_lt _ (Int.natAbs_pos.2 hy0)
  · exact (tmod_sign x.toInt y.toInt).imp_left fun e => BitVec.eq_of_toInt_eq (hr.trans (e.trans BitVec.toInt_zero.symm))

/-- Settles O11: the four slots put divS, remS, divU and remU in flight. -/
theorem divisionResults : Obligations.DivisionResults := by
  intro s d a b g hg x y
  refine ⟨divS x y, remS x y, divU x y, remU x y, landsG_alu rfl hg, landsG_alu rfl hg, landsG_alu rfl hg, landsG_alu rfl hg, ?_,
    fun hy => ⟨toNat_divU hy, toNat_remU hy⟩, divS_overflow, divS_remS⟩
  intro hy
  rw [hy]
  exact ⟨divS_zero x, remS_zero x, divU_zero x, remU_zero x⟩

end Sys2Proof.Machine
end

section
/-! SUPPORT. Conditions and predicate logic (R65, R67). -/

namespace Sys2Proof.Machine

theorem bitVec3_cases : ∀ c : BitVec 3, c = 0#3 ∨ c = 1#3 ∨ c = 2#3 ∨ c = 3#3 ∨ c = 4#3 ∨ c = 5#3 ∨ c = 6#3 ∨ c = 7#3 := by decide

theorem not_slt (v w : W64) : (!v.slt w) = decide (w.toInt ≤ v.toInt) := by
  rw [BitVec.slt, ← decide_not]
  simp only [not_lt]

theorem not_ult (v w : W64) : (!v.ult w) = decide (w.toNat ≤ v.toNat) := by
  rw [BitVec.ult, ← decide_not]
  simp only [not_lt]

theorem bne_eq_decide_ne (v w : W64) : (v != w) = decide (v ≠ w) := by rw [bne, beq_eq_decide, decide_not]

/-- The conditions of R65 by their numbers. -/
theorem condHolds_eq (c : BitVec 3) (v w : W64) : condHolds c v w =
    if c = 0#3 then decide (v = w) else if c = 1#3 then decide (v ≠ w)
    else if c = 2#3 then decide (v.toInt < w.toInt) else if c = 3#3 then decide (w.toInt ≤ v.toInt)
    else if c = 4#3 then decide (v.toNat < w.toNat) else if c = 5#3 then decide (w.toNat ≤ v.toNat)
    else if c = 6#3 then decide (v &&& w ≠ 0#64) else decide (v &&& w = 0#64) := by
  rcases bitVec3_cases c with rfl | rfl | rfl | rfl | rfl | rfl | rfl | rfl
  · rfl
  · exact bne_eq_decide_ne v w
  · rfl
  · exact not_slt v w
  · rfl
  · exact not_ult v w
  · exact bne_eq_decide_ne (v &&& w) 0#64
  · rfl

theorem landsP_of_go {i : Instr} {s : State} {g : BitVec 4} {e st c : Bool} {k : State → SlotAnswer}
    (hx : exec i s = issueOne e st (slotWords i) c (fun s => guarded g s k) s) (hg : guardOn g (landDue s).unit = true)
    {p : BitVec 3} {v : Bool} (hk : k (atIssue (slotWords i) s) = .go (pushP (atIssue (slotWords i) s) p v)) :
    Lands i s 1 (.p p v) 0#6 :=
  lands_of_go hx hg hk

/-- Settles O14: the three slots put a predicate in flight, and condHolds gives the conditions as the statement does. -/
theorem comparesAndPredicateLogic : Obligations.ComparesAndPredicateLogic := by
  intro s c p p1 p2 a b i f g x hg u holds
  have hc : ∀ v w, holds v w = condHolds c v w := fun v w => (condHolds_eq c v w).symm
  rw [hc, hc]
  exact ⟨landsP_of_go rfl hg rfl, landsP_of_go rfl hg rfl, landsP_of_go rfl hg rfl⟩

end Sys2Proof.Machine
end

section
/-! SUPPORT. Bit counts, extensions and bit fields of a word, bit by bit (R63). -/

namespace Sys2Proof.Machine

/-! ### Folds over bit numbers -/

theorem upto_zero (n : Nat) : upto 0 n = List.range n := by rw [upto_eq_range', List.range_eq_range']

/-- A fold that keeps the last index of a run at which p holds: there is none, or it is the greatest one. -/
theorem foldl_last {α : Type} (p : Nat → Bool) (f : Nat → α) (a : α) (n : Nat) :
    let r := (upto 0 n).foldl (fun x i => if p i then f i else x) a
    (r = a ∧ ∀ k < n, p k = false) ∨ ∃ j < n, r = f j ∧ p j = true ∧ ∀ k, j < k → k < n → p k = false := by
  rw [upto_zero]
  induction n with
  | zero => exact .inl ⟨rfl, fun _ h => absurd h (Nat.not_lt_zero _)⟩
  | succ n ih =>
    simp only [List.range_succ, List.foldl_append, List.foldl_cons, List.foldl_nil] at ih ⊢
    by_cases hn : p n = true
    · exact .inr ⟨n, Nat.lt_succ_self n, if_pos hn, hn, fun k h1 h2 => absurd h2 (by omega)⟩
    · rw [if_neg hn]
      have hnf : p n = false := by simpa using hn
      have below : ∀ k, k < n + 1 → k ≠ n → k < n := fun k _ _ => by omega
      rcases ih with ⟨hr, hall⟩ | ⟨j, hj, hr, hp, hall⟩
      · refine .inl ⟨hr, fun k hk => ?_⟩
        by_cases e : k = n
        · rw [e, hnf]
        · exact hall k (below k hk e)
      · refine .inr ⟨j, Nat.lt_succ_of_lt hj, hr, hp, fun k h1 hk => ?_⟩
        by_cases e : k = n
        · rw [e, hnf]
        · exact hall k h1 (below k hk e)

theorem foldl_count (p : Nat → Bool) (l : List Nat) (a : Nat) :
    l.foldl (fun n i => n + bit01 (p i)) a = a + (l.filter p).length := by
  induction l generalizing a with
  | nil => rfl
  | cons i l ih =>
    rw [List.foldl_cons, ih, List.filter_cons]
    cases p i <;> simp [bit01, Nat.add_assoc, Nat.add_comm 1]

/-! ### Counts -/

/-- The bits above the count of leading zeros are 0, and the one below them is 1. -/
theorem leadingZeros_spec (v : W64) : leadingZeros v ≤ 64 ∧ (∀ k < 64, 64 ≤ k + leadingZeros v → v.getLsbD k = false)
    ∧ (leadingZeros v < 64 → v.getLsbD (63 - leadingZeros v) = true) := by
  have h := foldl_last (fun i => v.getLsbD i) (fun i => 63 - i) 64 64
  rw [show leadingZeros v = (upto 0 64).foldl (fun n i => if v.getLsbD i then 63 - i else n) 64 from rfl]
  rcases h with ⟨hr, hall⟩ | ⟨j, hj, hr, hp, hall⟩
  · rw [hr]
    exact ⟨Nat.le_refl _, fun k hk _ => hall k hk, fun h => absurd h (by omega)⟩
  · rw [hr]
    exact ⟨by omega, fun k hk h => hall k (by omega) hk, fun _ => by rwa [show 63 - (63 - j) = j by omega]⟩

/-- The bits below the count of trailing zeros are 0, and the next one is 1. -/
theorem trailingZeros_spec (v : W64) : trailingZeros v ≤ 64 ∧ (∀ k < trailingZeros v, v.getLsbD k = false)
    ∧ (trailingZeros v < 64 → v.getLsbD (trailingZeros v) = true) := by
  have h := foldl_last (fun i => v.getLsbD (63 - i)) (fun i => 63 - i) 64 64
  rw [show trailingZeros v = (upto 0 64).foldl (fun n i => if v.getLsbD (63 - i) then 63 - i else n) 64 from rfl]
  have flip : ∀ k < 64, (∀ i, 63 - k = i → v.getLsbD (63 - i) = false) → v.getLsbD k = false := fun k hk h => by
    have := h (63 - k) rfl
    rwa [show 63 - (63 - k) = k by omega] at this
  rcases h with ⟨hr, hall⟩ | ⟨j, hj, hr, hp, hall⟩
  · rw [hr]
    exact ⟨Nat.le_refl _, fun k hk => flip k hk fun i hi => hall i (by omega), fun h => absurd h (by omega)⟩
  · rw [hr]
    exact ⟨by omega, fun k hk => flip k (by omega) fun i hi => hall i (by omega) (by omega), fun _ => hp⟩

theorem onesOf_eq (v : W64) : onesOf v = ((List.range 64).filter fun k => v.getLsbD k).length := by
  rw [onesOf, foldl_count, upto_zero, Nat.zero_add]

/-! ### Extensions -/

theorem sxInt_eq_toInt (x n : Nat) : sxInt x (n + 1) = (BitVec.ofNat (n + 1) x).toInt := by
  have h2 : 2 ^ (n + 1) = 2 * 2 ^ n := Nat.pow_succ'
  rw [BitVec.toInt_eq_toNat_cond, BitVec.toNat_ofNat]
  simp only [sxInt, Nat.add_sub_cancel, h2, Nat.mul_lt_mul_left (Nat.zero_lt_two)]
  split <;> push_cast <;> ring

theorem getLsbD_signExt64 (x : W64) (w k : Nat) (hk : k < 64) :
    (signExt64 x.toNat (w + 1)).getLsbD k = x.getLsbD (if k ≤ w then k else w) := by
  have e : signExt64 x.toNat (w + 1) = (BitVec.ofNat (w + 1) x.toNat).signExtend 64 := by
    rw [signExt64, sxInt_eq_toInt]; rfl
  rw [e, BitVec.getLsbD_signExtend, BitVec.msb_eq_getLsbD_last, BitVec.getLsbD_ofNat, BitVec.getLsbD_ofNat, BitVec.testBit_toNat,
    BitVec.testBit_toNat]
  by_cases h : k ≤ w
  · simp [hk, h, Nat.lt_succ_of_le h]
  · simp [hk, h]

theorem getLsbD_w64_mod (x n k : Nat) (hk : k < 64) : (w64 (x % 2 ^ n)).getLsbD k = (decide (k < n) && x.testBit k) := by
  rw [w64, BitVec.getLsbD_ofNat, Nat.testBit_mod_two_pow]
  simp [hk]

/-! ### Fields -/

theorem fld_zero_six (b : W64) : fld b 0 6 = (b.setWidth 6).toNat := by
  rw [fld, BitVec.toNat_setWidth, pow_zero, Nat.div_one]

theorem fld_eight_six (b : W64) : fld b 8 6 = ((b >>> 8).setWidth 6).toNat := by
  rw [fld, BitVec.toNat_setWidth, BitVec.toNat_ushiftRight, Nat.shiftRight_eq_div_pow]

theorem getLsbD_extractField (a b : W64) (k : Nat) (hk : k < 64) :
    (extractField a b).getLsbD k = (decide (k < fld b 8 6 + 1) && decide (fld b 0 6 + k ≤ 63) && a.getLsbD (fld b 0 6 + k)) := by
  rw [extractField, getLsbD_w64_mod _ _ _ hk, Nat.testBit_div_two_pow, BitVec.testBit_toNat, Nat.add_comm k]
  by_cases h : fld b 0 6 + k ≤ 63
  · simp [h]
  · simp [h, BitVec.getLsbD_of_ge a (fld b 0 6 + k) (by omega)]

theorem getLsbD_insertField (d a b : W64) (k : Nat) (hk : k < 64) :
    (insertField d a b).getLsbD k
      = if fld b 0 6 ≤ k ∧ k < fld b 0 6 + (fld b 8 6 + 1) then a.getLsbD (k - fld b 0 6) else d.getLsbD k := by
  have mask : ((2 ^ (fld b 8 6 + 1) - 1 : Nat).testBit (k - fld b 0 6)) = decide (k - fld b 0 6 < fld b 8 6 + 1) :=
    Nat.testBit_two_pow_sub_one _ _
  simp only [insertField, w64, BitVec.getLsbD_or, BitVec.getLsbD_and, BitVec.getLsbD_not, BitVec.getLsbD_shiftLeft, BitVec.getLsbD_ofNat,
    Nat.testBit_mul_two_pow, mask]
  by_cases hlo : fld b 0 6 ≤ k
  · by_cases hhi : k < fld b 0 6 + (fld b 8 6 + 1)
    · simp [hk, hlo, hhi, show ¬ k < fld b 0 6 by omega, show k - fld b 0 6 < fld b 8 6 + 1 by omega]
    · simp [hk, hhi, show ¬ k - fld b 0 6 < fld b 8 6 + 1 by omega]
  · simp [hk, hlo]

/-- Settles O13: each slot puts the model's function of its operands in flight, whose bits the lemmas above give. -/
theorem bitAndFieldResults : Obligations.BitAndFieldResults := by
  intro s d a b w g hg x y p n
  have hp : fld y 0 6 = p := fld_zero_six y
  have hn : fld y 8 6 + 1 = n := congrArg (· + 1) (fld_eight_six y)
  obtain ⟨hlz, hlz0, hlz1⟩ := leadingZeros_spec x
  obtain ⟨htz, htz0, htz1⟩ := trailingZeros_spec x
  have one : ∀ {i : Instr} (f : W64 → W64), exec i s = issueOne false false (slotWords i) false (alu1 g d a f) s → LandsG i s 1 d (f x) :=
    fun f hx => landsG_alu1 hx hg
  refine ⟨⟨_, hlz, one (fun v => w64 (leadingZeros v)) rfl, hlz0, hlz1⟩, ⟨_, htz, one (fun v => w64 (trailingZeros v)) rfl, htz0, htz1⟩, ?popc,
    ⟨_, one (fun v => signExt64 v.toNat (w.toNat + 1)) rfl, ?sext⟩, ⟨_, one (fun v => w64 (v.toNat % 2 ^ (w.toNat + 1))) rfl, ?zext⟩,
    ⟨extractField x y, landsG_alu rfl hg, ?bext⟩, ⟨insertField (gReg (landDue s).unit d) x y, landsG_of_go rfl hg rfl, ?bins⟩⟩
  case popc =>
    rw [← onesOf_eq]
    exact one (fun v => w64 (onesOf v)) rfl
  case sext => exact fun k hk => getLsbD_signExt64 x w.toNat k hk
  case zext =>
    intro k hk
    rw [getLsbD_w64_mod _ _ _ hk, BitVec.testBit_toNat]
    simp only [Nat.lt_succ_iff]
  case bext =>
    intro k hk
    rw [← hp, ← hn]
    exact getLsbD_extractField x y k hk
  case bins =>
    intro k hk
    rw [← hp, ← hn]
    exact getLsbD_insertField _ x y k hk

end Sys2Proof.Machine
end

section
/-! SUPPORT. Local loads and stores of the scalar slot (R82 to R84). -/

namespace Sys2Proof.Machine

/-- Whether a local address lies in a bank of the unit (R83, R152). -/
theorem padOk_one (banks : BitVec 16) (a : Nat) : padOk banks a 1 = true ↔ a < 0x200000 ∧ banks.getLsbD (a / 0x20000) = true := by
  simp [padOk, Config.padBytes, Config.bankBytes, upto]

section LocalTrap

variable {banks : BitVec 16} {a : W64} {n : Nat}

theorem localTrap_none (h : a.toNat < 0x200000 ∧ banks.getLsbD (a.toNat / 0x20000) = true) (hn : a.toNat % n = 0) :
    localTrap banks a n = none := by
  simp [localTrap, (padOk_one banks a.toNat).2 h, hn]

theorem localTrap_outside (h : ¬(a.toNat < 0x200000 ∧ banks.getLsbD (a.toNat / 0x20000) = true)) : localTrap banks a n = some 0x17 := by
  have hp : padOk banks a.toNat 1 = false := Bool.eq_false_iff.2 fun e => h ((padOk_one banks a.toNat).1 e)
  simp [localTrap, hp]

theorem localTrap_misaligned (h : a.toNat < 0x200000 ∧ banks.getLsbD (a.toNat / 0x20000) = true) (hn : a.toNat % n ≠ 0) :
    localTrap banks a n = some 0x18 := by
  simp [localTrap, (padOk_one banks a.toNat).2 h, hn]

end LocalTrap

/-! ### LDL and STL -/

section Local

variable {s : State} {d a : BitVec 6} {c : BitVec 4} {z : BitVec 2} {g : BitVec 4} {x : Option Limm}

theorem ldl_lands (hg : guardOn g (landDue s).unit = true)
    (h : localTrap (landDue s).unit.pad.banks (addrOf (landDue s).unit a x) (sizeBytes z) = none) :
    LandsG (.ldl d a c z g x) s 6 d (w64 (padRead (landDue s).unit.pad (addrOf (landDue s).unit a x).toNat (sizeBytes z))) :=
  landsG_of_go rfl hg (by simp only [addrOf_atIssue, pad_atIssue, h])

/-- What an STL writes. -/
theorem stl_acts (hg : guardOn g (landDue s).unit = true)
    (h : localTrap (landDue s).unit.pad.banks (addrOf (landDue s).unit a x) (sizeBytes z) = none) :
    Acts (.stl d a c z g x) s fun u =>
      { u with pad := padWrite u.pad (addrOf (landDue s).unit a x).toNat (sizeBytes z) (gReg (landDue s).unit d).toNat } :=
  acts_of_mapUnit rfl hg (by constructor <;> intros <;> rfl) (by simp only [addrOf_atIssue, pad_atIssue, h]; rfl)

theorem local_traps {cause : Nat} (hg : guardOn g (landDue s).unit = true)
    (h : localTrap (landDue s).unit.pad.banks (addrOf (landDue s).unit a x) (sizeBytes z) = some cause) :
    Traps (.ldl d a c z g x) s cause 0#12 ∧ Traps (.stl d a c z g x) s cause 0#12 :=
  ⟨traps_of_trap rfl hg (by simp only [addrOf_atIssue, pad_atIssue, h]), traps_of_trap rfl hg (by simp only [addrOf_atIssue, pad_atIssue, h])⟩

end Local

/-- What a completed instruction leaves in the banks is its own effect. -/
theorem pad_of_sequenced {b t : State} (h : t = sequenced b t) : t.unit.pad = b.unit.pad := by rw [h]; rfl

/-- Settles O23: the effect of an STL on the banks is one run of bytes, whose reads the rules of memory give. -/
theorem localLoadAndStore : Obligations.LocalLoadAndStore := by
  intro s d a c z g x hg u va n inside
  refine ⟨fun hin hal => ?_, fun hout => local_traps hg (localTrap_outside hout), fun hin hmis => local_traps hg (localTrap_misaligned hin hmis)⟩
  have htrap := localTrap_none (n := sizeBytes z) hin hal
  obtain ⟨t, hx, hi, hl, ht⟩ := stl_acts (d := d) (c := c) hg htrap
  have hbytes : t.unit.pad.bytes = writeBytes u.pad.bytes va (leBytes (gReg u d).toNat n) := congrArg Pad.bytes (pad_of_sequenced ht)
  refine ⟨ldl_lands hg htrap, t, hx, hi, ?_, fun k hk => ?_, ?_, hl⟩
  · have hr := readBytes_writeBytes (leBytes (gReg u d).toNat n) u.pad.bytes va
    rwa [length_leBytes, ← hbytes] at hr
  · rw [hbytes]
    exact readByte_writeBytes_outside _ _ _ _ (by rwa [length_leBytes])
  · rw [hbytes]
    exact ht

/-- Settles O24: the load and the store of O23, read off as the fields of the next state. -/
theorem localAccessesComplete : Obligations.LocalAccessesComplete := by
  intro s d a c z g x hg hlt hbank hal
  have htrap := localTrap_none (n := sizeBytes z) ⟨hlt, hbank⟩ hal
  obtain ⟨t, hx, hi, hl, ht⟩ := ldl_lands (d := d) (c := c) hg htrap
  obtain ⟨r, hrx, hri, hrl, hr⟩ := stl_acts (d := d) (c := c) hg htrap
  exact ⟨⟨t, hx, hl, hi.cycle, pad_of_sequenced ht⟩, ⟨r, hrx, pad_of_sequenced hr, hri.cycle, hrl⟩⟩

end Sys2Proof.Machine
end

section
/-! SUPPORT. The retirement of a bundle, and what TRAP and BREAK do after it (R58, R59, R79, R379). -/

namespace Sys2Proof.Machine

/-- Outside loops, a bundle without a transfer is followed by the next word. -/
theorem retire_pc_of_no_loop {s : State} (h : s.unit.loops.depth = 0) (ht : s.unit.ctx.target = none) :
    (retire s).unit.pc = BitVec.ofNat 19 s.unit.ctx.npc := by
  cases hj : s.unit.ctx.jump <;> simp [retire, ht, hj, endTest_depth_zero _ _ _ h]

/-- The bundle of a slot that only leaves something to be done after it has retired. -/
def retiredWith (a : After) (s : State) : State := retire (setAfter (atIssue 1 s) a)

/-- It changes only what the sequencer keeps. -/
theorem retiredWith_sequenced (a : After) (s : State) : retiredWith a s = sequenced (landDue s) (retiredWith a s) := by
  simp [retiredWith, retire, setAfter, State.mapUnit, atIssue_unit, sequenced]

theorem retiredWith_landing (a : After) (s : State) : (retiredWith a s).unit.landing = (landDue s).unit.landing := rfl

theorem retiredWith_cyc (a : After) (s : State) : (retiredWith a s).unit.cyc = (landDue s).unit.cyc + 1 := rfl

theorem retiredWith_pc (a : After) {s : State} (h : (landDue s).unit.loops.depth = 0) :
    (retiredWith a s).unit.pc = BitVec.ofNat 19 ((landDue s).unit.pc.toNat + 4) :=
  retire_pc_of_no_loop h rfl

theorem exec_trap {s : State} {c : BitVec 12} {g : BitVec 4} (hg : guardOn g (landDue s).unit = true) :
    exec (.trap c g) s = .next (takeTrap (retiredWith (.trap c) s) .trap s.unit.pc (retiredWith (.trap c) s).unit.pc c 0 0x10) :=
  issueOne_go (e := false) (st := false) (c := false) (n := 1) (f := slotTrap c g) (guarded_atIssue 1 hg)

theorem exec_brk {s : State} {c : BitVec 12} {g : BitVec 4} (hg : guardOn g (landDue s).unit = true) :
    exec (.brk c g) s = .next (takeTrap (retiredWith (.brk c) s) .brk s.unit.pc (retiredWith (.brk c) s).unit.pc c 0 0x11) :=
  issueOne_go (e := false) (st := false) (c := false) (n := 1) (f := slotBrk c g) (guarded_atIssue 1 hg)

/-- A trap or break after its bundle: the freeze of the retired unit, with CR.FAULTINFO written. -/
theorem exec_trap_or_brk {s : State} {c : BitVec 12} {g : BitVec 4} (hg : guardOn g (landDue s).unit = true) {i : Instr} {cause : Nat}
    {why : FreezeReason} (h : (i = .trap c g ∧ cause = 0x10 ∧ why = .trap) ∨ (i = .brk c g ∧ cause = 0x11 ∧ why = .brk)) :
    ∃ a, exec i s = .next (freeze ((retiredWith a s).mapCr fun r => { r with faultinfo := faultInfo s.unit.pc c 0 cause }) why
      (retiredWith a s).unit.pc) ∧ cause < 256 ∧ why.code = if cause = 0x10 then 1 else 2 := by
  obtain ⟨rfl, rfl, rfl⟩ | ⟨rfl, rfl, rfl⟩ := h
  · exact ⟨.trap c, exec_trap hg, by decide, rfl⟩
  · exact ⟨.brk c, exec_brk hg, by decide, rfl⟩

/-- Settles O17, from the fields of the retired bundle and the freeze that follows it. -/
theorem trapAndBreakFreeze : Obligations.TrapAndBreakFreeze := by
  intro s c g hg hp i cause why hi
  obtain ⟨a, hx, hc, hcode⟩ := exec_trap_or_brk hg hi
  have hinfo := faultInfo_eq s.unit.pc c (Nat.zero_lt_succ 7) hc
  have hpc := retiredWith_pc a (s := s)
  have hr := retiredWith_sequenced a s
  have hl := retiredWith_landing a s
  have hcyc := retiredWith_cyc a s
  rw [Nat.zero_mul, Nat.add_zero] at hinfo
  generalize faultInfo s.unit.pc c 0 cause = info at hx hinfo
  generalize retiredWith a s = r at hx hpc hr hl hcyc
  generalize landDue s = b at *
  rw [hr, freeze_program (by exact hp)] at hx
  rw [← hcode]
  refine ⟨_, hx, hinfo, rfl, rfl, hpc, rfl, ?_, rfl, rfl, rfl, rfl, rfl, rfl, rfl, rfl, rfl⟩
  rw [← hl, ← hcyc]
  rfl

end Sys2Proof.Machine
end

section
/-! SUPPORT. EXIT, YIELD and the slots that speak to the dispatcher (R80, R81, R346 to R351). -/

namespace Sys2Proof.Machine

/-! ### What the dispatcher's notes and the cluster barrier leave alone -/

@[simp] theorem mapJob_unit (s : State) (key : Nat) (f : Job → Job) : (mapJob s key f).unit = s.unit := by
  unfold mapJob; split <;> rfl

@[simp] theorem mapJob_stamp (s : State) (key : Nat) (f : Job → Job) : (mapJob s key f).stamp = s.stamp := by
  unfold mapJob; split <;> rfl

@[simp] theorem mapOwnInfo_unit (s : State) (f : UnitInfo → UnitInfo) : (mapOwnInfo s f).unit = s.unit := mapJob_unit _ _ _

@[simp] theorem mapOwnInfo_stamp (s : State) (f : UnitInfo → UnitInfo) : (mapOwnInfo s f).stamp = s.stamp := mapJob_stamp _ _ _

/-- The cluster barrier changes only control registers. -/
theorem barrierAdvance_cr (s : State) : ∃ cr, barrierAdvance s = { s with unit := { s.unit with cr := cr } } := by
  unfold barrierAdvance
  dsimp only
  split
  · exact ⟨_, rfl⟩
  · exact ⟨_, rfl⟩

/-! ### EXIT and YIELD -/

@[simp] theorem unitQuiet_atIssue (n : Nat) (s : State) : unitQuiet (atIssue n s).unit = unitQuiet (landDue s).unit := rfl

section Slot

variable {s : State} {g : BitVec 4}

/-- A slot that only leaves something to be done once its bundle has issued. -/
theorem exec_after {i : Instr} {k : State → SlotAnswer} {a : After} (hx : exec i s = issueOne false false 1 false (fun s => guarded g s k) s)
    (hg : guardOn g (landDue s).unit = true) (hk : k (atIssue 1 s) = .go (setAfter (atIssue 1 s) a)) :
    exec i s = .next (afterIssue s.unit.pc 0 (retiredWith a s)) :=
  hx.trans (issueOne_go ((guarded_atIssue 1 hg).trans hk))

theorem afterIssue_exit (at_ : BitVec 19) (s : State) : afterIssue at_ 0 (retiredWith .exit s) = barrierAdvance
    ((retiredWith .exit s).mapUnit fun u => { u with run := .exited, landing := [], pc := at_, loops := popTo u.loops 0 }) := rfl

theorem afterIssue_save (at_ : BitVec 19) (s : State) : afterIssue at_ 0 (retiredWith .save s) =
    (retiredWith .save s).mapUnit fun u => { u with run := .yielded, landing := [] } := rfl

/-- R80: the unit ends; its registers, its banks, its accesses and its queues stand. -/
theorem exit_ends (hg : guardOn g (landDue s).unit = true) :
    let u := (landDue s).unit
    ∃ t, exec (.exit g) s = .next t ∧ t.unit.run = .exited ∧ t.unit.landing = [] ∧ t.unit.loops.depth = 0
      ∧ t.unit.g = u.g ∧ t.unit.pad = u.pad ∧ t.unit.accs = u.accs ∧ t.unit.nl = u.nl ∧ t.unit.ns = u.ns ∧ t.unit.nc = u.nc
      ∧ t.unit.nt = u.nt ∧ t.unit.cq0 = u.cq0 ∧ t.unit.cq1 = u.cq1 ∧ t.unit.rq = u.rq ∧ t.unit.kq = u.kq
      ∧ t = { landDue s with unit := t.unit } := by
  have hx := exec_after (i := .exit g) (a := .exit) rfl hg rfl
  have hr := retiredWith_sequenced .exit s
  rw [afterIssue_exit] at hx
  generalize retiredWith .exit s = r at hx hr
  generalize landDue s = b at *
  obtain ⟨cr, hb⟩ := barrierAdvance_cr (r.mapUnit fun u => { u with run := .exited, landing := [], pc := s.unit.pc, loops := popTo u.loops 0 })
  rw [hb, hr] at hx
  exact ⟨_, hx, rfl, rfl, rfl, rfl, rfl, rfl, rfl, rfl, rfl, rfl, rfl, rfl, rfl, rfl, rfl⟩

/-- R81: the save half ends. -/
theorem yield_saves (hg : guardOn g (landDue s).unit = true) (hp : (landDue s).unit.cr.pending = true)
    (hr : (landDue s).unit.cr.restore = false) (hq : unitQuiet (landDue s).unit = true) :
    ∃ t, exec (.yield g) s = .next t ∧ t.unit.run = .yielded ∧ t.unit.landing = [] ∧ t.unit.g = (landDue s).unit.g
      ∧ t = { landDue s with unit := t.unit } := by
  have hx := exec_after (i := .yield g) (a := .save) rfl hg (by
    simp only [cr_atIssue, unitQuiet_atIssue, hp, hr, hq, if_true, Bool.not_true, Bool.false_eq_true, if_false])
  have hr := retiredWith_sequenced .save s
  rw [afterIssue_save] at hx
  generalize retiredWith .save s = r at hx hr
  generalize landDue s = b at *
  rw [hr] at hx
  exact ⟨_, hx, rfl, rfl, rfl, rfl⟩

/-- A slot that goes on without an effect of its own. -/
theorem passes_of_go {i : Instr} {e st c : Bool} {k : State → SlotAnswer}
    (hx : exec i s = issueOne e st (slotWords i) c (fun s => guarded g s k) s) (hg : guardOn g (landDue s).unit = true)
    (hk : k (atIssue (slotWords i) s) = .go (atIssue (slotWords i) s)) : Passes i s :=
  acts_of_mapUnit (F := id) hx hg (by constructor <;> intros <;> rfl) hk

theorem yield_passes (hg : guardOn g (landDue s).unit = true) (hp : (landDue s).unit.cr.pending = false) : Passes (.yield g) s :=
  passes_of_go rfl hg (by simp only [cr_atIssue, hp, Bool.not_false, if_true])

theorem yield_waits (hg : guardOn g (landDue s).unit = true) (hp : (landDue s).unit.cr.pending = true)
    (hr : (landDue s).unit.cr.restore = false) (hq : unitQuiet (landDue s).unit = false) : Waits (.yield g) s false :=
  waits_of_block rfl hg (by
    simp only [cr_atIssue, unitQuiet_atIssue, hp, hr, hq, Bool.not_true, Bool.false_eq_true, if_false])

/-! ### TRIGGER, WAITDEP and PHASE -/

theorem trigger_acts (hg : guardOn g (landDue s).unit = true) :
    Acts (.trigger g) s fun v => { v with triggers := v.triggers ++ [v.nextAcc] } :=
  acts_of_mapUnit rfl hg (by constructor <;> intros <;> rfl) rfl

/-- Whether nothing holds a WAITDEP: no producer is to be waited for, or each one lets it go (R347). -/
def depsMet (s : State) : Bool :=
  match unitJob s, unitLaunch s with
  | some j, some l => (producersOf j l).all producerMet
  | _, _ => true

/-- The dispatcher no longer notes the unit as held in a WAITDEP. -/
def noteGoing (s : State) : State := mapOwnInfo s fun i => { i with waits := false }

@[simp] theorem noteGoing_unit (s : State) : (noteGoing s).unit = s.unit := mapOwnInfo_unit _ _
@[simp] theorem noteGoing_stamp (s : State) : (noteGoing s).stamp = s.stamp := mapOwnInfo_stamp _ _

theorem slotWaitdep_eq (s : State) : slotWaitdep g s = guarded g s fun s =>
    if s.unit.wdheld || depsMet s then .go (acquire ((noteGoing s).mapUnit fun u => { u with wdheld := true }) 2)
    else .hold fun s => mapOwnInfo s fun i => { i with waits := true } := rfl

/-- The unit as a WAITDEP that goes on leaves it: with the acquire of R347 made. -/
def depsAcquired (stamp : Nat) (u : Unit) : Unit := { u with wdheld := true, l1bound := Vector.replicate 16 stamp }

/-- A slot that goes on with an effect that is not on the unit alone: what its bundle does to the unit. -/
theorem issued_of_go {i : Instr} {e st c : Bool} {f : State → SlotAnswer} {x : State} {v : Unit}
    (hx : exec i s = issueOne e st (slotWords i) c f s) (hf : f (atIssue (slotWords i) s) = .go x)
    (hv : x.unit = { v with ctx := startCtx (slotWords i) (landDue s) }) (hpc : v.pc = (landDue s).unit.pc)
    (hcyc : v.cyc = (landDue s).unit.cyc) (hl : v.loops = (landDue s).unit.loops) (hi : v.cr.issued = (landDue s).unit.cr.issued)
    (hp : v.cr.pending = (landDue s).unit.cr.pending) :
    ∃ t, exec i s = .next t ∧ Issued (slotWords i) (landDue s) t ∧ t.unit.landing = v.landing ∧ t = sequenced { x with unit := v } t := by
  obtain ⟨h1, h2, h3⟩ := retire_effect e (slotWords i) s.unit.pc { x with unit := (landDue s).unit } v hpc hcyc hl hi hp
  have hgo := hx.trans (issueOne_go (e := e) (st := st) (c := c) hf)
  rw [show x = { x with unit := { v with ctx := startCtx (slotWords i) (landDue s) } } by rw [← hv]] at hgo
  exact ⟨_, hgo, ⟨h1.cycle, h1.count, h1.next⟩, h2, h3⟩

theorem waitdep_goes (hg : guardOn g (landDue s).unit = true) (h : ((landDue s).unit.wdheld || depsMet (landDue s)) = true) :
    ∃ t, exec (.waitdep g) s = .next t ∧ Issued 1 (landDue s) t ∧ t.unit.wdheld = true
      ∧ t.unit.l1bound = Vector.replicate 16 (landDue s).stamp ∧ t.unit.g = (landDue s).unit.g
      ∧ t.unit.landing = (landDue s).unit.landing := by
  have hgo : slotWaitdep g (atIssue 1 s) = .go (acquire ((noteGoing (atIssue 1 s)).mapUnit fun u => { u with wdheld := true }) 2) := by
    rw [slotWaitdep_eq, guarded_atIssue 1 hg]
    exact if_pos h
  have hv : (acquire ((noteGoing (atIssue 1 s)).mapUnit fun u => { u with wdheld := true }) 2).unit
      = { depsAcquired (landDue s).stamp (landDue s).unit with ctx := startCtx 1 (landDue s) } := by
    simp [acquire, depsAcquired, atIssue_unit]
  obtain ⟨t, hx, hi, hl, ht⟩ := issued_of_go (i := .waitdep g) rfl hgo hv rfl rfl rfl rfl rfl
  generalize landDue s = b at *
  exact ⟨t, hx, hi, by rw [ht]; rfl, by rw [ht]; rfl, by rw [ht]; rfl, hl⟩

theorem phase_traps (hg : guardOn g (landDue s).unit = true) (h : (landDue s).unit.launch.phb = false) : Traps (.phase g) s 0x32 0#12 :=
  traps_of_trap (i := .phase g) rfl hg (by simp [atIssue_unit, h])

theorem acquire_cluster (s : State) : acquire s 2 = s.mapUnit fun u => { u with l1bound := Vector.replicate 16 s.stamp } := rfl

/-- The unit as a PHASE that goes on leaves it: with the acquire of R351 made. -/
def phaseLeft (stamp : Nat) (u : Unit) : Unit :=
  { u with launch := { u.launch with arrived := none }, l1bound := Vector.replicate 16 stamp }

/-- What a PHASE of a unit that has arrived answers (R350). -/
theorem slotPhase_arrived {j : Job} {p : W32} (hg : guardOn g s.unit = true) (hb : s.unit.launch.phb = true) (hj : unitJob s = some j)
    (ha : s.unit.launch.arrived = some p) : slotPhase g s =
      if p = j.phase then (if othersOut s j = [] then .block else .hold phaseWait) else .go (s.mapUnit (phaseLeft s.stamp)) := by
  simp [slotPhase, guarded_on hg, hb, hj, ha, acquire_cluster, State.mapUnit, phaseLeft]

theorem phase_goes {j : Job} {p : W32} (hg : guardOn g (landDue s).unit = true) (hb : (landDue s).unit.launch.phb = true)
    (hj : unitJob (landDue s) = some j) (ha : (landDue s).unit.launch.arrived = some p) (hp : p ≠ j.phase) :
    Acts (.phase g) s (phaseLeft (landDue s).stamp) := by
  have hgo := (slotPhase_arrived (s := atIssue 1 s) hg hb hj ha).trans (if_neg hp)
  exact acts_of_mapUnit rfl hg (by constructor <;> intros <;> rfl) ((guarded_atIssue 1 hg).symm.trans hgo)

theorem phase_waits {j : Job} {p : W32} (hg : guardOn g (landDue s).unit = true) (hb : (landDue s).unit.launch.phb = true)
    (hj : unitJob (landDue s) = some j) (ha : (landDue s).unit.launch.arrived = some p) (hp : p = j.phase)
    (ho : othersOut (landDue s) j = []) : Waits (.phase g) s true := by
  have ho' : othersOut (atIssue 1 s) j = [] := ho
  exact issueOne_block (f := slotPhase g) (((slotPhase_arrived (s := atIssue 1 s) hg hb hj ha).trans (if_pos hp)).trans (if_pos ho'))

end Slot

/-- A WAITDEP goes on where the unit has no job, where its condition has held before, and where every producer lets it go. -/
theorem depsMet_of {s : State} (h : unitJob s = none ∨ s.unit.wdheld = true
    ∨ ∃ j l, unitJob s = some j ∧ unitLaunch s = some l ∧ (producersOf j l).all producerMet = true) : (s.unit.wdheld || depsMet s) = true := by
  rcases h with h | h | ⟨j, l, hj, hl, hm⟩
  · simp [depsMet, h]
  · simp [h]
  · simp [depsMet, hj, hl, hm]

/-- Settles O19, instruction by instruction. -/
theorem unitControlCompletes : Obligations.UnitControlCompletes :=
  ⟨fun _ _ hg => ⟨exit_ends hg, yield_passes hg, yield_saves hg, yield_waits hg⟩,
    fun _ _ hg => ⟨trigger_acts hg, fun h => waitdep_goes hg (depsMet_of h), phase_traps hg, fun _ _ => phase_goes hg, fun _ _ => phase_waits hg⟩⟩

end Sys2Proof.Machine
end

section
/-! SUPPORT. Taken transfers: where the next bundle is and which loop levels stay (R69 to R73, R77). -/

namespace Sys2Proof.Machine

/-! ### Loop levels by number -/

theorem nth_toList {α : Type} {n : Nat} (v : Vector α n) (k : Nat) (hk : k < n) (d : α) : nth v.toList k d = v[k] := by
  simp [nth, hk]

/-- The first index of a run at which p holds, or the run's end: the indices below it are those up to which p holds nowhere. -/
theorem lt_first_iff (p : Nat → Bool) (n : Nat) :
    ((upto 0 n).find? p).getD n ≤ n ∧ ∀ k < n, k < ((upto 0 n).find? p).getD n ↔ ∀ j ≤ k, p j = false := by
  rw [upto_zero]
  cases h : (List.range n).find? p with
  | none =>
    have hall := List.find?_range_eq_none.1 h
    refine ⟨Nat.le_refl _, fun k hk => ⟨fun _ j hj => by simpa using hall j (by omega), fun _ => hk⟩⟩
  | some i =>
    obtain ⟨hp, hi, hbelow⟩ := List.find?_range_eq_some.1 h
    rw [List.mem_range] at hi
    refine ⟨hi.le, fun k _ => ⟨fun hki j hj => by simpa using hbelow j (lt_of_le_of_lt hj hki), fun hall => ?_⟩⟩
    exact Nat.lt_of_not_le fun hle => by simpa [hp] using hall i hle

/-- Whether an address lies in the range of a level (R77). -/
theorem inLevel_iff (u : Unit) (k : Fin 4) (a : Nat) :
    inLevel u k.val a = true ↔ (u.loops.start[k]).toNat ≤ a ∧ a ≤ lastWord u 7 (u.loops.last[k]).toNat := by
  simp only [inLevel, nth_toList _ _ k.isLt, Bool.and_eq_true, decide_eq_true_eq]
  rfl

theorem depthAfter_le (u : Unit) (pc t : Nat) : depthAfter u pc t ≤ u.loops.depth := (lt_first_iff _ _).1

/-- The levels that a transfer leaves active: none up to them holds the bundle and not its target (R77). -/
theorem lt_depthAfter_iff (u : Unit) (pc t : Nat) {k : Nat} (hk : k < u.loops.depth) :
    k < depthAfter u pc t ↔ ∀ j ≤ k, inLevel u j pc = true → inLevel u j t = true := by
  rw [depthAfter, (lt_first_iff _ _).2 k hk]
  simp

theorem depthAfter_zero {u : Unit} (h : u.loops.depth = 0) (pc t : Nat) : depthAfter u pc t = 0 :=
  Nat.le_zero.1 (h ▸ depthAfter_le u pc t)

/-! ### A transfer taken -/

/-- The state at issue after a transfer to t that leaves the loop stack at loops and puts link in flight. -/
def taken (t : Nat) (loops : LoopState) (link : List Landing) (s : State) : State :=
  (atIssue 1 s).mapUnit fun u =>
    { u with loops := loops, landing := u.landing ++ link, ctx := { u.ctx with target := some t, jump := true } }

/-- What the bundle of a taken transfer leaves (R69, R77): no end test runs. -/
theorem exec_taken {i : Instr} {s : State} {f : State → SlotAnswer} {t : Nat} {loops : LoopState} {link : List Landing}
    (hx : exec i s = issueOne false false 1 false f s) (hf : f (atIssue 1 s) = .go (taken t loops link s)) :
    ∃ r, exec i s = .next r ∧ r.unit.pc = BitVec.ofNat 19 t ∧ r.unit.cyc = (landDue s).unit.cyc + 1
      ∧ r.unit.landing = (landDue s).unit.landing ++ link ∧ r.unit.loops = loops ∧ r = sequenced (landDue s) r := by
  refine ⟨retire (taken t loops link s), hx.trans (issueOne_go hf), ?_⟩
  rw [taken, atIssue_unit]
  generalize landDue s = b
  exact ⟨rfl, rfl, rfl, rfl, rfl⟩

section Slot

variable {i : Instr} {s : State} {f : State → SlotAnswer} {t : Nat}

theorem takeTo_atIssue (s : State) (t : Nat) : takeTo (atIssue 1 s) t = taken t
    (popTo (landDue s).unit.loops (depthAfter (landDue s).unit (landDue s).unit.pc.toNat t)) [] s := by
  rw [taken, takeTo, atIssue_unit]
  generalize landDue s = b
  simp only [State.mapUnit, List.append_nil]
  rfl

theorem transfers_of_taken {loops : LoopState} {link : List Landing} (hx : exec i s = issueOne false false 1 false f s)
    (hf : f (atIssue 1 s) = .go (taken t loops link s)) (ht : t < 0x80000)
    (hl : (landDue s).unit.loops.depth = 0 → loops.depth = 0 ∧ loops.lc = (landDue s).unit.loops.lc) : Transfers i s t link := by
  obtain ⟨r, hr, hpc, hcyc, hland, hloops, hseq⟩ := exec_taken hx hf
  refine ⟨r, hr, ?_, hcyc, hland, hloops ▸ hl, hseq⟩
  rw [hpc, BitVec.toNat_ofNat]
  exact Nat.mod_eq_of_lt ht

/-- A BR, JR or JT: the transfer, and the levels that it leaves. -/
theorem transfers_of_takeTo (hx : exec i s = issueOne false false 1 false f s) (hf : f (atIssue 1 s) = .go (takeTo (atIssue 1 s) t))
    (ht : t < 0x80000) : Transfers i s t [] ∧ LeavesLevels i s t := by
  rw [takeTo_atIssue] at hf
  refine ⟨transfers_of_taken hx hf ht fun h => ⟨depthAfter_zero h _ _, rfl⟩, fun _ => ?_⟩
  obtain ⟨r, hr, -, -, -, hloops, -⟩ := exec_taken hx hf
  refine ⟨r, hr, by rw [hloops]; rfl, by rw [hloops]; exact depthAfter_le _ _ _, fun k hk => ?_⟩
  have hiff := lt_depthAfter_iff (landDue s).unit (landDue s).unit.pc.toNat t hk
  rw [hloops]
  exact hiff.trans ⟨fun h j hj hin => (inLevel_iff _ j t).1 (h j.val hj ((inLevel_iff _ j _).2 hin)),
    fun h j hj hin => (inLevel_iff _ ⟨j, hj.trans_lt k.isLt⟩ t).2 (h _ hj ((inLevel_iff _ ⟨j, hj.trans_lt k.isLt⟩ _).1 hin))⟩

end Slot

/-! ### Targets (R70 to R73) -/

/-- A legal target (R72). -/
theorem targetOk_iff (t : Int) : targetOk t = true ↔ 0 ≤ t ∧ t < 0x80000 ∧ t % 4 = 0 := by
  simp only [targetOk, Bool.and_eq_true, decide_eq_true_eq, beq_iff_eq, and_assoc]
  rfl

/-- The effect of a CALL at issue: its link is in flight and no level pops (R70, R77). -/
theorem call_atIssue (s : State) (t : Nat) :
    (pushG (atIssue 1 s) 1 63#6 (w64 (atIssue 1 s).unit.ctx.npc)).mapUnit (fun u => { u with ctx := { u.ctx with target := some t, jump := true } })
      = taken t (landDue s).unit.loops
        [⟨(landDue s).unit.cyc + 1, (landDue s).unit.nextAcc, .g 63#6 (BitVec.ofNat 64 ((landDue s).unit.pc.toNat + 4)), 0#6⟩] s := by
  rw [taken, atIssue_unit]
  generalize landDue s = b
  rfl

/-! ### Jump tables (R73) -/

theorem tableWord_eq (s : State) (a : Int) : tableWord s a = if 0 ≤ a ∧ a < 0x80000 then some (fetchWord s.unit a.toNat) else none := by
  simp only [tableWord, Bool.and_eq_true, decide_eq_true_eq]
  rfl

/-- The target that a jump table gives: both of its words lie in the store, and the second is a target. -/
theorem jumpTarget_eq (s : State) (base : Int) (index : Nat) :
    let k := min index ((fetchWord s.unit base.toNat).toNat / 2 ^ 19 % 256)
    let e := (fetchWord s.unit (base.toNat + 4 * k)).toNat
    jumpTarget s base index = if (0 ≤ base ∧ base < 0x80000 ∧ base + 4 * (k : Nat) < 0x80000) ∧ e / 2 ^ 27 = 0 ∧ e % 4 = 0
      then some (e % 2 ^ 19) else none := by
  intro k e
  by_cases hb : 0 ≤ base ∧ base < 0x80000
  · have hk : 0 ≤ base + 4 * (k : Nat) := by omega
    have hn : (base + 4 * (k : Nat)).toNat = base.toNat + 4 * k := by omega
    have hmod : e % 2 ^ 19 % 4 = e % 4 := Nat.mod_mod_of_dvd e (by decide)
    have fold : min index ((fetchWord s.unit base.toNat).toNat / 2 ^ 19 % 256) = k := rfl
    simp only [jumpTarget, tableWord_eq, hb, and_self, if_true, Option.bind_some, fold]
    have bad : (e / 2 ^ 27 != 0 || e % 4 != 0) = true ↔ ¬(e / 2 ^ 27 = 0 ∧ e % 4 = 0) := by
      rw [Bool.or_eq_true, bne_iff_ne, bne_iff_ne, not_and_or]
    by_cases hin : base + 4 * (k : Nat) < 0x80000
    · rw [if_pos ⟨hk, hin⟩, Option.bind_some, hn, show (fetchWord s.unit (base.toNat + 4 * k)).toNat = e from rfl, hmod, if_congr bad rfl rfl,
        ite_not]
      exact if_congr ⟨fun h => ⟨⟨trivial, trivial, hin⟩, h⟩, fun h => h.2⟩ rfl rfl
    · rw [if_neg fun h => hin h.2, if_neg fun h => hin h.1.2.2, Option.bind_none]
  · rw [if_neg (by tauto)]
    simp only [jumpTarget, tableWord_eq, hb, if_false, Option.bind_none]

theorem keepsLevels_of_taken {i : Instr} {s : State} {f : State → SlotAnswer} {t : Nat} {link : List Landing}
    (hx : exec i s = issueOne false false 1 false f s) (hf : f (atIssue 1 s) = .go (taken t (landDue s).unit.loops link s)) :
    KeepsLevels i s := by
  obtain ⟨r, hr, -, -, -, hloops, -⟩ := exec_taken hx hf
  exact ⟨r, hr, hloops⟩

/-! ### The four transfers -/

section Slot

variable {s : State} {g : BitVec 4} (hg : guardOn g (landDue s).unit = true)

include hg

theorem br_reaches {o : BitVec 18} {t : Int} (ht : t = (landDue s).unit.pc.toNat + 4 * o.toInt) (h : 0 ≤ t ∧ t < 0x80000 ∧ t % 4 = 0) :
    Transfers (.br o g) s t.toNat [] ∧ LeavesLevels (.br o g) s t.toNat := by
  subst ht
  exact transfers_of_takeTo rfl ((guarded_atIssue 1 hg).trans (if_pos ((targetOk_iff _).2 h))) (by omega)

theorem call_reaches {o : BitVec 18} {t : Int} (ht : t = (landDue s).unit.pc.toNat + 4 * o.toInt) (h : 0 ≤ t ∧ t < 0x80000 ∧ t % 4 = 0) :
    Transfers (.call o g) s t.toNat
        [⟨(landDue s).unit.cyc + 1, (landDue s).unit.nextAcc, .g 63#6 (BitVec.ofNat 64 ((landDue s).unit.pc.toNat + 4)), 0#6⟩]
      ∧ KeepsLevels (.call o g) s := by
  subst ht
  have hf : slotCall o g (atIssue 1 s) = _ :=
    (guarded_atIssue 1 hg).trans ((if_pos ((targetOk_iff _).2 h)).trans (congrArg SlotAnswer.go (call_atIssue s _)))
  exact ⟨transfers_of_taken rfl hf (by omega) fun h0 => ⟨h0, rfl⟩, keepsLevels_of_taken rfl hf⟩

theorem br_call_trap {o : BitVec 18} {t : Int} (ht : t = (landDue s).unit.pc.toNat + 4 * o.toInt) (h : ¬(0 ≤ t ∧ t < 0x80000 ∧ t % 4 = 0)) :
    Traps (.br o g) s 0x12 0#12 ∧ Traps (.call o g) s 0x12 0#12 := by
  subst ht
  exact ⟨traps_of_trap rfl hg (if_neg fun hok => h ((targetOk_iff _).1 hok)),
    traps_of_trap rfl hg (if_neg fun hok => h ((targetOk_iff _).1 hok))⟩

theorem jr_reaches {a : BitVec 6} {x : Nat} (hx : x = (gReg (landDue s).unit a).toNat) (h : x < 0x80000 ∧ x % 4 = 0) :
    Transfers (.jr a g) s x [] ∧ LeavesLevels (.jr a g) s x := by
  subst hx
  have hok : targetOk (gReg (landDue s).unit a).toNat = true := (targetOk_iff _).2 (by omega)
  exact transfers_of_takeTo rfl ((guarded_atIssue 1 hg).trans (if_pos hok)) h.1

theorem jr_traps {a : BitVec 6} {x : Nat} (hx : x = (gReg (landDue s).unit a).toNat) (h : ¬(x < 0x80000 ∧ x % 4 = 0)) :
    Traps (.jr a g) s 0x12 0#12 := by
  subst hx
  refine traps_of_trap rfl hg (if_neg fun hok => ?_)
  have h' := (targetOk_iff _).1 hok
  simp only [gReg_atIssue] at h'
  omega

theorem jt_reaches {d : BitVec 6} {i : BitVec 12} {t : Nat}
    (h : jumpTarget (atIssue 1 s) ((landDue s).unit.pc.toNat + 4 * i.toInt) (gReg (landDue s).unit d).toNat = some t) (ht : t < 0x80000) :
    Transfers (.jt d i g) s t [] ∧ LeavesLevels (.jt d i g) s t :=
  transfers_of_takeTo (f := slotJt d i g) rfl ((guarded_atIssue 1 hg).trans (by simp only [wordOffset, pc_atIssue, gReg_atIssue, h])) ht

theorem jt_traps {d : BitVec 6} {i : BitVec 12}
    (h : jumpTarget (atIssue 1 s) ((landDue s).unit.pc.toNat + 4 * i.toInt) (gReg (landDue s).unit d).toNat = none) :
    Traps (.jt d i g) s 0x15 0#12 :=
  traps_of_trap rfl hg (by
    have h' : jumpTarget (atIssue (slotWords (.jt d i g)) s) ((landDue s).unit.pc.toNat + 4 * i.toInt) (gReg (landDue s).unit d).toNat = none := h
    simp only [wordOffset, pc_atIssue, gReg_atIssue, h'])

end Slot

/-- Settles O15: each target is legal, and the transfer is taken, or the slot traps. -/
theorem transfersReachTargets : Obligations.TransfersReachTargets := by
  refine ⟨fun s o a g hg => ⟨fun h0 h1 h2 => ?_, br_call_trap hg rfl, fun h0 h1 => jr_reaches hg rfl ⟨h0, h1⟩, jr_traps hg rfl⟩, fun s d i g hg => ?_⟩
  · obtain ⟨hbr, hbl⟩ := br_reaches hg rfl ⟨h0, h1, h2⟩
    obtain ⟨hcall, hck⟩ := call_reaches hg rfl ⟨h0, h1, h2⟩
    exact ⟨hbr, hcall, hbl, hck⟩
  · intro u base last k e inside
    have htarget := jumpTarget_eq (atIssue 1 s) base (gReg u d).toNat
    exact ⟨fun hin h0 h4 => jt_reaches hg (htarget.trans (if_pos ⟨hin, h0, h4⟩)) (Nat.mod_lt _ (by decide)),
      fun hbad => jt_traps hg (htarget.trans (if_neg hbad))⟩

end Sys2Proof.Machine
end

section
/-! SUPPORT. Hardware loops (R74 to R76): what a LOOP pushes, skips or traps on, and the end test of a bundle. -/

namespace Sys2Proof.Machine

/-! ### A slot whose guard is false (R20) -/

/-- Every slot that has a guard looks at it first. -/
theorem exec_guarded {i : Instr} {g : BitVec 4} (h : i.guard? = some g) (s : State) :
    ∃ e st c k, exec i s = issueOne e st (slotWords i) c (fun s => guarded g s k) s := by
  cases i <;> cases h <;> exact ⟨_, _, _, _, rfl⟩

/-! ### The end test (R75) -/

/-- No end test runs where the innermost active level does not end at the bundle. -/
theorem endTest_elsewhere {l : LoopState} {pc : Nat} (k : Nat)
    (h : ∀ hd : 0 < l.depth ∧ l.depth ≤ 4, (l.last[l.depth - 1]'(by omega)).toNat ≠ pc) : endTest pc k l = (l, none) := by
  cases k with
  | zero => rfl
  | succ k =>
    rw [endTest]
    split
    · next hd => simp [h hd]
    · rfl

section OneLevel

variable {l : LoopState} {pc : Nat} (h1 : l.depth = 1)

include h1

theorem endTest_elsewhere_one (k : Nat) (h : l.last[0].toNat ≠ pc) : endTest pc k l = (l, none) :=
  endTest_elsewhere k fun _ => by simpa [h1] using h

/-- The one level goes back to its start. -/
theorem endTest_repeats (h : l.last[0].toNat = pc) (hn : 1 < l.lc[l.sel[0].toNat].toNat) :
    endTest pc 4 l = ({ l with lc := l.lc.setIfInBounds l.sel[0].toNat (l.lc[l.sel[0].toNat] - 1) }, some l.start[0].toNat) := by
  rw [endTest, dif_pos ⟨by omega, by omega⟩]
  simp [h1, h, nth_toList _ _ l.sel[0].isLt, Nat.not_le.2 hn]

/-- The one level pops. -/
theorem endTest_pops (h : l.last[0].toNat = pc) (hn : l.lc[l.sel[0].toNat].toNat ≤ 1) :
    endTest pc 4 l = (popTo { l with lc := l.lc.setIfInBounds l.sel[0].toNat 0#32 } 0, none) := by
  rw [endTest, dif_pos ⟨by omega, by omega⟩]
  simp [h1, h, nth_toList _ _ l.sel[0].isLt, hn, endTest_depth_zero _ _ (popTo _ 0) rfl]

end OneLevel

/-- The retirement of a bundle without a transfer, by its end test. -/
theorem retire_tested {x : State} {loops : LoopState} {back : Option Nat} (hj : x.unit.ctx.jump = false)
    (he : endTest x.unit.pc.toNat 4 x.unit.loops = (loops, back)) : (retire x).unit.loops = loops
      ∧ (retire x).unit.pc = BitVec.ofNat 19 (x.unit.ctx.target.getD (back.getD x.unit.ctx.npc)) := by
  cases ht : x.unit.ctx.target <;> cases back <;> simp [retire, hj, he, ht]

/-- The state at issue, due results landed in b, with another loop stack and a target in place. -/
def looped (loops : LoopState) (target : Option Nat) (n : Nat) (b : State) : State :=
  { b with unit := { b.unit with loops := loops, ctx := { startCtx n b with target := target } } }

theorem looped_self (n : Nat) (s : State) : looped (landDue s).unit.loops none n (landDue s) = atIssue n s := by
  rw [atIssue_unit]
  generalize landDue s = b
  rfl

theorem afterIssue_none {s : State} (h : s.unit.ctx.after = .none) (a : BitVec 19) (k : Nat) : afterIssue a k s = s := by
  rw [afterIssue, h]

/-- What the retirement of such a bundle leaves, by the end test on that stack. -/
theorem retire_looped (e : Bool) {loops loops' : LoopState} (target : Option Nat) {back : Option Nat} (n : Nat) {b : State}
    (he : endTest b.unit.pc.toNat 4 loops = (loops', back)) :
    let t := retire (afterSlot e (looped loops target n b))
    t = sequenced b t ∧ t.unit.cyc = b.unit.cyc + 1 ∧ t.unit.landing = b.unit.landing ∧ t.unit.loops = loops'
      ∧ t.unit.pc = BitVec.ofNat 19 (target.getD (back.getD (b.unit.pc.toNat + 4 * n))) ∧ t.unit.ctx.after = .none := by
  have hr := retire_tested (x := afterSlot e (looped loops target n b)) (loops := loops') (back := back) (by cases e <;> rfl)
    (by cases e <;> exact he)
  refine ⟨?_, ?_, ?_, hr.1, hr.2.trans (by cases e <;> rfl), ?_⟩
  · cases e <;> simp [looped, afterSlot, retire, State.mapUnit, sequenced]
  all_goals cases e <;> rfl

/-- A slot that goes on with nothing but a loop stack and a target. -/
theorem exec_looped {i : Instr} {s : State} {e st c : Bool} {f : State → SlotAnswer} {n : Nat} {loops loops' : LoopState}
    {target back : Option Nat} (hx : exec i s = issueOne e st n c f s) (hf : f (atIssue n s) = .go (looped loops target n (landDue s)))
    (he : endTest (landDue s).unit.pc.toNat 4 loops = (loops', back)) :
    ∃ t, exec i s = .next t ∧ t = sequenced (landDue s) t ∧ t.unit.cyc = (landDue s).unit.cyc + 1
      ∧ t.unit.landing = (landDue s).unit.landing ∧ t.unit.loops = loops'
      ∧ t.unit.pc = BitVec.ofNat 19 (target.getD (back.getD ((landDue s).unit.pc.toNat + 4 * n))) := by
  obtain ⟨hseq, hcyc, hland, hloops, hpc, hafter⟩ := retire_looped e target n he
  exact ⟨_, hx.trans ((issueOne_go hf).trans (by rw [afterIssue_none hafter])), hseq, hcyc, hland, hloops, hpc⟩

/-- A slot guarded off, by the end test of its bundle. -/
theorem off_looped {i : Instr} {g : BitVec 4} {s : State} (h : i.guard? = some g) (hg : guardOn g (landDue s).unit = false)
    {loops : LoopState} {back : Option Nat} (he : endTest (landDue s).unit.pc.toNat 4 (landDue s).unit.loops = (loops, back)) :
    ∃ t, exec i s = .next t ∧ t = sequenced (landDue s) t ∧ t.unit.loops = loops
      ∧ t.unit.pc = BitVec.ofNat 19 (back.getD ((landDue s).unit.pc.toNat + 4 * slotWords i)) := by
  obtain ⟨e, st, c, k, hx⟩ := exec_guarded h s
  have hoff : guarded g (atIssue (slotWords i) s) k = .go (looped (landDue s).unit.loops none (slotWords i) (landDue s)) := by
    rw [looped_self]
    exact guarded_off hg
  obtain ⟨t, ht, hseq, -, -, hl, hpc⟩ := exec_looped hx hoff he
  exact ⟨t, ht, hseq, hl, hpc⟩

/-! ### LOOP and LOOPI (R74, R76) -/

/-- What a LOOP on counter n traps on at fewer than four levels (R76): the body ends beyond the enclosing one, or the counter is in use. -/
def Improper (l : LoopState) (n : BitVec 2) (last : Nat) : Prop :=
  (∃ h : 0 < l.depth ∧ l.depth ≤ 4, (l.last[l.depth - 1]'(by omega)).toNat < last) ∨ ∃ k : Fin 4, k.val < l.depth ∧ l.sel[k] = n

section Cause

variable {u : Unit} {n : BitVec 2} {last : Nat}

theorem ends_beyond_iff (l : LoopState) (last : Nat) : (∃ h : 0 < l.depth ∧ l.depth ≤ 4, (l.last[l.depth - 1]'(by omega)).toNat < last)
    ↔ 0 < l.depth ∧ l.depth ≤ 4 ∧ (nth l.last.toList (l.depth - 1) 0#19).toNat < last := by
  refine ⟨fun ⟨h, hlt⟩ => ⟨h.1, h.2, ?_⟩, fun ⟨h0, h4, hlt⟩ => ⟨⟨h0, h4⟩, ?_⟩⟩
  · rwa [nth_toList _ _ (by omega)]
  · rwa [nth_toList _ _ (by omega)] at hlt

theorem counter_used_iff {l : LoopState} (h : l.depth < 4) (n : BitVec 2) : (∃ k : Fin 4, k.val < l.depth ∧ l.sel[k] = n)
    ↔ ((upto 0 l.depth).any fun i => nth l.sel.toList i 0#2 == n) = true := by
  simp only [List.any_eq_true, mem_upto, beq_iff_eq]
  refine ⟨fun ⟨k, hk, he⟩ => ⟨k.val, by omega, (nth_toList _ _ k.isLt _).trans he⟩, fun ⟨i, hi, he⟩ => ⟨⟨i, by omega⟩, by simp; omega, ?_⟩⟩
  exact (nth_toList _ _ _ _).symm.trans he

theorem loopCause_full (h : 4 ≤ u.loops.depth) : loopCause u n last = some 0x13 := by
  simp [loopCause, h]

theorem loopCause_improper (h : u.loops.depth < 4) (hi : Improper u.loops n last) : loopCause u n last = some 0x14 := by
  rw [Improper, ends_beyond_iff, counter_used_iff h] at hi
  simp only [loopCause, Nat.not_le.2 h, if_false]
  by_cases hb : 0 < u.loops.depth ∧ u.loops.depth ≤ 4 ∧ (nth u.loops.last.toList (u.loops.depth - 1) 0#19).toNat < last
  · simp [hb.2.2, Nat.pos_iff_ne_zero.1 hb.1]
  · simp [hi.resolve_left hb]

theorem loopCause_proper (h : u.loops.depth < 4) (hi : ¬Improper u.loops n last) : loopCause u n last = none := by
  rw [Improper, ends_beyond_iff, counter_used_iff h, not_or] at hi
  obtain ⟨hb, hs⟩ := hi
  have hb' : ¬(0 < u.loops.depth ∧ (nth u.loops.last.toList (u.loops.depth - 1) 0#19).toNat < last) := fun e => hb ⟨e.1, h.le, e.2⟩
  rw [loopCause, if_neg (Nat.not_le.2 h), if_neg (by simpa [Nat.pos_iff_ne_zero] using hb'), if_neg hs]

end Cause

/-- The loop stack with one level more (R74). -/
def pushed (l : LoopState) (n : BitVec 2) (count : W32) (first last : Nat) : LoopState :=
  { lc := l.lc.set n.toNat count n.isLt
    start := l.start.setIfInBounds l.depth (BitVec.ofNat 19 first)
    last := l.last.setIfInBounds l.depth (BitVec.ofNat 19 last)
    sel := l.sel.setIfInBounds l.depth n
    depth := l.depth + 1 }

section Loop

variable {s : State} {n : BitVec 2} {count : W32} {d : BitVec 9} {k : Nat}

theorem npc_atIssue (k : Nat) (s : State) : (atIssue k s).unit.ctx.npc = (landDue s).unit.pc.toNat + 4 * k := rfl

theorem loopCause_atIssue (k : Nat) (s : State) (n : BitVec 2) (last : Nat) :
    loopCause (atIssue k s).unit n last = loopCause (landDue s).unit n last := rfl

theorem loopSlot_traps {cause : Nat} (h : loopCause (landDue s).unit n ((landDue s).unit.pc.toNat + 4 * k + 4 * d.toNat) = some cause) :
    loopSlot n count d (atIssue k s) = .trap cause 0#12 := by
  simp only [loopSlot, npc_atIssue, loopCause_atIssue, h]

theorem loopSlot_skips (h : loopCause (landDue s).unit n ((landDue s).unit.pc.toNat + 4 * k + 4 * d.toNat) = none) (hc : count = 0#32) :
    loopSlot n count d (atIssue k s) = .go (looped (landDue s).unit.loops
      (some (lastWord (landDue s).unit 7 ((landDue s).unit.pc.toNat + 4 * k + 4 * d.toNat) + 4)) k (landDue s)) := by
  simp only [loopSlot, npc_atIssue, loopCause_atIssue, h, hc, beq_self_eq_true, if_true]
  rw [atIssue_unit]
  generalize landDue s = b
  rfl

theorem loopSlot_pushes (h : loopCause (landDue s).unit n ((landDue s).unit.pc.toNat + 4 * k + 4 * d.toNat) = none) (hc : count ≠ 0#32) :
    loopSlot n count d (atIssue k s) = .go (looped (pushed (landDue s).unit.loops n count ((landDue s).unit.pc.toNat + 4 * k)
      ((landDue s).unit.pc.toNat + 4 * k + 4 * d.toNat)) none k (landDue s)) := by
  simp only [loopSlot, npc_atIssue, loopCause_atIssue, h, beq_iff_eq, hc, if_false]
  rw [atIssue_unit]
  generalize landDue s = b
  rfl

end Loop

/-! ### The stack after a LOOP -/

section Stack

variable {l : LoopState} {n : BitVec 2} {pc first last : Nat} {count : W32}

/-- A LOOP that may issue is not the last bundle of the level around it. -/
theorem endTest_of_proper (hi : ¬Improper l n last) (hlast : pc < last) : endTest pc 4 l = (l, none) :=
  endTest_elsewhere 4 fun hd e => hi (.inl ⟨hd, by omega⟩)

/-- Nor is it the last bundle of its own body. -/
theorem endTest_pushed (hlast : pc < last) (hlt : last < 2 ^ 19) :
    endTest pc 4 (pushed l n count first last) = (pushed l n count first last, none) := by
  refine endTest_elsewhere 4 fun _ => ?_
  simp only [pushed, Nat.add_sub_cancel, Vector.getElem_setIfInBounds_self, BitVec.toNat_ofNat, Nat.mod_eq_of_lt hlt]
  omega

/-- The counter and the level that the push writes, and those that it leaves. -/
theorem pushed_spec (hfirst : first < 2 ^ 19) (hlt : last < 2 ^ 19) :
    let t := pushed l n count first last
    (∀ k : Fin 4, t.lc[k] = if k = n.toFin then count else l.lc[k])
      ∧ ∀ k : Fin 4, (k.val = l.depth → t.start[k].toNat = first ∧ t.last[k].toNat = last ∧ t.sel[k] = n)
        ∧ (k.val ≠ l.depth → t.start[k] = l.start[k] ∧ t.last[k] = l.last[k] ∧ t.sel[k] = l.sel[k]) := by
  refine ⟨fun k => ?_, fun k => ⟨fun hk => ?_, fun hk => ?_⟩⟩
  · simp only [pushed, Fin.getElem_fin, Vector.getElem_set, Fin.ext_iff, eq_comm]
    rfl
  · simp [pushed, ← hk]
    exact ⟨hfirst, hlt⟩
  · simp [pushed, Ne.symm hk]

end Stack

/-- The two loop instructions. -/
def loopInstr (n : BitVec 2) (count : W32) (d : BitVec 9) (g : BitVec 4) (i : Instr) (s : State) : Prop :=
  ∃ e st c f, exec i s = issueOne e st (slotWords i) c (fun s => guarded g s f) s
    ∧ f (atIssue (slotWords i) s) = loopSlot n count d (atIssue (slotWords i) s)

section LoopInstr

variable {s : State} {n : BitVec 2} {count : W32} {d : BitVec 9} {g : BitVec 4} {i : Instr} (hx : loopInstr n count d g i s)
  (hg : guardOn g (landDue s).unit = true)

theorem slotWords_pos (i : Instr) : 0 < slotWords i := by
  unfold slotWords
  split <;> decide

include hx hg

theorem loop_traps {cause : Nat}
    (h : loopCause (landDue s).unit n ((landDue s).unit.pc.toNat + 4 * slotWords i + 4 * d.toNat) = some cause) : Traps i s cause 0#12 := by
  obtain ⟨e, st, c, f, hx, hf⟩ := hx
  exact traps_of_trap hx hg (hf.trans (loopSlot_traps h))

theorem loop_skips (h4 : (landDue s).unit.loops.depth < 4)
    (hi : ¬Improper (landDue s).unit.loops n ((landDue s).unit.pc.toNat + 4 * slotWords i + 4 * d.toNat)) (hc : count = 0#32) :
    let u := (landDue s).unit
    ∃ t, exec i s = .next t ∧ t = sequenced (landDue s) t ∧ t.unit.cyc = u.cyc + 1 ∧ t.unit.landing = u.landing ∧ t.unit.loops = u.loops
      ∧ t.unit.pc = BitVec.ofNat 19 (lastWord u 7 (u.pc.toNat + 4 * slotWords i + 4 * d.toNat) + 4) := by
  obtain ⟨e, st, c, f, hx, hf⟩ := hx
  have hk := slotWords_pos i
  exact exec_looped hx ((guarded_atIssue _ hg).trans (hf.trans (loopSlot_skips (loopCause_proper h4 hi) hc)))
    (endTest_of_proper hi (by omega))

theorem loop_pushes (h4 : (landDue s).unit.loops.depth < 4)
    (hi : ¬Improper (landDue s).unit.loops n ((landDue s).unit.pc.toNat + 4 * slotWords i + 4 * d.toNat))
    (hlt : (landDue s).unit.pc.toNat + 4 * slotWords i + 4 * d.toNat < 2 ^ 19) (hc : count ≠ 0#32) :
    let u := (landDue s).unit
    let body := u.pc.toNat + 4 * slotWords i
    ∃ t, exec i s = .next t ∧ t = sequenced (landDue s) t ∧ t.unit.cyc = u.cyc + 1 ∧ t.unit.landing = u.landing
      ∧ t.unit.loops = pushed u.loops n count body (body + 4 * d.toNat) ∧ t.unit.pc.toNat = body := by
  obtain ⟨e, st, c, f, hx, hf⟩ := hx
  have hk := slotWords_pos i
  obtain ⟨t, ht, hseq, hcyc, hland, hloops, hpc⟩ := exec_looped hx
    ((guarded_atIssue _ hg).trans (hf.trans (loopSlot_pushes (loopCause_proper h4 hi) hc))) (endTest_pushed (by omega) hlt)
  refine ⟨t, ht, hseq, hcyc, hland, hloops, ?_⟩
  rw [hpc]
  exact Nat.mod_eq_of_lt (by simp only [Option.getD_none]; omega)

end LoopInstr

/-- Settles O16: a LOOP traps, skips or pushes by its cause, and an off slot shows the end test of its level. -/
theorem loopsPushAndRepeat : Obligations.LoopsPushAndRepeat := by
  refine ⟨?_, ?_⟩
  · intro s n a c d g x hg i hi u l body last count improper
    have hx : loopInstr n count d g i s := by
      obtain rfl | rfl := hi
      · exact ⟨_, _, _, _, rfl, by simp only [count, if_true]; rfl⟩
      · refine ⟨_, _, _, _, rfl, ?_⟩
        simp only [count, reduceCtorEq, if_false]
        cases x <;> rfl
    refine ⟨fun h => loop_traps hx hg (loopCause_full h), fun h4 him => loop_traps hx hg (loopCause_improper h4 him), loop_skips hx hg, ?_⟩
    intro h4 him hlt hc
    obtain ⟨t, ht, hseq, hcyc, hland, hloops, hpc⟩ := loop_pushes hx hg h4 him hlt hc
    obtain ⟨hlc, hlev⟩ := pushed_spec (n := n) (count := count) (first := body) (last := last) (by omega) hlt
    rw [← hloops] at hlc hlev
    exact ⟨t, ht, hseq, hcyc, hland, hpc, by rw [hloops]; rfl, hlc, hlev⟩
  · intro s i g hg hoff u l n h1
    by_cases hl : l.last[0] = u.pc
    · by_cases hn : 1 < n.toNat
      · obtain ⟨t, ht, hseq, hloops, hpc⟩ := off_looped hg hoff (endTest_repeats h1 (congrArg BitVec.toNat hl) hn)
        refine ⟨t, ht, hseq, fun _ _ => ⟨?_, ?_, ?_⟩, fun _ h => absurd hn (by omega), fun h => absurd hl h⟩
        · simpa using hpc
        · rw [hloops]
          exact h1
        · rw [hloops]
          exact Vector.getElem_setIfInBounds_self _
      · obtain ⟨t, ht, hseq, hloops, hpc⟩ := off_looped hg hoff (endTest_pops h1 (congrArg BitVec.toNat hl) (Nat.not_lt.1 hn))
        refine ⟨t, ht, hseq, fun _ h => absurd h hn, fun _ _ => ⟨hpc, ?_, ?_⟩, fun h => absurd hl h⟩
        · rw [hloops]
          rfl
        · rw [hloops]
          exact Vector.getElem_setIfInBounds_self _
    · obtain ⟨t, ht, hseq, hloops, hpc⟩ := off_looped hg hoff (endTest_elsewhere_one h1 4 fun e => hl (BitVec.eq_of_toNat_eq e))
      exact ⟨t, ht, hseq, fun h => absurd h hl, fun h => absurd h hl, fun _ => ⟨hpc, hloops⟩⟩

end Sys2Proof.Machine
end

section
/-! SUPPORT. Control registers: what a write puts into them and which values its check admits (R52 to R54, R78, R152, R157, R217, R289, R299). -/

namespace Sys2Proof.Machine

/-! ### The selected ring -/

theorem ringAt_setRing (p : Pad) (q : BitVec 6) (r : Option Ring) : ringAt (setRing p q r) q = r :=
  Vector.getElem_set_self _

theorem ringAt_modRing {p : Pad} {q : BitVec 6} {r : Ring} (f : Ring → Ring) (h : ringAt p q = some r) :
    ringAt (modRing p q f) q = some (f r) := by
  rw [modRing, h]
  exact ringAt_setRing p q _

theorem bytes_modRing (p : Pad) (q : BitVec 6) (f : Ring → Ring) : (modRing p q f).bytes = p.bytes := by
  unfold modRing
  split <;> rfl

/-! ### A number among the loop and the format registers -/

section Number

variable {n : Nat}

theorem crAssigned_loop (h1 : 0x014 ≤ n) (h2 : n ≤ 0x01C) : crAssigned n = true := by
  simp [crAssigned]
  omega

theorem crAssigned_format (h1 : 0x050 ≤ n) (h2 : n < 0x060) : crAssigned n = true := by
  simp [crAssigned]
  omega

theorem crForeignBank_iff (u : Unit) (n : Nat) :
    crForeignBank u n = true ↔ 0x050 ≤ n ∧ n < 0x060 ∧ u.pad.banks.getLsbD (n - 0x050) = false := by
  simp [crForeignBank, and_assoc]

theorem crForeignBank_low (u : Unit) (h : n < 0x050) : crForeignBank u n = false := by
  simp [crForeignBank, Nat.not_le.2 h]

theorem crForeignBank_high (u : Unit) (h : 0x060 ≤ n) : crForeignBank u n = false := by
  simp [crForeignBank, Nat.not_lt.2 h]

end Number

/-! ### What a write puts into a loop or format register -/

section Poke

variable {u : Unit} {v : W64}

theorem setIfInBounds_eq_set {α : Type} {n k : Nat} (a : Vector α n) (h : k < n) (x : α) : a.setIfInBounds k x = a.set k x := by
  simp [← Vector.toArray_inj, Array.setIfInBounds_def, h]

/-- The bound of a loop level that a write of v sets: bundle addresses are multiples of 4. -/
def boundOf (v : W64) : BitVec 19 := v.setWidth 19 &&& 0x7FFFC#19

/-- The stack with the start of level k written. -/
def withStart (l : LoopState) (k : Fin 4) (v : W64) : LoopState := { l with start := l.start.set k (boundOf v) }

/-- The stack with the end of level k written. -/
def withLast (l : LoopState) (k : Fin 4) (v : W64) : LoopState := { l with last := l.last.set k (boundOf v) }

theorem crPoke_start (k : Fin 4) : crPoke u (0x014 + k.val) v = { u with loops := withStart u.loops k v } := by
  have hk : 0x014 + k.val < 0x018 := by omega
  have h : ∀ m < 0x014, 0x014 + k.val ≠ m := fun m _ => by omega
  simp [crPoke, setIfInBounds_eq_set, withStart, boundOf, h, hk]

theorem crPoke_last (k : Fin 4) : crPoke u (0x018 + k.val) v = { u with loops := withLast u.loops k v } := by
  have hk : 0x018 + k.val < 0x01C := by omega
  have h : ∀ m < 0x018, 0x018 + k.val ≠ m ∧ ¬0x018 + k.val < m := fun m _ => by omega
  simp [crPoke, setIfInBounds_eq_set, withLast, boundOf, h, hk]

theorem crPoke_format (b : BitVec 4) : crPoke u (0x050 + b.toNat) v = { u with pad := { u.pad with fmt := u.pad.fmt.set b.toNat v } } := by
  have hb : 0x050 + b.toNat < 0x060 := by omega
  have h : ∀ m < 0x050, 0x050 + b.toNat ≠ m ∧ ¬0x050 + b.toNat < m := fun m _ => by omega
  simp [crPoke, setIfInBounds_eq_set _ b.isLt, h, hb]

/-- Only the registers with an action of their own do more at landing than take the value. -/
theorem crLand_poke {s : State} {n : Nat} (h : n ∉ [0x002, 0x084, 0x090, 0x0A1, 0x0A2, 0x0D1, 0x0D3]) :
    crLand s n v = s.mapUnit fun u => crPoke u n v := by
  simp only [List.mem_cons, List.not_mem_nil, not_or] at h
  simp [crLand, h]

end Poke

/-! ### The check of a write at issue -/

/-- A write of v to register n is admitted where ok holds, and otherwise traps with that cause and code. -/
def Checked (s : State) (n : Nat) (v : W64) (ok : Prop) (cause : Nat) (code : BitVec 12) : Prop :=
  (ok → crWriteTrap s n v = none) ∧ (¬ok → crWriteTrap s n v = some (cause, code))

theorem checked_of_ite {s : State} {n : Nat} {v : W64} {b : Bool} {cause : Nat} {code : BitVec 12}
    (h : crWriteTrap s n v = if b then none else some (cause, code)) : Checked s n v (b = true) cause code :=
  ⟨fun hb => by simp [h, hb], fun hb => by simp [h, hb]⟩

section Check

variable {s : State} {n : Nat} {v : W64}

theorem Checked.congr {ok ok' : Prop} {cause : Nat} {code : BitVec 12} (h : Checked s n v ok cause code) (he : ok' ↔ ok) :
    Checked s n v ok' cause code :=
  ⟨fun h' => h.1 (he.1 h'), fun h' => h.2 fun h => h' (he.2 h)⟩

/-- A bound of a level that is not active may take every value. -/
theorem checked_start (k : Fin 4) :
    Checked s (0x014 + k.val) v (k.val < s.unit.loops.depth → loopsOk (withStart s.unit.loops k v) = true) 0x14 0#12 := by
  have hk : 0x014 + k.val < 0x018 := by omega
  have ha : crAssigned (0x014 + k.val) = true := crAssigned_loop (by omega) (by omega)
  have hf := crForeignBank_low s.unit (n := 0x014 + k.val) (by omega)
  constructor <;> intro h <;> simpa [crWriteTrap, ha, hf, crPoke_start, hk, show 0x014 + k.val < 0x01C by omega] using h

theorem checked_last (k : Fin 4) :
    Checked s (0x018 + k.val) v (k.val < s.unit.loops.depth → loopsOk (withLast s.unit.loops k v) = true) 0x14 0#12 := by
  have hk : 0x018 + k.val < 0x01C := by omega
  have ha : crAssigned (0x018 + k.val) = true := crAssigned_loop (by omega) (by omega)
  have hf := crForeignBank_low s.unit (n := 0x018 + k.val) (by omega)
  constructor <;> intro h <;> simpa [crWriteTrap, ha, hf, crPoke_last, hk, show 0x014 ≤ 0x018 + k.val by omega] using h

theorem checked_ldepth : Checked s 0x01C v (loopsOk (setLdepth s.unit.loops v) = true) 0x14 0#12 := checked_of_ite rfl

theorem checked_format (h1 : 0x050 ≤ n) (h2 : n < 0x060) (hb : crForeignBank s.unit n = false) :
    Checked s n v (fmtValid v = true) 0x19 (BitVec.ofNat 12 n) := by
  have ha := crAssigned_format h1 h2
  have hl : ¬n < 0x01C ∧ n ≠ 0x01C := by omega
  exact checked_of_ite (by simp [crWriteTrap, ha, hb, hl, h1, h2])

theorem checked_qidx : Checked s 0x083 v (∃ r, selRing s.unit = some r ∧ ringBusy s.unit s.unit.cr.qsel = false ∧ qidxOk r v = true)
    0x21 (s.unit.cr.qsel.setWidth 12) := by
  have ha : crAssigned 0x083 = true := rfl
  cases h : selRing s.unit with
  | none => constructor <;> simp [crWriteTrap, ha, crForeignBank_high, h, BitVec.ofNat_toNat]
  | some r =>
    constructor <;> intro hr <;> simpa [crWriteTrap, ha, crForeignBank_high, h, BitVec.ofNat_toNat] using hr

theorem checked_gxmode : Checked s 0x0A0 v (gxValid v = true) 0x2A 0x0A0#12 := checked_of_ite rfl

theorem fld_six_rest : fld v 6 58 = 0 ↔ v.toNat < 64 := by
  have := v.isLt
  simp only [fld]
  omega

theorem checked_cbar : Checked s 0x0A2 v (v.toNat < 64 ∧ s.unit.cr.cbarPend = false
    ∧ ∃ r, ringAt s.unit.pad (v.setWidth 6) = some r ∧ r.cons = 0 ∧ r.perm.testBit s.unit.cr.lcore.toNat = true) 0x2A 0x0A2#12 := by
  have ha : crAssigned 0x0A2 = true := rfl
  cases h : ringAt s.unit.pad (v.setWidth 6) with
  | none => constructor <;> simp [crWriteTrap, ha, crForeignBank_high, h]
  | some r =>
    constructor <;> intro hr <;> simpa [crWriteTrap, ha, crForeignBank_high, fld_six_rest, and_assoc, h] using hr

/-- A register without a check of its own takes every value. -/
theorem crWriteTrap_plain (ha : crAssigned n = true) (hl : n < 0x014 ∨ 0x01C < n) (hf : n < 0x050 ∨ 0x060 ≤ n)
    (hn : n ∉ [0x083, 0x0A0, 0x0A2]) : crWriteTrap s n v = none := by
  simp only [List.mem_cons, List.not_mem_nil, not_or] at hn
  have hb : crForeignBank s.unit n = false := hf.elim (crForeignBank_low _) (crForeignBank_high _)
  have hl' : ¬(0x014 ≤ n ∧ n < 0x01C) := by omega
  have hf' : ¬(0x050 ≤ n ∧ n < 0x060) := by omega
  have he : n ≠ 0x01C := by omega
  simp [crWriteTrap, ha, hb, hn, hl', hf', he]

/-- The fields that GXMODE requires. -/
theorem gxValid_iff : gxValid v = true ↔ fld v 56 2 ≠ 3 ∧ fld v 58 6 = 0 ∧ fld v 37 19 = 0 ∧ fld v 16 21 % 4 = 0 := by
  simp [gxValid, and_assoc]

theorem gxValid_of_lt (h1 : v.toNat < 2 ^ 58) (h2 : v.toNat / 2 ^ 56 % 4 ≠ 3) (h3 : v.toNat / 2 ^ 37 % 2 ^ 19 = 0)
    (h4 : v.toNat / 2 ^ 16 % 4 = 0) : gxValid v = true := by
  refine gxValid_iff.2 ⟨h2, ?_, h3, ?_⟩ <;> simp only [fld] <;> omega

end Check

end Sys2Proof.Machine
end

section
/-! SUPPORT. The landing writes of the control registers that check or act (R57, R78, R157, R217, R289, R299, R404). -/

namespace Sys2Proof.Machine

section Landing

variable {s : State} {v : W64}

theorem exec_boundWrite {n : BitVec 11} (h1 : 0x014 ≤ n.toNat) (h2 : n.toNat < 0x01C) (hc : crWriteTrap s n.toNat v = none) :
    exec (.crLstartLendWrite n v) s = .next (s.mapUnit fun u => crPoke u n.toNat v) := by
  have hn : n.toNat ∉ [0x002, 0x084, 0x090, 0x0A1, 0x0A2, 0x0D1, 0x0D3] := by simp; omega
  refine congrArg Host.Outcome.next ?_
  simp [h1, h2, hc, crLand_poke hn]

theorem exec_startWrite (k : Fin 4) (h : s.unit.loops.depth = 0) : exec (.crLstartLendWrite (BitVec.ofNat 11 (0x014 + k.val)) v) s
    = .next { s with unit := { s.unit with loops := withStart s.unit.loops k v } } := by
  have hn : (BitVec.ofNat 11 (0x014 + k.val)).toNat = 0x014 + k.val := by simp; omega
  have hc : crWriteTrap s (0x014 + k.val) v = none := (checked_start k).1 (by omega)
  rw [exec_boundWrite (by omega) (by omega) (hn.symm ▸ hc), hn]
  simp only [State.mapUnit, crPoke_start]

theorem exec_lastWrite (k : Fin 4) (h : s.unit.loops.depth = 0) : exec (.crLstartLendWrite (BitVec.ofNat 11 (0x018 + k.val)) v) s
    = .next { s with unit := { s.unit with loops := withLast s.unit.loops k v } } := by
  have hn : (BitVec.ofNat 11 (0x018 + k.val)).toNat = 0x018 + k.val := by simp; omega
  have hc : crWriteTrap s (0x018 + k.val) v = none := (checked_last k).1 (by omega)
  rw [exec_boundWrite (by omega) (by omega) (hn.symm ▸ hc), hn]
  simp only [State.mapUnit, crPoke_last]

theorem exec_formatWrite {b : BitVec 4} (hb : s.unit.pad.banks.getLsbD b.toNat = true) (hv : fmtValid v = true) :
    exec (.crBankfWrite b v) s
      = .next { s with unit := { s.unit with pad := { s.unit.pad with fmt := s.unit.pad.fmt.set b.toNat v } } } := by
  have hf : crForeignBank s.unit (0x050 + b.toNat) = false := by simp [crForeignBank, hb]
  have hc := (checked_format (s := s) (v := v) (by omega) (by omega) hf).1 hv
  have hn : 0x050 + b.toNat ∉ [0x002, 0x084, 0x090, 0x0A1, 0x0A2, 0x0D1, 0x0D3] := by simp; omega
  refine congrArg Host.Outcome.next ?_
  rw [hc, Option.isNone_none, if_pos rfl, crLand_poke hn, State.mapUnit, crPoke_format]

theorem exec_qidxWrite (hc : crWriteTrap s 0x083 v = none) : exec (.crQidxWrite v) s = .next (s.mapUnit fun u => crPoke u 0x083 v) := by
  refine congrArg Host.Outcome.next ?_
  rw [hc]
  rfl

theorem crPoke_qidx (u : Unit) : crPoke u 0x083 v
    = { discardHolds u u.cr.qsel with pad := modRing u.pad u.cr.qsel fun r => if qidxOk r v then setQidx r v else r } := rfl

theorem w16_fld (k : Nat) : w16 (fld v k 16) = (v >>> k).setWidth 16 := by
  apply BitVec.eq_of_toNat_eq
  simp [w16, fld, Nat.shiftRight_eq_div_pow]

/-- The barrier does not complete while a unit of the gang is out. -/
theorem barrierAdvance_open {c : Nat} (hc : c ∈ gangCores s.unit) (h1 : c ≠ s.unit.cr.lcore.toNat)
    (h2 : s.unit.cr.cbarPeers.getLsbD c = false) (h3 : peerDone s c = false) : barrierAdvance s = s := by
  have hall : ((gangCores s.unit).all fun c => c == s.unit.cr.lcore.toNat || s.unit.cr.cbarPeers.getLsbD c || peerDone s c) = false := by
    rw [List.all_eq_false]
    exact ⟨c, hc, by simp [h1, h2, h3]⟩
  simp [barrierAdvance, hall]

theorem exec_cbarWrite (hc : crWriteTrap s 0x0A2 v = none) : exec (.crCbarWrite s.unit.cr.lcore v) s
    = .next (barrierAdvance (s.mapUnit fun u => barrierArrive u (v.setWidth 6))) := by
  refine congrArg Host.Outcome.next ?_
  rw [hc, beq_self_eq_true]
  rfl

theorem exec_drawhiWrite (h : canDraw s.unit s.unit.ns 1 = true) : exec (.crDrawhiWrite v) s
    = .next (s.mapUnit fun u => drawbaseWrite { u with ns := u.ns + 1, cr := { u.cr with drawhi := v } }) := by
  refine congrArg Host.Outcome.next ?_
  rw [h]
  rfl

end Landing

/-- Settles O22, register by register, from its check and its landing. -/
theorem controlRegisterWritesTakeEffect : Obligations.ControlRegisterWritesTakeEffect := by
  intro s v bank
  refine ⟨fun h => ?_, fun k h => ⟨exec_startWrite k h, exec_lastWrite k h⟩, exec_formatWrite, fun r hr hb hv => ?_,
    fun h1 h2 h3 h4 => ?_, fun r hv hp hr hcons hperm hout => ?_, fun h => ?_, ?_⟩
  · refine congrArg Host.Outcome.next ?_
    rw [h]
    rfl
  · refine ⟨_, exec_qidxWrite (checked_qidx.1 ⟨r, hr, hb, hv⟩), ?_, ?_, ?_⟩
    · exact (ringAt_modRing _ hr).trans (by simp [hv, setQidx, w16_fld])
    · simp only [State.mapUnit, crPoke_qidx]
      rfl
    · exact bytes_modRing _ _ _
  · refine congrArg Host.Outcome.next ?_
    rw [checked_gxmode.1 (gxValid_of_lt h1 h2 h3 h4)]
    rfl
  · obtain ⟨c, hc, hne, hpeer, hdone⟩ := hout
    refine ⟨_, exec_cbarWrite (checked_cbar.1 ⟨hv, hp, r, hr, hcons, hperm⟩), ?_⟩
    rw [barrierAdvance_open (s := s.mapUnit fun u => barrierArrive u (v.setWidth 6)) hc hne hpeer hdone]
    exact ⟨rfl, rfl, rfl⟩
  · exact ⟨_, exec_drawhiWrite h, rfl, rfl, by simp [State.mapUnit, drawbaseWrite], by simp [State.mapUnit, drawbaseWrite]⟩
  · rfl

end Sys2Proof.Machine
end

section
/-! SUPPORT. MFCR and MTCR (R52 to R54, R78, R152): what a register reads as, and the conditions of a write in the fields of its value. -/

namespace Sys2Proof.Machine

/-! ### The values that are not held as they are written (R53) -/

section Read

variable (s : State)

theorem crRead_counter (k : Fin 4) : crRead s (0x010 + k.val) = (s.unit.loops.lc[k]).setWidth 64 := by
  have hk : 0x010 + k.val < 0x014 := by omega
  have h : ∀ m < 0x010, 0x010 + k.val ≠ m := fun m _ => by omega
  simp [crRead, h, hk, nth_toList _ _ k.isLt]

theorem crRead_start (k : Fin 4) : crRead s (0x014 + k.val) = (s.unit.loops.start[k]).setWidth 64 := by
  have hk : 0x014 + k.val < 0x018 := by omega
  have h : ∀ m < 0x014, 0x014 + k.val ≠ m ∧ ¬0x014 + k.val < m := fun m _ => by omega
  simp [crRead, h, hk, nth_toList _ _ k.isLt]

theorem crRead_last (k : Fin 4) : crRead s (0x018 + k.val) = (s.unit.loops.last[k]).setWidth 64 := by
  have hk : 0x018 + k.val < 0x01C := by omega
  have h : ∀ m < 0x018, 0x018 + k.val ≠ m ∧ ¬0x018 + k.val < m := fun m _ => by omega
  simp [crRead, h, hk, nth_toList _ _ k.isLt]

theorem crRead_mask (k : Fin 8) : crRead s (0x040 + k.val) = mReg s.unit (BitVec.ofNat 3 k.val) := by
  have hk : 0x040 + k.val < 0x048 := by omega
  have h : ∀ m < 0x040, 0x040 + k.val ≠ m ∧ ¬0x040 + k.val < m := fun m _ => by omega
  simp [crRead, h, hk]

theorem crRead_format (k : Fin 16) : crRead s (0x050 + k.val) = s.unit.pad.fmt[k] := by
  have hk : 0x050 + k.val < 0x060 := by omega
  have h : ∀ m < 0x050, 0x050 + k.val ≠ m ∧ ¬0x050 + k.val < m := fun m _ => by omega
  simp [crRead, h, hk, nth_toList _ _ k.isLt]

theorem crRead_atIssue (k n : Nat) : crRead (atIssue k s) n = crRead (landDue s) n := by
  rw [atIssue_unit]
  generalize landDue s = b
  rfl

end Read

/-! ### The conditions of a write -/

/-- The loop stack is proper (R78): at most four levels, each within the one around it, on counters of their own. -/
def Proper (depth : Nat) (first last sel : Fin 4 → Nat) : Prop :=
  depth ≤ 4 ∧ ∀ k : Fin 4, k.val < depth → first k ≤ last k
    ∧ ∀ j : Fin 4, j.val < k.val → sel j ≠ sel k ∧ (j.val + 1 = k.val → first j ≤ first k ∧ last k ≤ last j)

section Fields

variable {v : W64}

theorem loopsOk_iff (l : LoopState) : loopsOk l = true
    ↔ Proper l.depth (fun k => (l.start[k]).toNat) (fun k => (l.last[k]).toNat) fun k => (l.sel[k]).toNat := by
  have hst : ∀ k : Fin 4, nth l.start.toList k.val 0#19 = l.start[k] := fun k => nth_toList _ _ k.isLt _
  have hen : ∀ k : Fin 4, nth l.last.toList k.val 0#19 = l.last[k] := fun k => nth_toList _ _ k.isLt _
  have hsel : ∀ k : Fin 4, nth l.sel.toList k.val 0#2 = l.sel[k] := fun k => nth_toList _ _ k.isLt _
  simp only [loopsOk, Bool.and_eq_true, Bool.or_eq_true, decide_eq_true_eq, List.all_eq_true, mem_upto, Proper, bne_iff_ne, beq_iff_eq]
  refine and_congr_right fun h4 => ⟨fun h k hk => ?_, fun h i hi => ?_⟩
  · obtain ⟨⟨hle, hin⟩, hs⟩ := h k.val ⟨k.val.zero_le, by omega⟩
    rw [hst, hen] at hle
    refine ⟨hle, fun j hj => ⟨fun e => hs j.val ⟨j.val.zero_le, by omega⟩ ?_, fun e => ?_⟩⟩
    · rw [hsel, hsel]
      exact BitVec.eq_of_toNat_eq e
    · rwa [show k.val - 1 = j.val by omega, hst, hst, hen, hen, or_iff_right (by omega)] at hin
  · obtain ⟨hle, hin⟩ := h ⟨i, by omega⟩ (by simpa using hi)
    refine ⟨⟨?_, ?_⟩, fun k hk e => ?_⟩
    · exact (hst ⟨i, by omega⟩).symm ▸ (hen ⟨i, by omega⟩).symm ▸ hle
    · refine or_iff_not_imp_left.2 fun h0 => ?_
      have hb := (hin ⟨i - 1, by omega⟩ (by simp; omega)).2 (by simp; omega)
      rwa [← hst, ← hst, ← hen, ← hen] at hb
    · have hne := (hin ⟨k, by omega⟩ (by simp; omega)).1
      rw [← hsel, ← hsel] at hne
      exact hne (congrArg BitVec.toNat e)

theorem boundMask_bit : ∀ i : Fin 19, (0x7FFFC#19).getLsbD i.val = decide (2 ≤ i.val) := by decide

theorem boundOf_toNat : (boundOf v).toNat = v.toNat % 2 ^ 19 / 4 * 4 := by
  have h : boundOf v = v.setWidth 19 >>> 2 <<< 2 := by
    refine BitVec.eq_of_getLsbD_eq fun i hi => ?_
    rw [boundOf, BitVec.getLsbD_and, boundMask_bit ⟨i, hi⟩]
    by_cases h2 : i < 2
    · simp [h2]
    · have h2' : 2 ≤ i := Nat.not_lt.1 h2
      simp [h2, h2', hi, Nat.add_sub_of_le h2']
  rw [h]
  simp [Nat.shiftRight_eq_div_pow, Nat.shiftLeft_eq]
  omega

theorem fmtValid_iff : fmtValid v = true ↔ fld v 0 4 ≤ 12 ∧ ¬(fld v 8 2 = 3 ∧ (fld v 0 4 = 10 ∨ fld v 0 4 = 11))
    ∧ fld v 16 11 + fld v 32 12 ≤ 2048 ∧ fld v 4 4 = 0 ∧ fld v 10 6 = 0 ∧ fld v 27 5 = 0 ∧ fld v 44 4 = 0 ∧ fld v 60 4 = 0 := by
  simp [fmtValid]
  tauto

theorem qidxOk_iff (r : Ring) : qidxOk r v = true ↔ fld v 0 16 < r.wrap ∧ fld v 16 16 < r.wrap ∧ fld v 32 16 < r.wrap
    ∧ (fld v 16 16 + r.wrap - fld v 0 16) % r.wrap ≤ (fld v 32 16 + r.wrap - fld v 0 16) % r.wrap
    ∧ (fld v 32 16 + r.wrap - fld v 0 16) % r.wrap ≤ r.n := by
  have h : ∀ k, (w16 (fld v k 16)).toNat = fld v k 16 := fun k => by simp [w16, fld]
  simp [qidxOk, setQidx, Ring.dist, h, and_assoc]

theorem loopsOk_setLdepth (l : LoopState) : loopsOk (setLdepth l v) = true
    ↔ Proper (fld v 0 3) (fun k => (l.start[k]).toNat) (fun k => (l.last[k]).toNat) fun k => fld v (8 + 2 * k.val) 2 := by
  have hsel : (fun k : Fin 4 => ((setLdepth l v).sel[k]).toNat) = fun k => fld v (8 + 2 * k.val) 2 := by
    funext k
    fin_cases k <;> simp [setLdepth, fld]
  rw [loopsOk_iff, hsel]
  rfl

theorem loopsOk_withStart (l : LoopState) (k : Fin 4) : loopsOk (withStart l k v) = true
    ↔ Proper l.depth (fun j => if j = k then v.toNat % 2 ^ 19 / 4 * 4 else (l.start[j]).toNat) (fun j => (l.last[j]).toNat)
      fun j => (l.sel[j]).toNat := by
  have hst : (fun j : Fin 4 => ((withStart l k v).start[j]).toNat)
      = fun j => if j = k then v.toNat % 2 ^ 19 / 4 * 4 else (l.start[j]).toNat := by
    funext j
    simp only [withStart, Fin.getElem_fin, Vector.getElem_set, Fin.ext_iff, eq_comm (a := k.val), apply_ite BitVec.toNat, boundOf_toNat]
  rw [loopsOk_iff, hst]
  rfl

theorem loopsOk_withLast (l : LoopState) (k : Fin 4) : loopsOk (withLast l k v) = true
    ↔ Proper l.depth (fun j => (l.start[j]).toNat) (fun j => if j = k then v.toNat % 2 ^ 19 / 4 * 4 else (l.last[j]).toNat)
      fun j => (l.sel[j]).toNat := by
  have hen : (fun j : Fin 4 => ((withLast l k v).last[j]).toNat)
      = fun j => if j = k then v.toNat % 2 ^ 19 / 4 * 4 else (l.last[j]).toNat := by
    funext j
    simp only [withLast, Fin.getElem_fin, Vector.getElem_set, Fin.ext_iff, eq_comm (a := k.val), apply_ite BitVec.toNat, boundOf_toNat]
  rw [loopsOk_iff, hen]
  rfl

end Fields

/-! ### MFCR and MTCR (R52) -/

section Moves

variable {s : State} {d : BitVec 6} {n : BitVec 11} {g : BitVec 4} (hg : guardOn g (landDue s).unit = true)

theorem crPoke_loops_ctx (u : Unit) (c : IssueCtx) (m : Nat) (v : W64) :
    (crPoke { u with ctx := c } m v).loops = (crPoke u m v).loops := by
  simp only [crPoke, apply_ite Unit.loops, setM_loops]
  rfl

theorem crWriteTrap_atIssue (k m : Nat) (v : W64) : crWriteTrap (atIssue k s) m v = crWriteTrap (landDue s) m v := by
  rw [atIssue_unit]
  generalize landDue s = b
  simp only [crWriteTrap, crPoke_loops_ctx]
  rfl

theorem ofNat_number (n : BitVec 11) : BitVec.ofNat 12 n.toNat = n.setWidth 12 := BitVec.ofNat_toNat ..

/-- An unassigned number and the format register of a bank that the unit does not hold trap a write. -/
theorem crWriteTrap_unassigned {v : W64} (h : crAssigned n.toNat = false) : crWriteTrap s n.toNat v = some (0x16, n.setWidth 12) := by
  simp [crWriteTrap, h]

theorem crWriteTrap_foreign {v : W64} (ha : crAssigned n.toNat = true) (hf : crForeignBank s.unit n.toNat = true) :
    crWriteTrap s n.toNat v = some (0x17, n.setWidth 12) := by
  simp [crWriteTrap, ha, hf]

include hg

theorem mfcr_lands (ha : crAssigned n.toNat = true) (hf : crForeignBank (landDue s).unit n.toNat = false) :
    LandsG (.mfcr d n g) s 1 d (crRead (landDue s) n.toNat) := by
  refine landsG_of_go rfl hg ?_
  rw [ha, crRead_atIssue, if_neg (by decide), if_neg ?_]
  rw [atIssue_unit]
  generalize landDue s = b at *
  exact Bool.eq_false_iff.1 hf

theorem mfcr_unassigned (h : crAssigned n.toNat = false) : Traps (.mfcr d n g) s 0x16 (n.setWidth 12) :=
  traps_of_trap rfl hg (by simp [h])

theorem mfcr_foreign (ha : crAssigned n.toNat = true) (hf : crForeignBank (landDue s).unit n.toNat = true) :
    Traps (.mfcr d n g) s 0x17 (n.setWidth 12) := by
  refine traps_of_trap rfl hg ?_
  rw [ha, if_neg (by decide), if_pos ?_]
  rw [atIssue_unit]
  generalize landDue s = b at *
  exact hf

theorem mtcr_traps {cause : Nat} {code : BitVec 12} (h : crWriteTrap (landDue s) n.toNat (gReg (landDue s).unit d) = some (cause, code)) :
    Traps (.mtcr d n g) s cause code := by
  refine traps_of_trap rfl hg ?_
  simp only [crWriteTrap_atIssue, gReg_atIssue, h]

theorem mtcr_lands (h : crWriteTrap (landDue s) n.toNat (gReg (landDue s).unit d) = none) (hn : n ≠ 0x0D1#11) :
    Lands (.mtcr d n g) s 1 (.cr n (gReg (landDue s).unit d)) 0#6 := by
  refine lands_of_go rfl hg ?_
  simp only [crWriteTrap_atIssue, gReg_atIssue, h, beq_iff_eq, hn, if_false]

/-- A write by its check. -/
theorem mtcr_checked {ok : Prop} {cause : Nat} {code : BitVec 12}
    (h : Checked (landDue s) n.toNat (gReg (landDue s).unit d) ok cause code) (hn : n ≠ 0x0D1#11) :
    (ok → Lands (.mtcr d n g) s 1 (.cr n (gReg (landDue s).unit d)) 0#6) ∧ (¬ok → Traps (.mtcr d n g) s cause code) :=
  ⟨fun ho => mtcr_lands hg (h.1 ho) hn, fun ho => mtcr_traps hg (h.2 ho)⟩

/-- The unit with the NS entry of the write of DRAWBASE drawn, and the write in flight (R404). -/
def drawn (v : W64) (u : Unit) : Unit := push { u with ns := u.ns + 1 } 1 (.cr 0x0D1#11 v) 0#6

omit hg in
theorem drawn_own (v : W64) : OwnEffect (drawn v) := by
  constructor <;> intros <;> rfl

theorem mtcr_drawhi (h : canDraw (landDue s).unit (landDue s).unit.ns 1 = true) :
    Acts (.mtcr d 0x0D1#11 g) s (drawn (gReg (landDue s).unit d)) := by
  have hc : crWriteTrap (landDue s) (0x0D1#11).toNat (gReg (landDue s).unit d) = none := rfl
  have hd (k : Nat) : canDraw (atIssue k s).unit (atIssue k s).unit.ns 1 = true := h
  refine acts_of_mapUnit rfl hg (drawn_own _) ?_
  simp only [crWriteTrap_atIssue, gReg_atIssue, hc, hd, beq_self_eq_true, if_true]
  rfl

theorem mtcr_drawhi_waits (h : canDraw (landDue s).unit (landDue s).unit.ns 1 = false) : Waits (.mtcr d 0x0D1#11 g) s false := by
  have hc : crWriteTrap (landDue s) (0x0D1#11).toNat (gReg (landDue s).unit d) = none := rfl
  have hd (k : Nat) : canDraw (atIssue k s).unit (atIssue k s).unit.ns 1 = false := h
  refine waits_of_block rfl hg ?_
  simp only [crWriteTrap_atIssue, gReg_atIssue, hc, hd, beq_self_eq_true, if_true]
  rfl

end Moves

/-- Settles O21: MFCR and MTCR by the check of the register's number, the writes by the fields of their value. -/
theorem controlRegisterMoves : Obligations.ControlRegisterMoves := by
  refine ⟨fun s d n g hg => ?_, fun s => ?_⟩
  case refine_2 =>
    exact ⟨rfl, rfl, rfl, rfl, rfl, rfl, rfl, fun k => ⟨crRead_counter s k, crRead_start s k, crRead_last s k⟩,
      crRead_mask s, crRead_format s, rfl⟩
  intro u foreign
  have hforeign : foreign ↔ crForeignBank u n.toNat = true := (crForeignBank_iff u n.toNat).symm
  refine ⟨fun ha hf => mfcr_lands hg ha (Bool.eq_false_iff.2 fun h => hf (hforeign.2 h)),
    fun ha => ⟨mfcr_unassigned hg ha, mtcr_traps hg (crWriteTrap_unassigned ha)⟩,
    fun ha hf => ⟨mfcr_foreign hg ha (hforeign.1 hf), mtcr_traps hg (crWriteTrap_foreign ha (hforeign.1 hf))⟩,
    mtcr_lands hg, ?_, ?_, ?_⟩
  · intro v part l first last word proper writes
    refine ⟨?_, fun k => ⟨?_, ?_⟩, ?_, ?_, ?_, ?_, ?_⟩
    · rintro rfl
      exact mtcr_checked hg (checked_ldepth.congr (loopsOk_setLdepth l).symm) (by decide)
    · intro hn
      have hc := (checked_start (s := landDue s) (v := v) k).congr (imp_congr_right fun _ => (loopsOk_withStart l k).symm)
      exact mtcr_checked hg (hn ▸ hc) (by rintro rfl; simp at hn; omega)
    · intro hn
      have hc := (checked_last (s := landDue s) (v := v) k).congr (imp_congr_right fun _ => (loopsOk_withLast l k).symm)
      exact mtcr_checked hg (hn ▸ hc) (by rintro rfl; simp at hn; omega)
    · intro h1 h2 hf
      have hc := checked_format (s := landDue s) (v := v) h1 h2 (Bool.eq_false_iff.2 fun h => hf (hforeign.2 h))
      rw [ofNat_number] at hc
      exact mtcr_checked hg (hc.congr fmtValid_iff.symm) (by rintro rfl; simp at h2)
    · rintro rfl
      refine mtcr_checked hg (checked_qidx.congr ?_) (by decide)
      exact exists_congr fun r => and_congr_right fun _ => and_congr_right fun _ => (qidxOk_iff r).symm
    · rintro rfl
      exact mtcr_checked hg (checked_gxmode.congr gxValid_iff.symm) (by decide)
    · rintro rfl
      exact mtcr_checked hg checked_cbar (by decide)
    · intro ha hl hf hn
      simp only [List.mem_cons, List.not_mem_nil, not_or] at hn
      obtain ⟨hq, hx, hb, hd, -⟩ := hn
      refine mtcr_lands hg (crWriteTrap_plain ha hl hf ?_) hd
      simp only [← BitVec.toNat_inj] at hq hx hb
      simp only [List.mem_cons, List.not_mem_nil, not_or]
      exact ⟨hq, hx, hb, not_false⟩
  · rintro rfl h
    exact mtcr_drawhi hg h
  · rintro rfl h
    exact mtcr_drawhi_waits hg h

end Sys2Proof.Machine
end

section
/-! SUPPORT. The dispatcher's record of jobs: what an update of a job, a launch or a gang changes, and what it leaves (R341 to R344). -/

namespace Sys2Proof.Machine

/-! ### Updates of jobs change nothing else -/

/-- t is s with other jobs. -/
def JobsOnly (s t : State) : Prop := t = { s with jobs := t.jobs }

theorem JobsOnly.refl (s : State) : JobsOnly s s := rfl

theorem JobsOnly.trans {a b c : State} (h1 : JobsOnly a b) (h2 : JobsOnly b c) : JobsOnly a c := by
  rw [JobsOnly] at *
  rw [h2, h1]

section Fields

variable {s t : State} (h : JobsOnly s t)

include h

theorem JobsOnly.unit : t.unit = s.unit := by rw [h]

theorem JobsOnly.time : t.time = s.time := by rw [h]

theorem JobsOnly.cores : t.cores = s.cores := by rw [h]

theorem JobsOnly.dram : t.dram = s.dram := by rw [h]

theorem JobsOnly.llc : t.llc = s.llc := by rw [h]

theorem JobsOnly.text : t.text = s.text := by rw [h]

end Fields

/-- After a change of the unit too, the unit and the jobs are all that differs. -/
theorem JobsOnly.of_mapUnit {s t : State} {f : Unit → Unit} (h : JobsOnly (s.mapUnit f) t) :
    t = { s with unit := t.unit, jobs := t.jobs } := by
  rw [h.unit]
  exact h

theorem mapJob_jobsOnly (s : State) (key : Nat) (f : Job → Job) : JobsOnly s (mapJob s key f) := by
  unfold mapJob
  split <;> rfl

theorem mapLaunch_jobsOnly (s : State) (key : Nat) (seq : W16) (i : Nat) (f : Launch → Launch) : JobsOnly s (mapLaunch s key seq i f) :=
  mapJob_jobsOnly _ _ _

theorem mapGang_jobsOnly (s : State) (key : Nat) (seq : W16) (i g : Nat) (f : Gang → Gang) : JobsOnly s (mapGang s key seq i g f) :=
  mapLaunch_jobsOnly _ _ _ _ _

/-! ### What a job reads after an update -/

theorem mget_mapJob (s : State) (key a : Nat) (f : Job → Job) :
    mget (mapJob s key f).jobs a = if key = a then (mget s.jobs a).map f else mget s.jobs a := by
  unfold mapJob
  split
  · next j h =>
    by_cases ha : key = a
    · subst ha
      simp [mget_mset, h]
    · simp [mget_mset, ha]
  · next h =>
    by_cases ha : key = a
    · subst ha
      simp [h]
    · simp [ha]

theorem mget_mapJob_self {s : State} {key : Nat} {j : Job} (f : Job → Job) (h : mget s.jobs key = some j) :
    mget (mapJob s key f).jobs key = some (f j) := by
  rw [mget_mapJob, if_pos rfl, h]
  rfl

theorem getElem?_modAt {α : Type} (f : α → α) : ∀ (l : List α) (i : Nat), (modAt l i f)[i]? = l[i]?.map f
  | [], i => by simp [modAt]
  | a :: l, 0 => rfl
  | a :: l, i + 1 => by simp [modAt, getElem?_modAt f l i]

/-- The graphs of a job with one of their launches changed. -/
def mapGraphs (seq : W16) (i : Nat) (f : Launch → Launch) (l : List Graph) : List Graph :=
  l.map fun g => if g.seq == seq then { g with launches := modAt g.launches i f } else g

theorem find_mapGraphs (seq : W16) (i : Nat) (f : Launch → Launch) (l : List Graph) : (mapGraphs seq i f l).find? (·.seq == seq)
    = (l.find? (·.seq == seq)).map fun g => { g with launches := modAt g.launches i f } := by
  induction l with
  | nil => rfl
  | cons g l ih =>
    by_cases h : g.seq = seq
    · simp [mapGraphs, h]
    · simpa [mapGraphs, h] using ih

/-- A launch after its own update. -/
theorem launchAt_mapLaunch (s : State) (key : Nat) (seq : W16) (i : Nat) (f : Launch → Launch) :
    launchAt (mapLaunch s key seq i f) key seq i = (launchAt s key seq i).map f := by
  have hj : mget (mapLaunch s key seq i f).jobs key
      = (mget s.jobs key).map fun j => { j with graphs := mapGraphs seq i f j.graphs } := by
    rw [mapLaunch, mget_mapJob, if_pos rfl]
    rfl
  rw [launchAt, launchAt, hj]
  cases mget s.jobs key with
  | none => rfl
  | some j =>
    simp only [Option.map_some, Option.bind_some, find_mapGraphs]
    cases j.graphs.find? (·.seq == seq) with
    | none => rfl
    | some g => exact getElem?_modAt f g.launches i

/-! ### The marks of ready gangs (R371) -/

theorem foldl_jobsOnly {α : Type} {f : State → α → State} (h : ∀ s x, JobsOnly s (f s x)) : ∀ (l : List α) (s : State), JobsOnly s (l.foldl f s)
  | [], s => .refl s
  | x :: l, s => (h s x).trans (foldl_jobsOnly h l _)

/-- The mark of a gang that has become ready. -/
def markGang (s : State) (x : GangRef) : State :=
  if x.g.ready.isNone && isReady s x then mapGang s x.key x.seq x.launch x.gang fun g => { g with ready := some s.time } else s

theorem markReady_eq (s : State) : markReady s = (s.jobs.flatMap fun j => partGangs s j.2.r.part).foldl markGang s := rfl

theorem markGang_jobsOnly (s : State) (x : GangRef) : JobsOnly s (markGang s x) := by
  unfold markGang
  split
  · exact mapGang_jobsOnly _ _ _ _ _ _
  · exact .refl s

theorem markReady_jobsOnly (s : State) : JobsOnly s (markReady s) := foldl_jobsOnly markGang_jobsOnly _ _

end Sys2Proof.Machine
end

section
/-! SUPPORT. The start of a gang (R47, R48, R153, R337, R341, R371). -/

namespace Sys2Proof.Machine

/-- A launch one of whose gangs has been placed. -/
def gangPlaced (now : Nat) (gang : Nat) (at_ : Placement) (l : Launch) : Launch :=
  { l with
    started := some (l.started.getD now)
    gangs := modAt l.gangs gang fun g => { g with st := .running at_, cluster := some at_.cluster, ready := none, started := now } }

/-- The state once a gang has been placed and its units have started. -/
def gangStarted (m : State) (j : Job) (l : LaunchId) (x : GangRef) (gang : Nat) (at_ : Placement) : State :=
  let b := loadGang m j l.graph l.launch x.l gang at_
  let s := mapLaunch b (idKey l) l.graph l.launch (gangPlaced b.time gang at_)
  { s with cores := s.cores ++ (placedCores x.l.rec_ at_).filterMap id, freeCtr := s.freeCtr + 1 }

section Start

variable {s m : State} {l : LaunchId} {gang : Nat} {at_ : Placement} {x : GangRef} {j : Job}

theorem exec_gangStart (hx : gangRef (markReady s) l gang = some x) (hj : mget (markReady s).jobs (idKey l) = some j)
    (hw : x.g.st = .waiting) (hm : mayPlace (markReady s) l.part x = true)
    (ha : admits (markReady s) l.part x.l gang (markReady s).cores at_ = true) :
    exec (.gangStart l gang at_) s = .next (afterPlacing (gangStarted (markReady s) j l x gang at_) x) := by
  refine congrArg Host.Outcome.next ?_
  generalize markReady s = m at *
  have hc : (x.g.st != .waiting || !mayPlace m l.part x || !admits m l.part x.l gang m.cores at_) = false := by simp [hw, hm, ha]
  simp only [hx, hj, hc, Bool.false_eq_true, if_false]
  rfl

/-- With nothing stuck, the placement pre-empts nothing. -/
theorem afterPlacing_free (h : firstStuck (markReady m) x.part = none) : afterPlacing m x = markReady m := by
  simp [afterPlacing, schedulePart, chosenVictim, h]

/-- What a state keeps while a gang is loaded on its cores. -/
theorem loadGang_keeps (i : Nat) (seq : W16) (y : Launch) : let t := loadGang m j seq i y gang at_
    t.jobs = m.jobs ∧ t.dram = m.dram ∧ t.time = m.time ∧ t.cores = m.cores := by
  unfold loadGang putAside
  split
  · split
    · exact ⟨rfl, rfl, rfl, rfl⟩
    · split <;> exact ⟨rfl, rfl, rfl, rfl⟩
  · exact ⟨rfl, rfl, rfl, rfl⟩

theorem putAside_aside (s : State) : (putAside s).aside
    = s.aside ++ (if s.unit.run = .saved then [⟨s.unit, s.peers, s.area, s.inbound, s.pkg.heldChunks.filter (chunkHere s)⟩] else []) := by
  unfold putAside
  split <;> simp_all

/-- What a state keeps while a gang starts. -/
theorem gangStarted_keeps : let t := gangStarted m j l x gang at_
    t.dram = m.dram ∧ t.time = m.time ∧ t.cores = m.cores ++ (placedCores x.l.rec_ at_).filterMap id := by
  obtain ⟨-, hd, ht, hc⟩ := loadGang_keeps (m := m) (j := j) (gang := gang) (at_ := at_) l.launch l.graph x.l
  have h := mapLaunch_jobsOnly (loadGang m j l.graph l.launch x.l gang at_) (idKey l) l.graph l.launch
    (gangPlaced (loadGang m j l.graph l.launch x.l gang at_).time gang at_)
  simp only [gangStarted]
  rw [h]
  exact ⟨hd, ht, by rw [hc]⟩

/-- The launch of the gang after the start. -/
theorem launchOf_gangStarted : launchOf (gangStarted m j l x gang at_) l = (launchOf m l).map (gangPlaced m.time gang at_) := by
  obtain ⟨hj, -, ht, -⟩ := loadGang_keeps (m := m) (j := j) (gang := gang) (at_ := at_) l.launch l.graph x.l
  have h : (gangStarted m j l x gang at_).jobs = (mapLaunch (loadGang m j l.graph l.launch x.l gang at_) (idKey l) l.graph
      l.launch (gangPlaced (loadGang m j l.graph l.launch x.l gang at_).time gang at_)).jobs := rfl
  rw [launchOf, launchAt, h, ← launchAt, launchAt_mapLaunch, ht, launchAt, hj]
  rfl

theorem getElem?_of_mem_zip_upto {α : Type} {a : List α} {k : Nat} {b : α} (h : (k, b) ∈ (upto 0 a.length).zip a) : a[k]? = some b := by
  obtain ⟨i, hi, he⟩ := List.mem_iff_getElem.1 h
  simp only [List.getElem_zip, upto_eq_range', List.getElem_range', Prod.mk.injEq] at he
  obtain ⟨rfl, rfl⟩ := he
  simp at hi
  simp [hi]

/-- A reference names a gang of its launch. -/
theorem gang_of_gangRef (h : gangRef m l gang = some x) : x.l.gangs[gang]? = some x.g := by
  have hmem := List.mem_of_find?_eq_some h
  have hid := List.find?_some h
  simp only [partGangs, List.mem_flatMap] at hmem
  obtain ⟨⟨key, j⟩, -, gr, -, ⟨i, y⟩, -, hin⟩ := hmem
  split at hin
  · obtain ⟨⟨k, g⟩, hk, rfl⟩ := List.mem_map.1 hin
    simp only [Bool.and_eq_true, beq_iff_eq] at hid
    exact hid.2 ▸ getElem?_of_mem_zip_upto hk
  · simp at hin

/-- The unit that starts on the modelled core, logical core c of its gang. -/
def loadedUnit (m : State) (j : Job) (l : LaunchId) (x : GangRef) (gang c : Nat) (at_ : Placement) (im : Image) : Unit :=
  let u := startUnit m j l.graph l.launch x.l gang c m.here im
  { u with launch := { u.launch with routers := physSlots x.l.rec_ at_ im.slots } }

theorem gangStarted_unit {c : Nat} {im : Image} (hr : m.unit.run = .none ∨ m.unit.run = .saved)
    (hc : modelledCore m.here x.l.rec_ at_ = some c) (hi : mget m.images (lrImage x.l.rec_) = some im) :
    (gangStarted m j l x gang at_).unit = loadedUnit m j l x gang c at_ im
      ∧ (gangStarted m j l x gang at_).aside = (putAside m).aside := by
  have hh : coreHeld m = false := by rcases hr with h | h <;> simp [coreHeld, h]
  have h := mapLaunch_jobsOnly (loadGang m j l.graph l.launch x.l gang at_) (idKey l) l.graph l.launch
    (gangPlaced (loadGang m j l.graph l.launch x.l gang at_).time gang at_)
  simp only [gangStarted]
  rw [h]
  simp only [loadGang, hc, hi, hh]
  exact ⟨rfl, rfl⟩

end Start

/-! ### The registers of a unit as it starts (R47) -/

section Fresh

variable (m : State) (j : Job) (l : LaunchId) (x : GangRef) (gang c : Nat) (at_ : Placement) (im : Image)

/-- The arguments stand in G1 to G8. -/
theorem loadedUnit_gReg (r : BitVec 6) : gReg (loadedUnit m j l x gang c at_ im) r
    = if 1 ≤ r.toNat ∧ r.toNat ≤ 8 then lrWord x.l.rec_ (7 + r.toNat) else 0#64 := by
  by_cases h : r = 0#6
  · subst h
    rfl
  · simp [gReg, loadedUnit, startUnit, h]

theorem loadedUnit_pReg {r : BitVec 3} (h : r ≠ 0#3) : pReg (loadedUnit m j l x gang c at_ im) r = false := by
  have hp : ∀ r : BitVec 3, r ≠ 0#3 → (r == 0#3 || (1#8).getLsbD r.toNat) = false := by decide
  exact hp r h

theorem loadedUnit_mReg {r : BitVec 3} (h : r ≠ 0#3) : mReg (loadedUnit m j l x gang c at_ im) r = 0#64 := by
  simp [mReg, h, loadedUnit, startUnit, Unit.start]

theorem loadedUnit_vReg (r : BitVec 5) : vReg (loadedUnit m j l x gang c at_ im) r = 0#2048 := by
  simp [vReg, loadedUnit, startUnit, Unit.start]

end Fresh

/-- Settles O55, by what the start of a gang leaves and by the registers of the unit that it loads. -/
theorem gangStartsItsUnits : Obligations.GangStartsItsUnits := by
  intro s l gang at_ x j m hx hj hl hw hm ha
  obtain ⟨hd, ht, hc⟩ := gangStarted_keeps (m := m) (j := j) (l := l) (x := x) (gang := gang) (at_ := at_)
  have hs : JobsOnly s m := markReady_jobsOnly s
  refine ⟨gangStarted m j l x gang at_, exec_gangStart hx hj hw hm ha, ?_, ?_, fun hf => ?_, ?_, ?_, fun c im hr hcore him => ?_⟩
  · rw [hd, hs.dram]
  · rw [ht, hs.time]
  · rw [exec_gangStart hx hj hw hm ha, afterPlacing_free hf]
  · rw [hc, hs.cores]
  · simp [launchOf_gangStarted, hl, gangPlaced, getElem?_modAt, gang_of_gangRef hx]
  · obtain ⟨hu, has⟩ := gangStarted_unit (j := j) (l := l) (gang := gang) (x := x) (at_ := at_) (m := m) (c := c) (im := im)
      (by rw [hs]; exact hr) (by rw [hs]; exact hcore) (by rw [hs]; exact him)
    intro u
    rw [has, putAside_aside, show u = loadedUnit m j l x gang c at_ im from hu]
    exact ⟨by rw [hs], rfl, rfl, rfl, loadedUnit_gReg m j l x gang c at_ im,
      fun r hr => ⟨loadedUnit_pReg m j l x gang c at_ im hr, loadedUnit_mReg m j l x gang c at_ im hr⟩,
      loadedUnit_vReg m j l x gang c at_ im, rfl, rfl, rfl, rfl, rfl, rfl, rfl, rfl, rfl⟩

end Sys2Proof.Machine
end

section
/-! SUPPORT. A job with one launch of one graph: how its completion settles (R350, R357, R358, R360). -/

namespace Sys2Proof.Machine

/-! ### A state that differs in the job at one key -/

/-- s is b with other jobs, that at the key being j. -/
structure JobAt (b : State) (key : Nat) (j : Job) (s : State) : Prop where
  rest : JobsOnly b s
  job  : mget s.jobs key = some j

section Update

variable {b s : State} {key : Nat} {j : Job} {q : W16} {y : Launch}

theorem JobAt.mapJob (h : JobAt b key j s) (f : Job → Job) : JobAt b key (f j) (mapJob s key f) :=
  ⟨h.rest.trans (mapJob_jobsOnly _ _ _), mget_mapJob_self f h.job⟩

/-- The job with its only launch replaced. -/
def withLaunch (j : Job) (q : W16) (y : Launch) (done : Bool) : Job := { j with graphs := [⟨q, [y], done, none⟩] }

theorem withLaunch_self {d : Bool} (hg : j.graphs = [⟨q, [y], d, none⟩]) : withLaunch j q y d = j := by
  rw [withLaunch, ← hg]

theorem JobAt.mapLaunch {d : Bool} (h : JobAt b key (withLaunch j q y d) s) (f : Launch → Launch) :
    JobAt b key (withLaunch j q (f y) d) (mapLaunch s key q 0 f) := by
  have hj : { withLaunch j q y d with graphs := mapGraphs q 0 f (withLaunch j q y d).graphs } = withLaunch j q (f y) d := by
    simp [withLaunch, mapGraphs, modAt]
  exact hj ▸ h.mapJob fun j => { j with graphs := mapGraphs q 0 f j.graphs }

theorem JobAt.launch {d : Bool} (h : JobAt b key (withLaunch j q y d) s) : launchAt s key q 0 = some y := by
  simp [launchAt, h.job, withLaunch]

theorem JobAt.graphs {d : Bool} (h : JobAt b key (withLaunch j q y d) s) : graphsOf s key = [⟨q, [y], d, none⟩] := by
  simp [graphsOf, h.job, withLaunch]

end Update

/-! ### The launch completes (R357, R360) -/

/-- The launch, every gang of which is done, has the status st to complete with. -/
structure LaunchOver (y : Launch) (st : Byte) : Prop where
  open_  : y.status = none ∧ y.detail = 0#8
  free   : y.deps = []
  gangs  : ∀ g ∈ y.gangs, g.st = .done
  status : y.cancelled = some st ∨ y.cancelled = none ∧ lrPaired y.rec_ = false ∧ unitsStatus y = (st, 0#8)

/-- The launch with its status. -/
def launchEnded (y : Launch) (st : Byte) (phase : W32) : Launch :=
  { y with status := some st, detail := 0#8, result := 0#8, sig := 0#64, endPhase := some phase }

/-- The job whose launch has completed. -/
def afterLaunch (j : Job) (q : W16) (st : Byte) (time : Nat) : Job :=
  { j with launchesOut := j.launchesOut - 1, held := j.held ++ [⟨j.r.job, q, 0#8, 1#8, st, 0#8, 0#8, j.phase, 0#64, time⟩] }

/-- The job whose graph has completed. -/
def afterGraph (j : Job) (q : W16) (st : Byte) (time : Nat) : Job :=
  { j with
    status := minNz j.status st, graphsOut := j.graphsOut - 1
    held := j.held ++ [⟨j.r.job, q, 0xFF#8, 2#8, st, 0#8, 0#8, j.phase, 0#64, time⟩] }

section Settle

variable {b s : State} {key : Nat} {j : Job} {q : W16} {y : Launch} {st : Byte}

theorem settleLaunch_over (h : JobAt b key (withLaunch j q y false) s) (ho : LaunchOver y st) :
    settleLaunch s key q 0 = finishLaunch s key q 0 st 0#8 0#8 0#64 := by
  obtain ⟨⟨hs, hd⟩, hf, hg, hst⟩ := ho
  have hp : producersOf (withLaunch j q y false) y = [] := by simp [producersOf, hf]
  have hgs : y.gangs.any (fun g => g.st != .done) = false := by
    rw [List.any_eq_false]
    intro g hm
    simp [hg g hm]
  obtain hc | ⟨hc, hpair, hu⟩ := hst
  · simp [settleLaunch, h.job, h.launch, hs, hd, hp, hgs, hc]
  · simp [settleLaunch, h.job, h.launch, hs, hd, hp, hgs, hc, hpair, hu]

theorem finishLaunch_jobAt (h : JobAt b key (withLaunch j q y false) s) :
    JobAt b key (withLaunch (afterLaunch j q st b.time) q (launchEnded y st j.phase) false) (finishLaunch s key q 0 st 0#8 0#8 0#64) := by
  have h1 : JobAt b key (withLaunch { j with launchesOut := j.launchesOut - 1 } q y false)
      (mapJob s key fun j => { j with launchesOut := j.launchesOut - 1 }) := h.mapJob fun j => { j with launchesOut := j.launchesOut - 1 }
  have h2 := (h1.mapLaunch fun y => launchEnded y st j.phase).mapJob fun k =>
    { k with held := k.held ++ [⟨j.r.job, q, 0#8, 1#8, st, 0#8, 0#8, j.phase, 0#64, b.time⟩] }
  simp only [finishLaunch, h.job, h.rest.time]
  exact h2

theorem launchPass_over (h : JobAt b key (withLaunch j q y false) s) (ho : LaunchOver y st) :
    JobAt b key (withLaunch (afterLaunch j q st b.time) q (launchEnded y st j.phase) false) (launchPass key s) := by
  simp only [launchPass, h.graphs, List.foldl, List.length_singleton, upto, settleLaunch_over h ho]
  exact finishLaunch_jobAt h

/-- A launch with a status has nothing to settle. -/
theorem launchPass_quiet {d : Bool} (h : JobAt b key (withLaunch j q y d) s) (hs : y.status.isSome = true) : launchPass key s = s := by
  simp only [launchPass, h.graphs, List.foldl, List.length_singleton, upto, settleLaunch, h.job, h.launch, hs, if_true]

/-- With no reply of the job open, none ends. -/
theorem endJobReplies_none {part : BitVec 4} {job : W32} (h : ∀ c ∈ s.text.ctxs, ¬(c.part = part ∧ c.job = job)) (status : Nat)
    (send : Bool) : endJobReplies s part job status send = s := by
  have hf : (s.text.ctxs.filter fun c => c.part == part && c.job == job) = [] := by
    rw [List.filter_eq_nil_iff]
    intro c hc
    simpa using h c hc
  rw [endJobReplies, hf]
  rfl

/-- The graph of the job marked done. -/
def closeGraph (q : W16) (st : Byte) (j : Job) : Job :=
  { j with
    status := minNz j.status st, graphs := j.graphs.map fun g => if g.seq == q then { g with done := true } else g
    graphsOut := j.graphsOut - 1 }

theorem settleGraph_over (h : JobAt b key (withLaunch j q y false) s) (hs : y.status = some st)
    (hr : ∀ c ∈ b.text.ctxs, ¬(c.part = j.r.part ∧ c.job = j.r.job)) :
    JobAt b key (withLaunch (afterGraph j q st b.time) q y true) (settleGraph s key q) := by
  have h1 := h.mapJob (closeGraph q st)
  have h2 := h1.mapJob fun k => { k with held := k.held ++ [⟨j.r.job, q, 0xFF#8, 2#8, st, 0#8, 0#8, j.phase, 0#64, b.time⟩] }
  have he := endJobReplies_none (h2.rest.text.symm ▸ hr) 0x16 true
  have hst : minNz 0#8 st = st := rfl
  simp only [settleGraph, h.job, withLaunch, List.find?_cons, beq_self_eq_true, Bool.false_or, List.any_cons, List.any_nil, hs,
    Option.isNone_some, Bool.false_eq_true, if_false, List.foldl, Option.getD_none, Option.getD_some, hst]
  change JobAt b key _ (if st == 0#8 then addRecord (mapJob s key (closeGraph q st)) key
      ⟨j.r.job, q, 0xFF#8, 2#8, st, 0#8, 0#8, j.phase, 0#64, (mapJob s key (closeGraph q st)).time⟩
    else endJobReplies (addRecord (mapJob s key (closeGraph q st)) key
      ⟨j.r.job, q, 0xFF#8, 2#8, st, 0#8, 0#8, j.phase, 0#64, (mapJob s key (closeGraph q st)).time⟩) j.r.part j.r.job 0x16 true)
  rw [h1.rest.time, addRecord, he, ite_self]
  simpa [closeGraph, withLaunch, afterGraph] using h2

theorem settleGraph_done (h : JobAt b key (withLaunch j q y true) s) : settleGraph s key q = s := by
  simp [settleGraph, h.job, withLaunch]

/-- A session that stays open, not a stream, whose launch takes no part in a phase: neither the phase nor the session ends. -/
theorem phase_and_end_quiet {d some_ : Bool} (h : JobAt b key (withLaunch j q y d) s) (ho : j.open_ = true) (hst : j.r.stream = false)
    (hp : lrPhb y.rec_ = false) : settleEnd (phaseOrBoundary s key some_) key = s := by
  have he : phaseEnds s key = false := by simp [phaseEnds, h.job, phaseHasMember, jobLaunches, withLaunch, hp]
  have hb : boundary s key = s := by simp [boundary, h.job, withLaunch, hst]
  have hq : phaseOrBoundary s key some_ = s := by simp [phaseOrBoundary, he, hb]
  simp [hq, settleEnd, h.job, withLaunch, ho]

/-- The job once its launch and its graph have completed. -/
def settledJob (j : Job) (q : W16) (y : Launch) (st : Byte) (time : Nat) : Job :=
  withLaunch (afterGraph (afterLaunch j q st time) q st time) q (launchEnded y st j.phase) true

/-- The first round completes the launch and then the graph. -/
theorem settlePass_over (h : JobAt b key (withLaunch j q y false) s) (ho : LaunchOver y st)
    (hr : ∀ c ∈ b.text.ctxs, ¬(c.part = j.r.part ∧ c.job = j.r.job)) (hop : j.open_ = true) (hst : j.r.stream = false)
    (hp : lrPhb y.rec_ = false) : JobAt b key (settledJob j q y st b.time) (settlePass key s) := by
  have h1 := launchPass_over h ho
  have h2 : JobAt b key (settledJob j q y st b.time) (settleGraph (launchPass key s) key q) := settleGraph_over h1 rfl hr
  have hl : ((graphsOf s key).flatMap (·.launches)).length = 1 := by simp [h.graphs]
  simp only [settlePass, hl, iter, h1.graphs, List.foldl]
  rw [phase_and_end_quiet h2 hop hst hp]
  exact h2

/-- The rounds that follow find nothing. -/
theorem settlePass_quiet (h : JobAt b key (withLaunch j q y true) s) (hs : y.status.isSome = true) (hop : j.open_ = true)
    (hst : j.r.stream = false) (hp : lrPhb y.rec_ = false) : settlePass key s = s := by
  have hi : iter (launchPass key) ((graphsOf s key).flatMap (·.launches)).length s = s := by
    rw [h.graphs]
    exact launchPass_quiet h hs
  simp only [settlePass, hi]
  simp only [h.graphs, List.foldl, settleGraph_done h]
  exact phase_and_end_quiet h hop hst hp

end Settle

/-! ### The marks of ready gangs leave what has completed -/

/-- Of a job: which of its graphs are done, and its held records. -/
def progress (j : Job) : List Bool × List CompRecord := (j.graphs.map (·.done), j.held)

theorem progress_mapGraphs (j : Job) (seq : W16) (i : Nat) (f : Launch → Launch) :
    progress { j with graphs := mapGraphs seq i f j.graphs } = progress j := by
  have hg : (fun g : Graph => (if g.seq == seq then { g with launches := modAt g.launches i f } else g).done) = fun g => g.done := by
    funext g
    split <;> rfl
  simp only [progress, mapGraphs, List.map_map]
  exact congrArg (·, j.held) (congrArg (fun f => j.graphs.map f) hg)

theorem progress_mapLaunch (s : State) (key a : Nat) (seq : W16) (i : Nat) (f : Launch → Launch) :
    (mget (mapLaunch s key seq i f).jobs a).map progress = (mget s.jobs a).map progress := by
  rw [mapLaunch, mget_mapJob]
  split
  · rw [Option.map_map]
    exact congrArg (Option.map · (mget s.jobs a)) (funext fun j => progress_mapGraphs j seq i f)
  · rfl

theorem progress_markGang (s : State) (x : GangRef) (a : Nat) : (mget (markGang s x).jobs a).map progress = (mget s.jobs a).map progress := by
  unfold markGang
  split
  · exact progress_mapLaunch _ _ _ _ _ _
  · rfl

theorem progress_markReady (s : State) (a : Nat) : (mget (markReady s).jobs a).map progress = (mget s.jobs a).map progress := by
  rw [markReady_eq]
  generalize (s.jobs.flatMap fun j => partGangs s j.2.r.part) = l
  induction l generalizing s with
  | nil => rfl
  | cons x l ih => exact (ih (markGang s x)).trans (progress_markGang s x a)

section Settled

variable {b s : State} {key : Nat} {j : Job} {q : W16} {y : Launch} {st : Byte}

/-- The job of one launch settles: its launch and its graph complete with the status, and nothing but jobs changes. -/
theorem settle_over (h : JobAt b key (withLaunch j q y false) s) (ho : LaunchOver y st)
    (hr : ∀ c ∈ b.text.ctxs, ¬(c.part = j.r.part ∧ c.job = j.r.job)) (hop : j.open_ = true) (hst : j.r.stream = false)
    (hp : lrPhb y.rec_ = false) :
    JobsOnly b (settle s key) ∧ ∃ j', mget (settle s key).jobs key = some j' ∧ progress j' = progress (settledJob j q y st b.time) := by
  have h1 := settlePass_over h ho hr hop hst hp
  have hq : settlePass key (settlePass key s) = settlePass key s := settlePass_quiet h1 rfl hop hst hp
  have he : settle s key = markReady (settlePass key s) := by simp only [settle, iter, hq]
  rw [he]
  refine ⟨h1.rest.trans (markReady_jobsOnly _), ?_⟩
  have hm := progress_markReady (settlePass key s) key
  rw [h1.job] at hm
  exact Option.map_eq_some_iff.1 hm

/-- The records that have been added: the launch's and the graph's. -/
theorem progress_settledJob (time : Nat) : progress (settledJob j q y st time) = ([true],
    j.held ++ [⟨j.r.job, q, 0#8, 1#8, st, 0#8, 0#8, j.phase, 0#64, time⟩, ⟨j.r.job, q, 0xFF#8, 2#8, st, 0#8, 0#8, j.phase, 0#64, time⟩]) := by
  simp [progress, settledJob, withLaunch, afterGraph, afterLaunch]

end Settled

end Sys2Proof.Machine
end

section
/-! SUPPORT. The only launch of a session: the completion of its unit, and its cancel before it starts (R80, R357, R359). -/

namespace Sys2Proof.Machine

section Only

variable {s : State} {l : LaunchId} {j : Job} {x : Launch} {g : Gang}

theorem OnlyLaunch.jobAt (h : OnlyLaunch s l j x g) : JobAt s (idKey l) (withLaunch j l.graph x false) s :=
  ⟨.refl s, by rw [withLaunch_self h.graphs.1]; exact h.job⟩

/-- What has become of the launch settles: its records are held, and nothing but jobs changes. -/
theorem OnlyLaunch.settles (h : OnlyLaunch s l j x g) {b t : State} {y : Launch} {st : Byte}
    (ht : JobAt b (idKey l) (withLaunch j l.graph y false) t) (htext : b.text = s.text) (htime : b.time = s.time) (hy : y.rec_ = x.rec_)
    (ho : LaunchOver y st) : JobsOnly b (settle t (idKey l)) ∧ ∃ j', mget (settle t (idKey l)).jobs (idKey l) = some j'
      ∧ j'.graphs.map (·.done) = [true] ∧ j'.held = j.held ++ [⟨j.r.job, l.graph, 0#8, 1#8, st, 0#8, 0#8, j.phase, 0#64, s.time⟩,
        ⟨j.r.job, l.graph, 0xFF#8, 2#8, st, 0#8, 0#8, j.phase, 0#64, s.time⟩] := by
  obtain ⟨hpart, hjob⟩ := h.names
  obtain ⟨hst, hop, -⟩ := h.going
  obtain ⟨-, -, -, hphb, -⟩ := h.single
  have hr : ∀ c ∈ b.text.ctxs, ¬(c.part = j.r.part ∧ c.job = j.r.job) := by
    rw [htext, hpart, hjob]
    exact h.replies
  obtain ⟨hrest, j', hj', hp⟩ := settle_over ht ho hr hop hst (hy ▸ hphb)
  rw [progress_settledJob, htime] at hp
  exact ⟨hrest, j', hj', congrArg Prod.fst hp, congrArg Prod.snd hp⟩

/-! ### The cancel of a launch that has not started (R359) -/

/-- The launch with the status of an accepted cancel. -/
def withCancel (st : Byte) (y : Launch) : Launch := { y with cancelled := some st }

/-- The launch with its first gang, which has not started, cancelled. -/
def gangGone (y : Launch) : Launch :=
  { y with
    gangs := modAt y.gangs 0 fun g => { g with st := .done, cancelled := true }
    units := (gangUnits y 0).foldl (fun m k => mset m k { unitInfo y k with done := true }) y.units }

theorem cancelLaunch_waiting (h : OnlyLaunch s l j x g) (hw : g.st = .waiting) (st : Byte) :
    JobAt s (idKey l) (withLaunch j l.graph (gangGone (withCancel st x)) false) (cancelLaunch s (idKey l) l.graph 0 st) := by
  obtain ⟨hs, -, hc, -, -, hg⟩ := h.fresh
  have h1 := h.jobAt.mapLaunch (withCancel st)
  have hg0 : (withCancel st x).gangs[0]? = some g := by simp [withCancel, hg]
  have hgang : cancelGang (mapLaunch s (idKey l) l.graph 0 (withCancel st)) (idKey l) l.graph 0 0
      = mapLaunch (mapLaunch s (idKey l) l.graph 0 (withCancel st)) (idKey l) l.graph 0 gangGone := by
    simp only [cancelGang, h1.launch, hg0, hw]
    rfl
  have hl : cancelLaunch s (idKey l) l.graph 0 st
      = cancelGang (mapLaunch s (idKey l) l.graph 0 (withCancel st)) (idKey l) l.graph 0 0 := by
    simp only [cancelLaunch, h.jobAt.launch, hs, hc, hg, Option.isSome_none, Bool.or_self, Bool.false_eq_true, if_false]
    rfl
  rw [hl, hgang]
  exact h1.mapLaunch gangGone

theorem gangGone_over (h : OnlyLaunch s l j x g) (st : Byte) : LaunchOver (gangGone (withCancel st x)) st := by
  obtain ⟨hs, hd, -, hdep, -, hg⟩ := h.fresh
  exact ⟨⟨hs, hd⟩, hdep, by simp [gangGone, withCancel, hg, modAt], .inl rfl⟩

/-! ### The completion of the unit (R80) -/

theorem lrCores_single {r : LaunchRec} (h1 : lrNr r = 1) (h2 : lrNc r = 1) : lrCores r = [0] := by
  simp only [lrCores, h1, h2]
  decide

theorem gangUnits_single (x : Launch) (h1 : lrNr x.rec_ = 1) (h2 : lrNc x.rec_ = 1) : gangUnits x 0 = [unitKeyOf x 0 0] := by
  simp [gangUnits, lrSize, h1, h2, upto]

/-- The dispatcher's notes of the launch's units, its only one completed. -/
def unitDone (x : Launch) (sig : W64) : SMap UnitInfo :=
  mset x.units (unitKeyOf x 0 0) { unitInfo x (unitKeyOf x 0 0) with
    done := true, waits := false, arrived := none, status := 0#8, detail := 0#8, sig := sig }

/-- The launch with these notes, its first gang done. -/
def withUnits (m : SMap UnitInfo) (y : Launch) : Launch := { y with units := m, gangs := modAt y.gangs 0 fun g => { g with st := .done } }

/-- The launch whose unit has completed. -/
def completedLaunch (x : Launch) (sig : W64) : Launch := withUnits (unitDone x sig) x

theorem completedLaunch_over (h : OnlyLaunch s l j x g) (sig : W64) : LaunchOver (completedLaunch x sig) 0#8 := by
  obtain ⟨hs, hd, hc, hdep, hu, hg⟩ := h.fresh
  obtain ⟨-, -, -, -, hpair⟩ := h.single
  refine ⟨⟨hs, hd⟩, hdep, by simp [completedLaunch, withUnits, hg, modAt], .inr ⟨hc, hpair, ?_⟩⟩
  simp [unitsStatus, completedLaunch, withUnits, unitDone, hu, mset]

/-- The state with the cores of a placed unit free. -/
def freeCore (s : State) (x : Launch) (at_ : Placement) : State :=
  { s with cores := s.cores.filter fun c => some c != placedCore x.rec_ at_ 0 }

theorem completeUnit_only (h : OnlyLaunch s l j x g) {at_ : Placement} (hr : g.st = .running at_) (sig : W64) :
    JobAt (freeCore s x at_) (idKey l) (withLaunch j l.graph (completedLaunch x sig) false)
      (completeUnit s (idKey l) l.graph 0 0 0 0#8 0#8 sig) := by
  obtain ⟨-, -, -, -, hu, hg⟩ := h.fresh
  obtain ⟨-, hnr, hnc, -, -⟩ := h.single
  have h1 : JobAt (freeCore s x at_) (idKey l) (withLaunch j l.graph x false) (freeCore s x at_) := ⟨.refl _, h.jobAt.job⟩
  have hgang : x.gangs[0]?.bind gangAt = some at_ := by simp [hg, gangAt, hr]
  have hcore : nth (lrCores x.rec_) 0 0 = 0 := by
    rw [lrCores_single hnr hnc]
    rfl
  have hdone : (unitInfo { x with units := unitDone x sig } (unitKeyOf x 0 0)).done = true := by
    simp [unitInfo, unitDone, mget_mset]
  have hall : completeUnit s (idKey l) l.graph 0 0 0 0#8 0#8 sig
      = mapLaunch (freeCore s x at_) (idKey l) l.graph 0 (withUnits (unitDone x sig)) := by
    simp only [completeUnit, h.jobAt.launch, hgang, hcore, gangUnits_single x hnr hnc, List.all_cons, List.all_nil, Bool.and_true]
    change mapLaunch (freeCore s x at_) (idKey l) l.graph 0 (fun y => { y with
      units := unitDone x sig
      gangs := modAt y.gangs 0 fun g =>
        if (unitInfo { x with units := unitDone x sig } (unitKeyOf x 0 0)).done then { g with st := .done } else g }) = _
    rw [hdone]
    rfl
  rw [hall]
  exact h1.mapLaunch _

theorem OnlyLaunch.launchOf (h : OnlyLaunch s l j x g) : launchOf s l = some x := by
  rw [Machine.launchOf, h.graphs.2]
  exact h.jobAt.launch

end Only

theorem JobAt.mapUnit {b t : State} {key : Nat} {j : Job} (h : JobAt b key j t) (f : Unit → Unit) :
    JobAt (b.mapUnit f) key j (t.mapUnit f) := by
  refine ⟨?_, h.job⟩
  rw [h.rest]
  rfl

/-- No generation of the cluster barrier is open to this unit or its peers. -/
theorem barrierAdvance_idle {s : State} (hp : s.unit.cr.cbarPend = false) (hq : s.unit.cr.cbarPeers = 0#16) : barrierAdvance s = s := by
  simp [barrierAdvance, hp, hq]

/-- A unit of a gang of one core that has exited, whose operations have all performed (R80). -/
structure UnitOver (u : Unit) : Prop where
  exited   : u.run = .exited
  gang     : u.launch.gang = 0
  column   : u.launch.nc = 1
  lcore    : u.cr.lcore = 0#4
  quiet    : unitQuiet u = true
  accs     : u.accs = []
  triggers : u.triggers = []
  deferred : u.deferred = []

/-- The unit as it stands once it has completed. -/
def completedUnit (u : Unit) : Unit := { u with run := .completed, deferred := [], l1 := if u.launch.fuse then [] else u.l1 }

section Complete

variable {s : State} {l : LaunchId} {j : Job} {x : Launch} {g : Gang}

theorem completeOwn_only (h : OnlyLaunch s l j x g) {at_ : Placement} (hr : g.st = .running at_) (hu : UnitOver s.unit) :
    JobAt ((freeCore s x at_).mapUnit completedUnit) (idKey l)
      (withLaunch j l.graph (completedLaunch x (unitSignature s.unit)) false) (completeOwn s l) := by
  have hc := (completeUnit_only h hr (unitSignature s.unit)).mapUnit completedUnit
  obtain ⟨-, -, -, -, -, hg⟩ := h.fresh
  have hg0 : (completedLaunch x (unitSignature s.unit)).gangs[0]? = some { g with st := .done } := by
    simp [completedLaunch, withUnits, hg, modAt]
  obtain ⟨hrun, hgang, hnc, hlc, hq, ha, ht, hd⟩ := hu
  have hk : coreRank s.unit.launch.nc s.unit.cr.lcore.toNat = 0 := by rw [hnc, hlc]; rfl
  have he : oldestDeferred s.unit (fun _ => true) = none := by simp [oldestDeferred, hd]
  have hl : launchOf ((completeUnit s (idKey l) l.graph 0 0 0 0#8 0#8 (unitSignature s.unit)).mapUnit completedUnit) l
      = some (completedLaunch x (unitSignature s.unit)) := by
    rw [launchOf, h.graphs.2]
    exact hc.launch
  have hcu : (fun u : Unit => { u with run := .completed, deferred := [], l1 := if u.launch.fuse then [] else u.l1 }) = completedUnit := rfl
  have hown : completeOwn s l = (completeUnit s (idKey l) l.graph 0 0 0 0#8 0#8 (unitSignature s.unit)).mapUnit completedUnit := by
    simp only [completeOwn, hrun, hq, ha, ht, he, hk, hgang, h.graphs.2, beq_self_eq_true, Bool.true_or, Bool.not_true, List.isEmpty_nil,
      Bool.or_self, Bool.false_eq_true, if_false, if_true, Option.isSome_none, Option.elim_none, hcu, hl, Option.bind_some, hg0]
  rw [hown]
  exact hc

/-- The step of the unit's completion. -/
theorem exec_unitComplete_own {unit : W32} (hl : launchOf s l = some x) (ho : ownUnit s l unit = true) (hr : s.unit.run = .exited)
    (st d : Byte) : exec (.unitComplete l unit st d) s = .next (point s (settle (barrierAdvance (completeOwn s l)) (idKey l))) := by
  refine congrArg Host.Outcome.next ?_
  simp [hl, ho, hr]

end Complete

end Sys2Proof.Machine
end

section
/-! SUPPORT. The mark of a TRIGGER, and the records of jobs and partitions that reach their rings (R346, R358, R383). -/

namespace Sys2Proof.Machine

/-! ### TRIGGER_MARK (R346) -/

section Trigger

variable {s : State} {l : LaunchId} {x : Launch} {unit : W32} {t0 : Nat}

theorem names_of_ownUnit (h : ownUnit s l unit = true) : jobKey s.unit.cr.part s.unit.cr.job = idKey l
    ∧ s.unit.launch.graph = l.graph ∧ s.unit.launch.launch = l.launch := by
  simp only [ownUnit, ownGang, Bool.and_eq_true, beq_iff_eq] at h
  obtain ⟨⟨⟨⟨⟨-, hk⟩, hg⟩, hl⟩, -⟩, -⟩ := h
  exact ⟨hk, hg, hl⟩

theorem ownUnit_of_names (hr : s.unit.run = .exited) (hk : jobKey s.unit.cr.part s.unit.cr.job = idKey l)
    (hg : s.unit.launch.graph = l.graph) (hl : s.unit.launch.launch = l.launch) (hu : s.unit.cr.unit = unit) : ownUnit s l unit = true := by
  simp [ownUnit, ownGang, hr, hk, hg, hl, hu]

/-- The unit with the mark of a release taken. -/
def dropTrigger (t0 : Nat) (u : Unit) : Unit := { u with triggers := u.triggers.erase t0 }

/-- The unit known to have triggered. -/
def triggeredInfo (i : UnitInfo) : UnitInfo := { i with triggered := true }

theorem exec_triggerMark (hl : launchOf s l = some x) (ho : ownUnit s l unit = true) (hp : lrPaired x.rec_ = false)
    (ht : (s.unit.triggers.find? fun t => s.unit.accs.all fun a => decide (t ≤ a.id) || a.performed) = some t0) :
    exec (.triggerMark l unit) s = .next (mapOwnInfo (s.mapUnit (dropTrigger t0)) triggeredInfo) := by
  refine congrArg Host.Outcome.next ?_
  simp only [hl, ho, ht, hp, if_true, Bool.false_eq_true, if_false]
  rfl

/-- The mark stands in the launch. -/
theorem triggered_after_mark (hl : launchOf s l = some x) (ho : ownUnit s l unit = true) :
    ((launchOf (mapOwnInfo (s.mapUnit (dropTrigger t0)) triggeredInfo) l).map fun y => (unitInfo y (unitKeyOf x s.unit.launch.gang
      (coreRank s.unit.launch.nc s.unit.cr.lcore.toNat))).triggered) = some true := by
  obtain ⟨hk, hg, hi⟩ := names_of_ownUnit ho
  have hm : launchAt (s.mapUnit (dropTrigger t0)) (idKey l) l.graph l.launch = some x := hl
  have ha : mapOwnInfo (s.mapUnit (dropTrigger t0)) triggeredInfo = mapLaunch (s.mapUnit (dropTrigger t0)) (idKey l) l.graph l.launch
      fun y => { y with units := mset y.units (ownUnitKey s y) (triggeredInfo (unitInfo y (ownUnitKey s y))) } := by
    rw [← hk, ← hg, ← hi]
    rfl
  rw [ha, launchOf, launchAt_mapLaunch, hm]
  simp [unitInfo, mget_mset, ownUnitKey, triggeredInfo]

end Trigger

/-! ### Completion records (R358) -/

section Record

variable {s s1 s2 : State} {part : BitVec 4} {job : W32} {j : Job} {r : CompRecord} {rest : List CompRecord} {bs : List Byte}

/-- Where the job's next record goes. -/
def recordSlot (j : Job) : W64 := j.r.compRing + w64 (32 * j.compTail.toNat)

/-- The job once its oldest record has been written. -/
def recordTaken (rest : List CompRecord) (j : Job) : Job :=
  { j with held := rest, compTail := w32 ((j.compTail.toNat + 1) % j.r.compLen.toNat) }

theorem exec_record_waits (hj : mget s.jobs (jobKey part job) = some j) (hh : j.held = r :: rest) (hn : j.halt = .none)
    (hv : vread s (jobWho j) 0 (recordSlot j + 7) 1 = (s1, .ok bs)) (hb : bs ≠ [0#8]) :
    exec (.completionRecordWrite part job) s = .next s1 := by
  refine congrArg Host.Outcome.next ?_
  have hv' : vread s (jobWho j) 0 (j.r.compRing + w64 (32 * j.compTail.toNat) + 7) 1 = (s1, .ok bs) := hv
  have hb' : (bs != [0#8]) = true := bne_iff_ne.2 hb
  simp only [hj, hh, hn, hv', hb', if_true]

theorem exec_record_written (hj : mget s.jobs (jobKey part job) = some j) (hh : j.held = r :: rest) (hn : j.halt = .none)
    (hv : vread s (jobWho j) 0 (recordSlot j + 7) 1 = (s1, .ok [0#8])) (hc : vcheck s1 (jobWho j) 1 [(recordSlot j, 32)] = (s2, .ok ⟨⟩)) :
    exec (.completionRecordWrite part job) s = .next (mapJob (vwrite s2 (jobWho j) false (recordSlot j)
      (recordBytes r (if r.level = 3#8 ∨ r.level = 5#8 then r.phase else j.phase))).1 (jobKey part job) (recordTaken rest)) := by
  refine congrArg Host.Outcome.next ?_
  have hv' : vread s (jobWho j) 0 (j.r.compRing + w64 (32 * j.compTail.toNat) + 7) 1 = (s1, .ok [0#8]) := hv
  have hc' : vcheck s1 (jobWho j) 1 [(j.r.compRing + w64 (32 * j.compTail.toNat), 32)] = (s2, .ok ⟨⟩) := hc
  simp only [hj, hh, hn, hv', hc', bne_self_eq_false, Bool.false_eq_true, if_false, Bool.or_eq_true, beq_iff_eq]
  rfl

/-- The read, the check and the write of a record touch memory alone. -/
theorem record_memOnly {w : Who} {va va' : W64} {n : Nat} {ranges : List (W64 × Nat)} {out : List Byte}
    (hv : vread s w 0 va n = (s1, .ok bs)) (hc : vcheck s1 w 1 ranges = (s2, .ok ⟨⟩)) : MemOnly s (vwrite s2 w false va' out).1 := by
  have h1 := vread_memOnly s w 0 va n
  have h2 := vcheck_memOnly s1 w 1 ranges
  rw [hv] at h1
  rw [hc] at h2
  exact (h1.trans h2).trans (vwrite_memOnly s2 w va' out)

end Record

/-! ### Records of a partition (R383) -/

section Ring

variable {s : State} {part : BitVec 4} {job : W32} {d : PartDesc}

/-- With no record of the job to write, one of the partition is. -/
theorem exec_record_none (h : ∀ j, mget s.jobs (jobKey part job) = some j → j.held = []) :
    exec (.completionRecordWrite part job) s = .next (recordOut s part) := by
  refine congrArg Host.Outcome.next ?_
  cases hj : mget s.jobs (jobKey part job) with
  | none => simp only [hj]
  | some j => simp only [hj, h j hj]

/-- The first event of a partition none of whose events stands in its ring. -/
theorem ringRecord_first {ev : UnitEvent} {rest : List UnitEvent} (hp : mget s.ringPos d.part.toNat = none)
    (he : s.events.filter (fun e => e.part == d.part) = ev :: rest) : ringRecord s d 0 = some (0, d.evRing, eventBytes ev) := by
  simp [ringRecord, hp, he, w64]

theorem recordOut_event {a : AsidEntry} {ev : UnitEvent} {rest : List UnitEvent} (hd : mget s.pkg.parts part.toNat = some d)
    (hpart : d.part = part) (ha : asidOf s (BitVec.ofNat 12 d.asidBase) = some a) (hv : a.v = true)
    (hp : mget s.ringPos part.toNat = none) (he : s.events.filter (fun e => e.part == part) = ev :: rest) :
    recordOut s part = { (vwrite s (edgeWho (BitVec.ofNat 12 d.asidBase) a.gen) false d.evRing (eventBytes ev)).1 with
      ringPos := mset s.ringPos part.toNat 1 } := by
  subst hpart
  simp [recordOut, hd, ha, hv, upto, ringRecord_first hp he]

end Ring

/-- Settles O56, clause by clause: the completion and the cancel by what their launch settles to, the mark, the two records. -/
theorem unitsAndLaunchesComplete : Obligations.UnitsAndLaunchesComplete := by
  intro s l j x g u key own records
  refine ⟨?_, ?_, ?_, ?_, ?_⟩
  case refine_1 =>
    rintro at_ unit st d h hr ⟨hkey, hgraph, hlaunch⟩ hrun hgang hunit - hnc hlc hcb hcp hq ha ht hd
    have hown : ownUnit s l unit = true := ownUnit_of_names hrun hkey hgraph hlaunch hunit
    have hc := completeOwn_only h hr ⟨hrun, hgang, hnc, hlc, hq, ha, ht, hd⟩
    have hu : (completeOwn s l).unit = completedUnit u := hc.rest.unit
    have hx := exec_unitComplete_own h.launchOf hown hrun st d
    rw [barrierAdvance_idle (by rw [hu]; exact hcb) (by rw [hu]; exact hcp)] at hx
    obtain ⟨hrest, j', hj', hdone, hheld⟩ := h.settles hc rfl rfl rfl (completedLaunch_over h _)
    exact ⟨_, j', hx, congrArg Unit.run hrest.unit, (congrArg Unit.g hrest.unit).trans rfl,
      (congrArg Unit.pad hrest.unit).trans rfl, hrest.cores, hj', hdone, hheld⟩
  case refine_2 =>
    intro h hw
    have hx : exec (.cancel (.launch l)) s = .next (point s (settle (cancelLaunch s (idKey l) l.graph 0 1#8) (idKey l))) := by
      rw [← h.graphs.2]
      rfl
    obtain ⟨hrest, j', hj', hdone, hheld⟩ := h.settles (cancelLaunch_waiting h hw 1#8) rfl rfl rfl (gangGone_over h 1#8)
    exact ⟨_, j', hx, congrArg Unit.g hrest.unit, congrArg Unit.run hrest.unit, hrest.cores, hj', hdone, hheld⟩
  case refine_3 =>
    intro t0 hl ho hp ht
    exact ⟨_, exec_triggerMark hl ho hp ht, mapOwnInfo_unit _ _,
      (mapLaunch_jobsOnly (s.mapUnit (dropTrigger t0)) _ _ _ _).of_mapUnit, triggered_after_mark hl ho⟩
  case refine_4 =>
    intro r rest s1 bs hj hh hn at_ hv
    have hat : at_ = recordSlot j := rfl
    clear_value at_
    subst hat
    refine ⟨exec_record_waits hj hh hn hv, ?_⟩
    rintro s2 rfl hc
    have hm := record_memOnly (va' := recordSlot j) (out := recordBytes r (if r.level = 3#8 ∨ r.level = 5#8 then r.phase else j.phase)) hv hc
    refine ⟨_, exec_record_written hj hh hn hv hc, (mapJob_unit _ _ _).trans hm.unit, ?_, ?_, ?_⟩
    · exact (mapJob_jobsOnly _ _ _).time.trans hm.time
    · exact (mapJob_jobsOnly _ _ _).llc
    · refine mget_mapJob_self (recordTaken rest) ?_
      rw [hm.jobs]
      exact hj
  case refine_5 =>
    intro d a ev rest hnone hd hpart ha hv hp he
    have hm := vwrite_memOnly s (edgeWho (BitVec.ofNat 12 d.asidBase) a.gen) d.evRing (eventBytes ev)
    refine ⟨_, exec_record_none hnone, ?_⟩
    rw [recordOut_event hd hpart ha hv hp he]
    exact ⟨congrArg Unit.g hm.unit, by simp [mget_mset], rfl⟩

end Sys2Proof.Machine
end

section
/-! SUPPORT. Results in flight to a vector register (R124, R125, R138): the elements that pushLanes writes, and the flags of its lanes together. -/

namespace Sys2Proof.Machine

/-! ### Numbers put together from digits -/

/-- The sum of the digits c 0 to c (n − 1) of w bits, from bit off. -/
def packed (w off : Nat) (c : Nat → Nat) (n : Nat) : Nat := ((upto 0 n).map fun i => c i * 2 ^ (off + w * i)).sum

theorem upto_succ (lo n : Nat) : upto lo (n + 1) = upto lo n ++ [lo + n] := by
  rw [upto_eq_range', upto_eq_range', List.range'_concat, Nat.one_mul]

theorem packed_succ (w off : Nat) (c : Nat → Nat) (n : Nat) : packed w off c (n + 1) = packed w off c n + c n * 2 ^ (off + w * n) := by
  simp [packed, upto_succ]

section Digits

variable {w off n k : Nat} {c : Nat → Nat}

theorem packed_lt (hc : ∀ i, c i < 2 ^ w) : packed w off c n < 2 ^ (off + w * n) := by
  induction n with
  | zero => exact Nat.two_pow_pos _
  | succ n ih =>
    have hp : 2 ^ (off + w * (n + 1)) = 2 ^ w * 2 ^ (off + w * n) := by rw [← Nat.pow_add]; congr 1; ring
    have hm : (c n + 1) * 2 ^ (off + w * n) ≤ 2 ^ w * 2 ^ (off + w * n) := Nat.mul_le_mul_right _ (hc n)
    rw [packed_succ, hp]
    linarith

/-- A digit of the sum. -/
theorem packed_digit (hc : ∀ i, c i < 2 ^ w) (hk : k < n) : packed w off c n / 2 ^ (off + w * k) % 2 ^ w = c k := by
  induction n with
  | zero => exact absurd hk (Nat.not_lt_zero _)
  | succ n ih =>
    rw [packed_succ]
    rcases Nat.lt_succ_iff_lt_or_eq.1 hk with h | rfl
    · have hp : c n * 2 ^ (off + w * n) = 2 ^ (off + w * k) * (2 ^ w * (c n * 2 ^ (w * (n - k - 1)))) := by
        have he : off + w * n = (off + w * k) + w + w * (n - k - 1) := by
          obtain ⟨d, rfl⟩ := Nat.exists_eq_add_of_lt h
          rw [show k + d + 1 - k - 1 = d by omega]
          ring
        rw [he, Nat.pow_add, Nat.pow_add]
        ring
      rw [hp, Nat.add_mul_div_left _ _ (Nat.two_pow_pos _), Nat.add_mul_mod_self_left]
      exact ih h
    · rw [Nat.add_mul_div_right _ _ (Nat.two_pow_pos _), Nat.div_eq_of_lt (packed_lt hc), Nat.zero_add, Nat.mod_eq_of_lt (hc k)]

end Digits

/-! ### What pushLanes writes -/

/-- The written bits of an element of w bits, its data and its flags, as its place in a result gives them. -/
def elemBits (w : Nat) (o : Option (Nat × BitVec 6)) : Nat := if o.isSome then 2 ^ w - 1 else 0
def elemData (w : Nat) (o : Option (Nat × BitVec 6)) : Nat := (o.map fun e => e.1 % 2 ^ w).getD 0
def elemFlags (o : Option (Nat × BitVec 6)) : BitVec 6 := (o.map (·.2)).getD 0#6

theorem elemBits_lt (w : Nat) (o : Option (Nat × BitVec 6)) : elemBits w o < 2 ^ w := by
  have := Nat.two_pow_pos w
  unfold elemBits
  split <;> omega

theorem elemData_lt (w : Nat) (o : Option (Nat × BitVec 6)) : elemData w o < 2 ^ w := by
  cases o with
  | none => exact Nat.two_pow_pos w
  | some e => exact Nat.mod_lt _ (Nat.two_pow_pos w)

theorem build_eq (w off : Nat) (f : Nat → Option (Nat × BitVec 6)) : build w off f =
    (packed w off (fun i => elemBits w (f i)) 64, packed w off (fun i => elemData w (f i)) 64, laneFlags fun i => elemFlags (f i)) := by
  unfold build laneFlags
  generalize 64 = n
  induction n with
  | zero => rfl
  | succ n ih =>
    rw [upto_succ, List.foldl_append, List.foldl_append, ih, packed_succ, packed_succ]
    cases h : f n with
    | none => simp [elemBits, elemData, elemFlags, h]
    | some e => simp [elemBits, elemData, elemFlags, h]

/-- A lane of a vector register made from a number. -/
theorem lane_ofNat (x : Nat) {k : Nat} (hk : k < 64) : lane (BitVec.ofNat 2048 x) k = x / 2 ^ (32 * k) % 2 ^ 32 := by
  refine Nat.eq_of_testBit_eq fun b => ?_
  simp only [lane, BitVec.toNat_ofNat, Nat.testBit_mod_two_pow, Nat.testBit_div_two_pow]
  by_cases hb : b < 32
  · rw [decide_eq_true (show b + 32 * k < 2048 by omega), Bool.true_and]
  · simp [hb]

/-- The result of a slot without a guard whose answer is pushLanes on whole lanes. -/
theorem landsLanes_of_pushLanes {i : Instr} {s : State} {e st c : Bool} {f : State → SlotAnswer} {d : BitVec 5} {lat : Nat}
    {p : Nat → Option (Nat × BitVec 6)} (hx : exec i s = issueOne e st (slotWords i) c f s)
    (hf : f (atIssue (slotWords i) s) = pushLanes d lat 32 0 p (atIssue (slotWords i) s)) :
    LandsLanes i s lat d (fun k => (p k).map (·.1)) (laneFlags fun k => elemFlags (p k)) := by
  rw [pushLanes, build_eq] at hf
  refine ⟨_, _, acts_of_go hx hf rfl rfl rfl rfl rfl, fun k hk => ?_⟩
  have hbits := packed_digit (off := 0) (fun i => elemBits_lt 32 (p i)) hk
  have hdata := packed_digit (off := 0) (fun i => elemData_lt 32 (p i)) hk
  rw [Nat.zero_add] at hbits hdata
  rw [lane_ofNat _ hk, lane_ofNat _ hk, hbits, hdata]
  cases h : p k with
  | none => simp [h, elemBits]
  | some x => simp [h, elemBits, elemData]

/-! ### Flags of the lanes together -/

/-- Flags that one lane alone sets. -/
theorem laneFlags_first (fl : BitVec 6) : (laneFlags fun k => if k = 0 then fl else 0#6) = fl := by
  simp [laneFlags, upto]

theorem laneFlags_flagIf (p : Nat → Bool) (fl : BitVec 6) : (laneFlags fun k => if p k then fl else 0#6) = flagIf ((upto 0 64).any p) fl := by
  have h : ∀ (l : List Nat) (b : Bool), l.foldl (fun a k => a ||| if p k then fl else 0#6) (flagIf b fl) = flagIf (b || l.any p) fl := by
    intro l
    induction l with
    | nil => simp
    | cons k l ih =>
      intro b
      have hk : (flagIf b fl ||| if p k then fl else 0#6) = flagIf (b || p k) fl := by cases b <;> cases p k <;> simp [flagIf]
      rw [List.foldl_cons, hk, ih, List.any_cons, Bool.or_assoc]
  simpa [laneFlags, flagIf] using h (upto 0 64) false

/-- NANSEEN of the enabled lanes (R138). -/
theorem nanSeen_enabledNums (mask : W64) (v : VReg) : nanSeen (enabledNums mask v)
    = laneFlags fun k => if mask.getLsbD k && (num32 (lane v k)).isNan then flagNAN else 0#6 := by
  rw [laneFlags_flagIf, nanSeen, enabledNums, List.any_filterMap]
  congr 2
  funext k
  cases mask.getLsbD k <;> simp

theorem nanSeen_cons (x : Num) (xs : List Num) : nanSeen (x :: xs) = (if x.isNan then flagNAN else 0#6) ||| nanSeen xs := by
  cases h : x.isNan <;> cases h' : xs.any Num.isNan <;> simp [nanSeen, flagIf, h, h']

/-! ### Reductions put their results in every lane or in two (R138) -/

section Slot

variable {i : Instr} {s : State} {e st c : Bool} {f : State → SlotAnswer} {d : BitVec 5} {lat : Nat} {fl : BitVec 6}

/-- A value in every lane, the flags being reported once. -/
theorem landsLanes_of_all {v : Nat → Nat} (hx : exec i s = issueOne e st (slotWords i) c f s)
    (hf : f (atIssue (slotWords i) s) = pushLanes d lat 32 0 (fun k => some (v k, if k == 0 then fl else 0#6)) (atIssue (slotWords i) s)) :
    LandsLanes i s lat d (fun k => some (v k)) fl := by
  have h := landsLanes_of_pushLanes hx hf
  simpa [elemFlags, laneFlags_first] using h

/-- Lanes 0 and 1 hold values and the others 0. -/
def inTwo (v0 v1 k : Nat) : Nat := if k = 0 then v0 else if k = 1 then v1 else 0

theorem twoLanes_eq (v0 v1 : Nat) (s : State) : twoLanes d lat v0 v1 fl s
    = pushLanes d lat 32 0 (fun k => some (inTwo v0 v1 k, if k == 0 then fl else 0#6)) s := by
  unfold twoLanes
  congr 1
  funext k
  by_cases h0 : k = 0
  · simp [inTwo, h0]
  · by_cases h1 : k = 1 <;> simp [inTwo, h0, h1]

theorem landsLanes_of_twoLanes {v0 v1 : Nat} (hx : exec i s = issueOne e st (slotWords i) c f s)
    (hf : f (atIssue (slotWords i) s) = twoLanes d lat v0 v1 fl (atIssue (slotWords i) s)) :
    LandsLanes i s lat d (fun k => some (inTwo v0 v1 k)) fl :=
  landsLanes_of_all hx (hf.trans (twoLanes_eq v0 v1 _))

end Slot

end Sys2Proof.Machine
end

section
/-! SUPPORT. The order of values (R92), and the lane at which a row has its extreme (R140). -/

namespace Sys2Proof.Machine

/-! ### The order that cmpNum gives -/

/-- The value of ±m × 2^e. -/
def finValue (neg : Bool) (m : Nat) (e : Int) : ℚ := (if neg then -(m : ℚ) else m) * 2 ^ e

/-- Where a value stands: below, among or above the finite ones, and which of these it is. -/
def Num.rank : Num → ℤ ×ₗ ℚ
  | .nan _ => toLex (0, 0)
  | .inf neg => toLex (if neg then -1 else 1, 0)
  | .fin neg m e => toLex (0, finValue neg m e)

theorem scaledInt_mul_two_pow (neg : Bool) (m : Nat) {e q : Int} (h : q ≤ e) : (scaledInt neg m e q : ℚ) * 2 ^ q = finValue neg m e := by
  have hp : (2 : ℚ) ^ (e - q).toNat * 2 ^ q = 2 ^ e := by
    rw [← zpow_natCast, ← zpow_add₀ two_ne_zero, Int.toNat_of_nonneg (by omega), sub_add_cancel]
  cases neg <;> simp [scaledInt, finValue, mul_assoc, hp]

/-- cmpNum compares ranks. -/
theorem cmpNum_rank {x y : Num} (hx : x.isNan = false) (hy : y.isNan = false) :
    cmpNum x y = if x.rank < y.rank then -1 else if x.rank = y.rank then 0 else 1 := by
  cases x with
  | nan a => simp [Num.isNan] at hx
  | inf a =>
    cases y with
    | nan b => simp [Num.isNan] at hy
    | inf b => cases a <;> cases b <;> simp [cmpNum, Num.rank, Prod.Lex.toLex_lt_toLex]
    | fin b n f => cases a <;> simp [cmpNum, Num.rank, Prod.Lex.toLex_lt_toLex]
  | fin a m e =>
    cases y with
    | nan b => simp [Num.isNan] at hy
    | inf b => cases b <;> simp [cmpNum, Num.rank, Prod.Lex.toLex_lt_toLex]
    | fin b n f =>
      have hq : (0 : ℚ) < 2 ^ min e f := zpow_pos two_pos _
      have hl := scaledInt_mul_two_pow a m (min_le_left e f)
      have hr := scaledInt_mul_two_pow b n (min_le_right e f)
      have hlt : finValue a m e < finValue b n f ↔ scaledInt a m e (min e f) < scaledInt b n f (min e f) := by
        rw [← hl, ← hr, mul_lt_mul_iff_of_pos_right hq, Int.cast_lt]
      have heq : finValue a m e = finValue b n f ↔ scaledInt a m e (min e f) = scaledInt b n f (min e f) := by
        rw [← hl, ← hr, mul_left_inj' hq.ne', Int.cast_inj]
      simp [cmpNum, Num.rank, Prod.Lex.toLex_lt_toLex, hlt, heq]

section Compare

variable {x y : Num} (hx : x.isNan = false) (hy : y.isNan = false)

include hx hy

theorem cmpNum_neg_iff : cmpNum x y < 0 ↔ x.rank < y.rank := by
  rw [cmpNum_rank hx hy]
  rcases lt_trichotomy x.rank y.rank with h | h | h
  · simp [h]
  · simp [h]
  · simp [h.not_gt, h.ne']

theorem cmpNum_pos_iff : 0 < cmpNum x y ↔ y.rank < x.rank := by
  rw [cmpNum_rank hx hy]
  rcases lt_trichotomy x.rank y.rank with h | h | h
  · simp [h, h.le]
  · simp [h]
  · simp [h, h.not_gt, h.ne']

theorem cmpNum_le_zero_iff : cmpNum x y ≤ 0 ↔ x.rank ≤ y.rank := by rw [← not_lt, cmpNum_pos_iff hx hy, not_lt]

theorem zero_le_cmpNum_iff : 0 ≤ cmpNum x y ↔ y.rank ≤ x.rank := by rw [← not_lt, cmpNum_neg_iff hx hy, not_lt]

end Compare

/-! ### The first of the best -/

/-- The first index of a run that no other one with p surpasses, as a scan of the run keeps it. -/
def firstBest (p : Nat → Bool) (r : Nat → Nat → Prop) [∀ i k, Decidable (r i k)] (n : Nat) : Option Nat :=
  (upto 0 n).foldl (fun b i => if p i then (match b with | none => some i | some k => if r i k then some i else b) else b) none

theorem firstBest_succ (p : Nat → Bool) (r : Nat → Nat → Prop) [∀ i k, Decidable (r i k)] (n : Nat) : firstBest p r (n + 1) =
    if p n then (match firstBest p r n with | none => some n | some k => if r n k then some n else some k) else firstBest p r n := by
  rw [firstBest, upto_succ, List.foldl_append, ← firstBest, List.foldl_cons, List.foldl_nil, Nat.zero_add]
  cases firstBest p r n <;> rfl

/-- Where r compares keys of a linear order, the scan finds nothing, or the first index with the greatest key. -/
theorem firstBest_spec {α : Type} [LinearOrder α] {p : Nat → Bool} {r : Nat → Nat → Prop} [∀ i k, Decidable (r i k)] {key : Nat → α}
    (hr : ∀ i k, p i = true → p k = true → (r i k ↔ key k < key i)) (n : Nat) :
    (firstBest p r n = none ∧ ∀ k < n, p k = false) ∨ ∃ i < n, firstBest p r n = some i ∧ p i = true
      ∧ ∀ k < n, p k = true → key k ≤ key i ∧ (k < i → key k < key i) := by
  induction n with
  | zero => exact .inl ⟨rfl, fun k hk => absurd hk (Nat.not_lt_zero k)⟩
  | succ n ih =>
    rw [firstBest_succ]
    cases hn : p n with
    | false =>
      have hlt : ∀ k < n + 1, p k = true → k < n := fun k hk hp =>
        (Nat.lt_succ_iff_lt_or_eq.1 hk).resolve_right fun h => by simp [h, hn] at hp
      rcases ih with ⟨h0, hall⟩ | ⟨i, hi, h0, hp, hall⟩
      · refine .inl ⟨by simp [h0], fun k hk => ?_⟩
        by_contra h
        rw [Bool.not_eq_false] at h
        exact absurd (hall k (hlt k hk h)) (by simp [h])
      · exact .inr ⟨i, by omega, by simp [h0], hp, fun k hk hkp => hall k (hlt k hk hkp) hkp⟩
    | true =>
      rcases ih with ⟨h0, hall⟩ | ⟨i, hi, h0, hp, hall⟩
      · refine .inr ⟨n, by omega, by simp [h0], hn, fun k hk hkp => ?_⟩
        rcases Nat.lt_succ_iff_lt_or_eq.1 hk with h | rfl
        · exact absurd hkp (by simp [hall k h])
        · exact ⟨le_rfl, fun h => absurd h (lt_irrefl _)⟩
      · by_cases hb : r n i
        · have hlt : key i < key n := (hr n i hn hp).1 hb
          refine .inr ⟨n, by omega, by simp [h0, hb], hn, fun k hk hkp => ?_⟩
          rcases Nat.lt_succ_iff_lt_or_eq.1 hk with h | rfl
          · have := (hall k h hkp).1.trans_lt hlt
            exact ⟨this.le, fun _ => this⟩
          · exact ⟨le_rfl, fun h => absurd h (lt_irrefl _)⟩
        · have hle : key n ≤ key i := not_lt.1 fun h => hb ((hr n i hn hp).2 h)
          refine .inr ⟨i, by omega, by simp [h0, hb], hp, fun k hk hkp => ?_⟩
          rcases Nat.lt_succ_iff_lt_or_eq.1 hk with h | rfl
          · exact hall k h hkp
          · exact ⟨hle, fun h => absurd h (by omega)⟩

/-! ### The extremes of a row (R140) -/

/-- The lanes that take part: the enabled ones that hold no NaN. -/
def ordered (mask : W64) (v : VReg) (k : Nat) : Bool := mask.getLsbD k && !(num32 (lane v k)).isNan

/-- The lane of the maximum, or of the minimum. -/
def extremeOf (mask : W64) (v : VReg) (wantMax : Bool) : Option Nat :=
  firstBest (ordered mask v) (fun i k => if wantMax then cmpNum (num32 (lane v i)) (num32 (lane v k)) > 0
    else cmpNum (num32 (lane v i)) (num32 (lane v k)) < 0) 64

theorem extremeLane_eq (d a : BitVec 5) (m : BitVec 3) (wantMax : Bool) (s : State) : extremeLane d a m wantMax s =
    (extremeOf (mReg s.unit m) (vReg s.unit a) wantMax).elim
      (twoLanes d 6 0x7FC00000 0xFFFFFFFF (nanSeen (enabledNums (mReg s.unit m) (vReg s.unit a))) s)
      fun i => twoLanes d 6 (lane (vReg s.unit a) i) i (nanSeen (enabledNums (mReg s.unit m) (vReg s.unit a))) s := by
  have h : extremeLane d a m wantMax s = (match extremeOf (mReg s.unit m) (vReg s.unit a) wantMax with
    | none => twoLanes d 6 0x7FC00000 0xFFFFFFFF (nanSeen (enabledNums (mReg s.unit m) (vReg s.unit a))) s
    | some i => twoLanes d 6 (lane (vReg s.unit a) i) i (nanSeen (enabledNums (mReg s.unit m) (vReg s.unit a))) s) := rfl
  rw [h]
  cases extremeOf (mReg s.unit m) (vReg s.unit a) wantMax <;> rfl

section Extreme

variable {mask : W64} {v : VReg}

theorem ordered_iff {k : Nat} : ordered mask v k = true ↔ mask.getLsbD k = true ∧ (num32 (lane v k)).isNan = false := by
  simp [ordered]

theorem ordered_eq_false_iff {k : Nat} : ordered mask v k = false ↔ mask.getLsbD k = false ∨ (num32 (lane v k)).isNan = true := by
  rw [ordered, Bool.and_eq_false_iff, Bool.not_eq_false']

/-- The scan for the maximum compares ranks. -/
theorem extremeOf_max_cases : (extremeOf mask v true = none ∧ ∀ k < 64, ordered mask v k = false)
    ∨ ∃ i < 64, extremeOf mask v true = some i ∧ ordered mask v i = true ∧ ∀ k < 64, ordered mask v k = true →
      (num32 (lane v k)).rank ≤ (num32 (lane v i)).rank ∧ (k < i → (num32 (lane v k)).rank < (num32 (lane v i)).rank) :=
  firstBest_spec (key := fun k => (num32 (lane v k)).rank)
    (fun _ _ hi hk => cmpNum_pos_iff (ordered_iff.1 hi).2 (ordered_iff.1 hk).2) 64

/-- The scan for the minimum compares them the other way round. -/
theorem extremeOf_min_cases : (extremeOf mask v false = none ∧ ∀ k < 64, ordered mask v k = false)
    ∨ ∃ i < 64, extremeOf mask v false = some i ∧ ordered mask v i = true ∧ ∀ k < 64, ordered mask v k = true →
      (num32 (lane v i)).rank ≤ (num32 (lane v k)).rank ∧ (k < i → (num32 (lane v i)).rank < (num32 (lane v k)).rank) :=
  firstBest_spec (key := fun k => OrderDual.toDual (num32 (lane v k)).rank)
    (fun _ _ hi hk => cmpNum_neg_iff (ordered_iff.1 hi).2 (ordered_iff.1 hk).2) 64

theorem extremeOf_none (h : ∀ k < 64, ordered mask v k = false) (wantMax : Bool) : extremeOf mask v wantMax = none := by
  have hno : ∀ i < 64, ordered mask v i ≠ true := fun i hi => by simp [h i hi]
  cases wantMax with
  | true => exact extremeOf_max_cases.elim And.left fun ⟨i, hi, _, hp, _⟩ => absurd hp (hno i hi)
  | false => exact extremeOf_min_cases.elim And.left fun ⟨i, hi, _, hp, _⟩ => absurd hp (hno i hi)

theorem extremeOf_max (h : ¬∀ k < 64, ordered mask v k = false) : ∃ i < 64, extremeOf mask v true = some i ∧ mask.getLsbD i = true
    ∧ ∀ k < 64, mask.getLsbD k = true → (num32 (lane v k)).isNan = false → cmpNum (num32 (lane v k)) (num32 (lane v i)) ≤ 0
      ∧ (k < i → cmpNum (num32 (lane v k)) (num32 (lane v i)) < 0) := by
  obtain ⟨i, hi, he, hp, hall⟩ := extremeOf_max_cases.resolve_left fun hn => h hn.2
  obtain ⟨hm, hnan⟩ := ordered_iff.1 hp
  refine ⟨i, hi, he, hm, fun k hk hkm hkn => ?_⟩
  rw [cmpNum_le_zero_iff hkn hnan, cmpNum_neg_iff hkn hnan]
  exact hall k hk (ordered_iff.2 ⟨hkm, hkn⟩)

theorem extremeOf_min (h : ¬∀ k < 64, ordered mask v k = false) : ∃ j < 64, extremeOf mask v false = some j ∧ mask.getLsbD j = true
    ∧ ∀ k < 64, mask.getLsbD k = true → (num32 (lane v k)).isNan = false → 0 ≤ cmpNum (num32 (lane v k)) (num32 (lane v j))
      ∧ (k < j → 0 < cmpNum (num32 (lane v k)) (num32 (lane v j))) := by
  obtain ⟨j, hj, he, hp, hall⟩ := extremeOf_min_cases.resolve_left fun hn => h hn.2
  obtain ⟨hm, hnan⟩ := ordered_iff.1 hp
  refine ⟨j, hj, he, hm, fun k hk hkm hkn => ?_⟩
  rw [zero_le_cmpNum_iff hkn hnan, cmpNum_pos_iff hkn hnan]
  exact hall k hk (ordered_iff.2 ⟨hkm, hkn⟩)

end Extreme

/-- VRMAX.I and VRMIN.I where a lane takes part, and where none does. -/
theorem landsLanes_of_extreme {i : Instr} {s : State} {d a : BitVec 5} {m : BitVec 3} {wantMax : Bool}
    (hx : exec i s = issueOne false false (slotWords i) false (extremeLane d a m wantMax) s) :
    let u := (landDue s).unit
    let fl := nanSeen (enabledNums (mReg u m) (vReg u a))
    (∀ k, extremeOf (mReg u m) (vReg u a) wantMax = some k → LandsLanes i s 6 d (fun n => some (inTwo (lane (vReg u a) k) k n)) fl)
    ∧ (extremeOf (mReg u m) (vReg u a) wantMax = none → LandsLanes i s 6 d (fun n => some (inTwo 0x7FC00000 0xFFFFFFFF n)) fl) := by
  intro u fl
  have he := extremeLane_eq d a m wantMax (atIssue (slotWords i) s)
  refine ⟨fun k hk => landsLanes_of_twoLanes hx (he.trans ?_), fun hk => landsLanes_of_twoLanes hx (he.trans ?_)⟩
  · exact congrArg (fun o => Option.elim o _ _) hk
  · exact congrArg (fun o => Option.elim o _ _) hk

/-! ### The slots of the sums and of the search -/

section Slot

variable {s : State} {d a b : BitVec 5} {m : BitVec 3}

theorem slotVrsum_eq {x : List Nat × BitVec 6} (h : treeSum 6 (enabledOrZero s.unit a m).1 = x) : slotVrsum d a m s
    = pushLanes d 6 32 0 (fun k => some (x.1.headD 0, if k == 0 then x.2 ||| (enabledOrZero s.unit a m).2 else 0#6)) s := by
  obtain ⟨c, fl⟩ := x
  simp only [slotVrsum, enabledOrZero] at h ⊢
  simp only [h]

theorem slotVscan_eq {x : List Nat × BitVec 6} (h : prefixSums (enabledOrZero s.unit a m).1 = x) : slotVscan d a m s
    = pushLanes d 6 32 0 (fun k => some (x.1.getD k 0, if k == 0 then x.2 ||| (enabledOrZero s.unit a m).2 else 0#6)) s := by
  obtain ⟨ys, fl⟩ := x
  simp only [slotVscan, enabledOrZero] at h ⊢
  simp only [h]

theorem slotVsrch_eq {x : Nat × Nat × BitVec 6} (h : searchRow (mReg s.unit m) (vReg s.unit a) (lane (vReg s.unit b) 0) = x) :
    slotVsrch d a b m s = twoLanes d 4 x.1 x.2.1
      (x.2.2 ||| nanSeen (num32 (lane (vReg s.unit b) 0) :: enabledNums (mReg s.unit m) (vReg s.unit a))) s := by
  obtain ⟨res, idx, fl⟩ := x
  simp only [slotVsrch, h]

theorem slotAccept_eq {x : Nat × Nat × BitVec 6} (h : acceptRow (mReg s.unit m) (vReg s.unit a) (vReg s.unit b) (vReg s.unit d) = x) :
    slotAccept d a b m s = twoLanes d 6 x.1 x.2.1 x.2.2 s := by
  obtain ⟨n, rej, nan⟩ := x
  simp only [slotAccept, h]

end Slot

/-- Settles O32: the slots' answers are values in every lane or in two, and the extremes are those that the scan's order gives. -/
theorem vectorReductionResults : Obligations.VectorReductionResults := by
  intro s d a b m u mask row seen two t found acc idle
  have hseen : nanSeen (enabledNums mask (vReg u a)) = seen := nanSeen_enabledNums mask (vReg u a)
  have hidle : idle ↔ ∀ k < 64, ordered mask (vReg u a) k = false := by simp only [idle, ordered_eq_false_iff]
  have hmax := landsLanes_of_extreme (i := .vrmaxI d a m) (s := s) rfl
  have hmin := landsLanes_of_extreme (i := .vrminI d a m) (s := s) rfl
  refine ⟨?_, ?_, fun h => ?_, fun h => ?_, ?_, ?_⟩
  · rw [← hseen]
    generalize hx : treeSum 6 row = x
    exact landsLanes_of_all rfl (slotVrsum_eq hx)
  · rw [← hseen]
    generalize hx : prefixSums row = x
    exact landsLanes_of_all rfl (slotVscan_eq hx)
  · rw [← hseen]
    exact ⟨hmax.2 (extremeOf_none (hidle.1 h) true), hmin.2 (extremeOf_none (hidle.1 h) false)⟩
  · obtain ⟨i, hi, hie, him, hiall⟩ := extremeOf_max (mt hidle.2 h)
    obtain ⟨j, hj, hje, hjm, hjall⟩ := extremeOf_min (mt hidle.2 h)
    rw [← hseen]
    exact ⟨i, j, hi, hj, him, hjm, fun k hk hkm hkn => and_assoc.1 ⟨hiall k hk hkm hkn, hjall k hk hkm hkn⟩, hmax.1 i hie, hmin.1 j hje⟩
  · rw [← hseen, BitVec.or_assoc, ← nanSeen_cons]
    generalize hx : found = x
    exact landsLanes_of_twoLanes rfl (slotVsrch_eq hx)
  · generalize hx : acc = x
    exact landsLanes_of_twoLanes rfl (slotAccept_eq hx)

end Sys2Proof.Machine
end

section
/-! SUPPORT. The matrix array at one element: what a beat does to the accumulator and the group state of a processing element, and to no other
(R108 to R110, R167, R168, R187). -/

namespace Sys2Proof.Machine

/-! ### Folds over the elements of a slice -/

theorem zip_eq_map_upto {α β : Type} (a : List α) (b : List β) (da : α) (db : β) {n : Nat} (ha : a.length = n) (hb : b.length = n) :
    a.zip b = (upto 0 n).map fun t => (nth a t da, nth b t db) := by
  refine List.ext_getElem (by simp [ha, hb]) fun t h1 h2 => ?_
  have ht : t < n := by simpa using h2
  simp [nth, upto_eq_range', ha, hb, ht]

theorem foldl_add_eq_sum {α : Type} (f : α → Int) (l : List α) (x : Int) : l.foldl (fun t e => t + f e) x = x + (l.map f).sum := by
  induction l generalizing x with
  | nil => simp
  | cons e l ih => rw [List.foldl_cons, ih, List.map_cons, List.sum_cons, add_assoc]

/-- The group sums after a slice, each the sum of the slice's terms added modulo 2^32 (R187). -/
theorem groupBeat_eq (a b : List W16) (g : GroupAcc) : groupBeat g a b =
    { ab := g.ab + BitVec.ofNat 32 ((a.zip b).map fun e => e.1.toNat * e.2.toNat).sum
      a := g.a + BitVec.ofNat 32 ((a.zip b).map fun e => e.1.toNat).sum
      b := g.b + BitVec.ofNat 32 ((a.zip b).map fun e => e.2.toNat).sum } := by
  unfold groupBeat
  induction a.zip b generalizing g with
  | nil => simp
  | cons e l ih =>
    rw [List.foldl_cons, ih]
    simp only [List.map_cons, List.sum_cons, BitVec.ofNat_add, BitVec.add_assoc]

/-! ### One element of the plane -/

/-- What a processing element holds: its accumulator and its group state. -/
def peAt (p : Bool) (i j : Nat) (m : Matrix) : Nat × GroupAcc :=
  (lane (planeRow m p i) j, (mget m.group (peKey p i j)).getD ⟨0#32, 0#32, 0#32⟩)

/-- What it holds after a slice has reached it. -/
def peAfter (sl : Slice) (i j : Nat) (h : Nat × GroupAcc) : Nat × GroupAcc :=
  let a := nth sl.west i []
  let b := nth sl.north j []
  if !(sl.cfg.rows.getLsbD i && sl.cfg.cols.getLsbD j) then h
  else if fmtAsym (fmtOf sl.fmtW) then
    if sl.groupN == 0 then (h.1, groupBeat h.2 a b) else (groupEnd sl i j h.1 (groupBeat h.2 a b) % 2 ^ 32, ⟨0#32, 0#32, 0#32⟩)
  else ((if sl.cfg.integer then intBeat h.1 a b else floatBeat sl i j h.1 a b) % 2 ^ 32, h.2)

theorem lane_setLane (v : VReg) {j : Nat} (x : Nat) (hj : j < 64) : lane (setLane v j x) j = x % 2 ^ 32 := by
  refine Nat.eq_of_testBit_eq fun b => ?_
  simp only [lane, setLane, Nat.testBit_mod_two_pow, Nat.testBit_div_two_pow, BitVec.testBit_toNat, BitVec.getLsbD_or, BitVec.getLsbD_and,
    BitVec.getLsbD_not, BitVec.getLsbD_ofNat, Nat.testBit_mul_two_pow]
  rcases Nat.lt_or_ge b 32 with hb | hb
  · have hin : b + 32 * j < 2048 := by omega
    have hones : (0xFFFFFFFF : Nat).testBit b = true := by
      rw [show (0xFFFFFFFF : Nat) = 2 ^ 32 - 1 from rfl, Nat.testBit_two_pow_sub_one, decide_eq_true hb]
    simp [hb, hin, hones]
  · simp [Nat.not_lt.2 hb]

theorem planeRow_setPlaneRow_same (m : Matrix) (p : Bool) {i : Nat} (v : VReg) (hi : i < 64) : planeRow (setPlaneRow m p i v) p i = v := by
  simp [planeRow, setPlaneRow, nth, hi]

theorem planeRow_setPlaneRow_other (m : Matrix) (p : Bool) {i r : Nat} (v : VReg) (h : r ≠ i) :
    planeRow (setPlaneRow m p r v) p i = planeRow m p i := by
  simp [planeRow, setPlaneRow, nth, h]

theorem peAt_withGroup (m : Matrix) (g : SMap GroupAcc) (p : Bool) (i j : Nat) : peAt p i j { m with group := g }
    = ((peAt p i j m).1, (mget g (peKey p i j)).getD ⟨0#32, 0#32, 0#32⟩) := rfl

theorem peKey_ne {p : Bool} {i j r c : Nat} (hj : j < 64) (hc : c < 64) (h : r ≠ i) : peKey p r c ≠ peKey p i j := by
  unfold peKey; omega

/-- A group state put in place, an empty one by leaving it out. -/
def putGroup (m : SMap GroupAcc) (k : Nat) (g : GroupAcc) : SMap GroupAcc := if g == ⟨0#32, 0#32, 0#32⟩ then mdel m k else mset m k g

theorem mget_putGroup (m : SMap GroupAcc) (k a : Nat) (g : GroupAcc) :
    (mget (putGroup m k g) a).getD ⟨0#32, 0#32, 0#32⟩ = if k = a then g else (mget m a).getD ⟨0#32, 0#32, 0#32⟩ := by
  unfold putGroup
  split
  · next h =>
    rw [mget_mdel, eq_of_beq h]
    split <;> rfl
  · rw [mget_mset]
    split <;> rfl

section Beat

variable {sl : Slice} {i j : Nat}

/-- The array after a slice's products at a row and a column, by the case that its masks and formats select. -/
theorem peBeat_eq (m : Matrix) (sl : Slice) (r c : Nat) : peBeat m sl r c = (
    let h := peAt sl.plane r c m
    let a := nth sl.west r []
    let b := nth sl.north c []
    let g := groupBeat h.2 a b
    let put := fun m x => setPlaneRow m sl.plane r (setLane (planeRow m sl.plane r) c x)
    if !(sl.cfg.rows.getLsbD r && sl.cfg.cols.getLsbD c) then m
    else if fmtAsym (fmtOf sl.fmtW) then
      if sl.groupN == 0 then { m with group := putGroup m.group (peKey sl.plane r c) g }
      else put { m with group := mdel m.group (peKey sl.plane r c) } (groupEnd sl r c h.1 g)
    else put m (if sl.cfg.integer then intBeat h.1 a b else floatBeat sl r c h.1 a b)) := rfl

theorem peAt_peBeat_same (hi : i < 64) (hj : j < 64) (m : Matrix) :
    peAt sl.plane i j (peBeat m sl i j) = peAfter sl i j (peAt sl.plane i j m) := by
  have hput : ∀ m x, peAt sl.plane i j (setPlaneRow m sl.plane i (setLane (planeRow m sl.plane i) j x))
      = (x % 2 ^ 32, (peAt sl.plane i j m).2) := fun m x => by
    rw [peAt, planeRow_setPlaneRow_same _ _ _ hi, lane_setLane _ _ hj]; rfl
  rw [peBeat_eq]
  unfold peAfter
  dsimp only
  split
  · rfl
  · split
    · split
      · rw [peAt_withGroup, mget_putGroup, if_pos rfl]
      · rw [hput, peAt_withGroup m (mdel _ _), mget_mdel, if_pos rfl]; rfl
    · rw [hput]

theorem peAt_peBeat_other {r c : Nat} (hj : j < 64) (hc : c < 64) (h : r ≠ i) (m : Matrix) :
    peAt sl.plane i j (peBeat m sl r c) = peAt sl.plane i j m := by
  have hk : peKey sl.plane r c ≠ peKey sl.plane i j := peKey_ne hj hc h
  have hput : ∀ m v, peAt sl.plane i j (setPlaneRow m sl.plane r v) = peAt sl.plane i j m := fun m v => by
    rw [peAt, planeRow_setPlaneRow_other _ _ _ h]; rfl
  rw [peBeat_eq]
  dsimp only
  split
  · rfl
  · split
    · split
      · rw [peAt_withGroup, mget_putGroup, if_neg hk]; rfl
      · rw [hput, peAt_withGroup m (mdel _ _), mget_mdel, if_neg hk]; rfl
    · rw [hput]

/-- A fold of which only one step touches what is looked at. -/
theorem foldl_view_once {α β : Type} (view : α → β) (f : α → Nat → α) (after : β → β) (i : Nat)
    (hsame : ∀ m, view (f m i) = after (view m)) (hother : ∀ m r, r ≠ i → view (f m r) = view m) (l : List Nat) (hl : l.Nodup) (m : α) :
    view (l.foldl f m) = if i ∈ l then after (view m) else view m := by
  induction l generalizing m with
  | nil => rfl
  | cons r l ih =>
    obtain ⟨hr, hl⟩ := List.nodup_cons.1 hl
    rw [List.foldl_cons, ih hl]
    by_cases h : r = i
    · subst h
      simp [hr, hsame]
    · simp [hother m r h, Ne.symm h]

/-- A slice on its diagonal reaches an element of the diagonal once (R167). -/
theorem peAt_sliceBeat (hi : i < 64) (hj : j < 64) (h : sl.age = i + j) (m : Matrix) :
    peAt sl.plane i j (sliceBeat m sl) = peAfter sl i j (peAt sl.plane i j m) := by
  have hrow : sl.age - i = j := by omega
  refine (foldl_view_once (peAt sl.plane i j) _ (peAfter sl i j) i (fun m => ?_) (fun m r hr => ?_) _ (nodup_upto 0 64) m).trans
    (if_pos (mem_upto.2 ⟨Nat.zero_le i, by omega⟩))
  · rw [hrow, if_pos (by simp [h, hj])]
    exact peAt_peBeat_same hi hj m
  · split
    · next hc => exact peAt_peBeat_other hj (by simpa using (Bool.and_eq_true_iff.1 hc).2) hr m
    · rfl

/-- A beat with one slice in flight, at an element that the slice reaches. -/
theorem peAt_beat {m : Matrix} (hm : m.slices = [sl]) (hi : i < 64) (hj : j < 64) (h : sl.age + 1 = i + j) :
    peAt sl.plane i j (beat m none) = peAfter { sl with age := sl.age + 1 } i j (peAt sl.plane i j m) := by
  have hkeep : sl.age + 1 ≤ 126 := by omega
  have hb : beat m none = sliceBeat { m with slices := [{ sl with age := sl.age + 1 }] } { sl with age := sl.age + 1 } := by
    simp [beat, hm, hkeep]
  rw [hb]
  exact peAt_sliceBeat (sl := { sl with age := sl.age + 1 }) hi hj h _

end Beat

end Sys2Proof.Machine
end

section
/-! SUPPORT. The instructions of the matrix array that inject no slice: the beat, the row actions and the configuration (R182 to R187), and O35. -/

namespace Sys2Proof.Machine

/-! ### The beat and the row actions (R182, R183) -/

/-- An array put in place leaves alone what the sequencer keeps. -/
theorem matrix_own (m : Matrix) : OwnEffect fun u => { u with mx := m } := by
  constructor <;> intros <;> rfl

/-- The same with a result put in flight beside it. -/
theorem matrix_push_own (m : Matrix) (lat : Nat) (d : Dest) : OwnEffect fun u => push { u with mx := m } lat d 0#6 := by
  constructor <;> intros <;> rfl

/-- Without a slice in flight a beat changes nothing (R182). -/
theorem beat_idle {m : Matrix} (h : m.slices = []) : beat m none = m := by
  cases m
  subst h
  rfl

section Slot

variable {s : State} {g : BitVec 4} (hg : guardOn g (landDue s).unit = true)

include hg

theorem mshift_acts : Acts (.mshift g) s fun u => { u with mx := beat (landDue s).unit.mx none } :=
  acts_of_mapUnit rfl hg (matrix_own _) rfl

theorem mshift_passes (h : (landDue s).unit.mx.slices = []) : Passes (.mshift g) s := by
  have hb := mshift_acts hg
  rwa [beat_idle h] at hb

theorem mpreld_acts (p : Bool) (v : BitVec 5) : Acts (.mpreld p v g) s fun u =>
    { u with mx := rowAction (beat (landDue s).unit.mx none) p (vReg (landDue s).unit v) } :=
  acts_of_mapUnit rfl hg (matrix_own _) rfl

theorem mdrain_acts (p : Bool) (v : BitVec 5) : Acts (.mdrain p v g) s fun u =>
    let m := beat (landDue s).unit.mx none
    push { u with mx := rowAction m p 0#2048 } 4 (.v v (BitVec.allOnes 2048) (planeRow m p (m.rp[planeIx p]).toNat)) 0#6 :=
  acts_of_mapUnit rfl hg (matrix_push_own _ _ _) rfl

theorem mzero_acts (p : Bool) : Acts (.mzero p g) s fun u => { u with mx := zeroPlane (beat (landDue s).unit.mx none) p } :=
  acts_of_mapUnit rfl hg (matrix_own _) rfl

end Slot

/-! ### The configuration (R185) -/

/-- The conditions of a configuration word: its reserved bits are zero and neither group code is 0b11. -/
def ConfigWord (w : W64) : Prop := w.toNat < 64 ∧ w.getLsbD 1 = false ∧ w.toNat / 4 % 4 ≠ 3 ∧ w.toNat / 16 % 4 ≠ 3

theorem ofNat_fld_two (w : W64) (lo : Nat) : BitVec.ofNat 2 (fld w lo 2) = (w >>> lo).setWidth 2 := by
  refine BitVec.eq_of_toNat_eq ?_
  simp [fld, Nat.shiftRight_eq_div_pow]

theorem configWord_iff (w : W64) : (fld w 6 58 != 0 || fbit w 1 || fld w 2 2 == 3 || fld w 4 2 == 3) = false ↔ ConfigWord w := by
  have h6 : (fld w 6 58 != 0) = false ↔ w.toNat < 64 := by rw [bne_eq_false_iff_eq, fld_six_rest]
  have hf : ∀ lo, (fld w lo 2 == 3) = false ↔ w.toNat / 2 ^ lo % 4 ≠ 3 := fun lo => beq_eq_false_iff_ne
  simp only [Bool.or_eq_false_iff, h6, hf, and_assoc]
  rfl

theorem matCfg_of_word {w : W64} (h : ConfigWord w) (rows cols : W64) :
    matCfg w rows cols = some ⟨w.getLsbD 0, (w >>> 2).setWidth 2, (w >>> 4).setWidth 2, rows, cols⟩ := by
  rw [matCfg, (configWord_iff w).2 h, ofNat_fld_two, ofNat_fld_two]
  rfl

theorem matCfg_none {w : W64} (h : ¬ConfigWord w) (rows cols : W64) : matCfg w rows cols = none :=
  if_pos (Bool.eq_true_of_not_eq_false (mt (configWord_iff w).1 h))

/-- The configuration that an MCFG of a register gives, or none. -/
def configOf (u : Unit) (n : BitVec 6) : Option MatCfg :=
  if n == 0#6 then some .reset else matCfg (gReg u n) (gNat u (n.toNat + 1)) (gNat u (n.toNat + 2))

/-- The beat of an MCFG, with its configuration put in flight. -/
def loadConfig (c : MatCfg) (s : State) : SlotAnswer := .go (s.mapUnit fun u => push { u with mx := beat u.mx none } 1 (.mcfg c) 0#6)

/-- The answer of an MCFG whose guard is true. -/
def configAnswer (n : BitVec 6) (s : State) : SlotAnswer := (configOf s.unit n).elim (.trap 0x1D 0#12) fun c => loadConfig c s

theorem configAnswer_some {n : BitVec 6} {s : State} {c : MatCfg} (h : configOf s.unit n = some c) : configAnswer n s = loadConfig c s := by
  rw [configAnswer, h]; rfl

theorem configAnswer_none {n : BitVec 6} {s : State} (h : configOf s.unit n = none) : configAnswer n s = .trap 0x1D 0#12 := by
  rw [configAnswer, h]; rfl

theorem slotMcfg_eq (n : BitVec 6) (g : BitVec 4) (s : State) : slotMcfg n g s = guarded g s (configAnswer n) := by
  unfold slotMcfg
  congr 1
  funext s
  unfold configAnswer configOf
  dsimp only
  split
  · rfl
  · cases matCfg (gReg s.unit n) (gNat s.unit (n.toNat + 1)) (gNat s.unit (n.toNat + 2)) <;> rfl

theorem exec_mcfg (n : BitVec 6) (g : BitVec 4) (s : State) :
    exec (.mcfg n g) s = issueOne false false 1 false (fun s => guarded g s (configAnswer n)) s :=
  congrArg (fun f => issueOne false false 1 false f s) (funext (slotMcfg_eq n g))

section Config

variable {s : State} {n : BitVec 6} {g : BitVec 4} (hg : guardOn g (landDue s).unit = true)

include hg

theorem mcfg_acts {c : MatCfg} (hc : configOf (landDue s).unit n = some c) :
    Acts (.mcfg n g) s fun u => push { u with mx := beat (landDue s).unit.mx none } 1 (.mcfg c) 0#6 :=
  acts_of_mapUnit (exec_mcfg n g s) hg (matrix_push_own _ _ _) (configAnswer_some (s := atIssue 1 s) hc)

theorem mcfg_traps (hc : configOf (landDue s).unit n = none) : Traps (.mcfg n g) s 0x1D 0#12 :=
  traps_of_trap (exec_mcfg n g s) hg (configAnswer_none (s := atIssue 1 s) hc)

end Config

/-! ### The element's products (R108 to R110) -/

section Element

variable {sl : Slice} {i j : Nat} {h : Nat × GroupAcc}

/-- A masked-off row or column adds nothing (R186). -/
theorem peAfter_masked (hm : sl.cfg.rows.getLsbD i = false ∨ sl.cfg.cols.getLsbD j = false) : peAfter sl i j h = h :=
  if_pos (by simpa using hm)

section On

variable (hr : sl.cfg.rows.getLsbD i = true) (hc : sl.cfg.cols.getLsbD j = true)

include hr hc

theorem peAfter_float (ha : fmtAsym (fmtOf sl.fmtW) = false) (hi : sl.cfg.integer = false) :
    peAfter sl i j h = (floatBeat sl i j h.1 (nth sl.west i []) (nth sl.north j []) % 2 ^ 32, h.2) := by
  simp [peAfter, hr, hc, ha, hi]

theorem peAfter_int (ha : fmtAsym (fmtOf sl.fmtW) = false) (hi : sl.cfg.integer = true) :
    peAfter sl i j h = (intBeat h.1 (nth sl.west i []) (nth sl.north j []) % 2 ^ 32, h.2) := by
  simp [peAfter, hr, hc, ha, hi]

theorem peAfter_group (ha : fmtAsym (fmtOf sl.fmtW) = true) (hn : sl.groupN = 0) :
    peAfter sl i j h = (h.1, groupBeat h.2 (nth sl.west i []) (nth sl.north j [])) := by
  simp [peAfter, hr, hc, ha, hn]

theorem peAfter_groupEnd (ha : fmtAsym (fmtOf sl.fmtW) = true) (hn : sl.groupN ≠ 0) : peAfter sl i j h =
    (groupEnd sl i j h.1 (groupBeat h.2 (nth sl.west i []) (nth sl.north j [])) % 2 ^ 32, ⟨0#32, 0#32, 0#32⟩) := by
  simp [peAfter, hr, hc, ha, hn]

end On

end Element

theorem loBits_mod (v : Int) : loBits v 32 % 2 ^ 32 = loBits v 32 := by
  unfold loBits; omega

section Terms

variable {l r : List W16} {n : Nat} {f f' : Nat → W16} (hz : l.zip r = (upto 0 n).map fun t => (f t, f' t))

include hz

theorem floatBeat_terms (sl : Slice) (i j x : Nat) : floatBeat sl i j x l r = rne32 ((upto 0 n).foldl (fun v t =>
    (addNum v (mulNum (operandNum sl.fmtW sl.sw i (f t)) (operandNum sl.fmtN sl.sn j (f' t))).1).1) (num32 x)) := by
  rw [floatBeat, hz, List.foldl_map]

theorem intBeat_terms (x : Nat) : intBeat x l r % 2 ^ 32
    = (((x : Int) + ((upto 0 n).map fun t => sint 8 (f t).toNat * sint 8 (f' t).toNat).sum) % 2 ^ 32).toNat := by
  rw [intBeat, loBits_mod, hz, List.foldl_map, foldl_add_eq_sum]
  rfl

theorem groupBeat_terms (g : GroupAcc) : groupBeat g l r =
    { ab := g.ab + BitVec.ofNat 32 ((upto 0 n).map fun t => (f t).toNat * (f' t).toNat).sum
      a := g.a + BitVec.ofNat 32 ((upto 0 n).map fun t => (f t).toNat).sum
      b := g.b + BitVec.ofNat 32 ((upto 0 n).map fun t => (f' t).toNat).sum } := by
  rw [groupBeat_eq, hz, List.map_map, List.map_map, List.map_map]
  rfl

end Terms

/-- The value of a group: its products less the zero points' parts (R110). -/
def groupValue (sl : Slice) (i j : Nat) (g : GroupAcc) : Int :=
  g.ab.toInt - latchZp sl.sn j * g.a.toInt - latchZp sl.sw i * g.b.toInt + sl.groupN * latchZp sl.sw i * latchZp sl.sn j

theorem groupEnd_mod (sl : Slice) (i j x : Nat) (g : GroupAcc) : groupEnd sl i j x g % 2 ^ 32 =
    if sl.cfg.integer then (((x : Int) + groupValue sl i j g) % 2 ^ 32).toNat
    else rne32 (addNum (num32 x) (mulNum (num32 (rne32 (mulNum (decodeF fp16 (latchScale sl.sw i)) (decodeF fp16 (latchScale sl.sn j))).1))
      (intNum (groupValue sl i j g))).1).1 % 2 ^ 32 := by
  unfold groupEnd
  dsimp only
  split
  · exact loBits_mod _
  · rfl

/-- Settles O35: the instructions act as their slots say, and at one element the beat of the only slice is peAfter's case. -/
theorem matrixRowActions : Obligations.MatrixRowActions := by
  refine ⟨fun s p v g hg => ?_, fun s n g hg => ?_, fun s sl i j g hg => ?_⟩
  · exact ⟨mshift_acts hg, mshift_passes hg, mpreld_acts hg p v, mdrain_acts hg p v, mzero_acts hg p⟩
  · intro u w good lands
    refine ⟨?_, fun hn h => ?_, fun hn h => ?_⟩
    · rintro rfl
      exact mcfg_acts hg rfl
    · refine mcfg_acts hg ?_
      rw [configOf, if_neg (by simpa using hn)]
      exact matCfg_of_word h _ _
    · refine mcfg_traps hg ?_
      rw [configOf, if_neg (by simpa using hn)]
      exact matCfg_none h _ _
  · intro m west north hs hi hj hage hwest hnorth acc state a b x number exact sum ab qa qb za zb v scale
    obtain ⟨t, hx, -, -, ht⟩ := mshift_acts hg
    have hmx : t.unit.mx = beat m none := (congrArg (fun t => t.unit.mx) ht).trans rfl
    have hpe : peAt sl.plane i j t.unit.mx = peAfter { sl with age := sl.age + 1 } i j (x, state m) := by
      rw [hmx]; exact peAt_beat hs hi hj hage
    have hnow : ∀ {h}, peAfter { sl with age := sl.age + 1 } i j (x, state m) = h → acc t.unit.mx = h.1 ∧ state t.unit.mx = h.2 :=
      fun e => ⟨congrArg Prod.fst (hpe.trans e), congrArg Prod.snd (hpe.trans e)⟩
    have hz := zip_eq_map_upto west north 0#16 0#16 hwest hnorth
    have hgroup : groupBeat (state m) west north = ⟨ab, qa, qb⟩ := groupBeat_terms hz (state m)
    refine ⟨t, hx, fun hm => hnow (peAfter_masked hm), fun hr hc => ⟨fun ha hn => ?_, fun ha hn => ?_, fun ha hn => ?_, fun ha hn => ?_⟩⟩
    · exact (hnow (peAfter_float hr hc ha hn)).1.trans (congrArg (· % 2 ^ 32) (floatBeat_terms hz sl i j x))
    · exact (hnow (peAfter_int hr hc ha hn)).1.trans (intBeat_terms hz x)
    · have h := hnow (peAfter_group hr hc ha hn)
      exact ⟨h.1, h.2.trans hgroup⟩
    · have h := hnow (peAfter_groupEnd hr hc ha hn)
      exact ⟨h.2, h.1.trans ((congrArg (fun q => groupEnd sl i j x q % 2 ^ 32) hgroup).trans (groupEnd_mod sl i j x _))⟩

end Sys2Proof.Machine
end

section
/-! SUPPORT. Results in flight under a mask, whole lanes and elements of lanes (R124, R125). -/

namespace Sys2Proof.Machine

/-! ### Slots without a guard -/

@[simp] theorem mReg_atIssue (n : Nat) (s : State) (r : BitVec 3) : mReg (atIssue n s).unit r = mReg (landDue s).unit r := rfl
@[simp] theorem vReg_atIssue (n : Nat) (s : State) (r : BitVec 5) : vReg (atIssue n s).unit r = vReg (landDue s).unit r := rfl

section Slot

variable {i : Instr} {s : State} {e st c : Bool} {k : State → SlotAnswer}

/-- A slot without a guard that puts one result in flight and does nothing else. -/
theorem lands_of_unguarded (hx : exec i s = issueOne e st (slotWords i) c k s) {lat : Nat} {d : Dest} {flags : BitVec 6}
    (hk : k (atIssue (slotWords i) s) = .go ((atIssue (slotWords i) s).mapUnit fun u => push u lat d flags)) : Lands i s lat d flags :=
  acts_of_go hx hk rfl rfl rfl rfl rfl

theorem landsG_of_unguarded (hx : exec i s = issueOne e st (slotWords i) c k s) {lat : Nat} {d : BitVec 6} {v : W64}
    (hk : k (atIssue (slotWords i) s) = .go (pushG (atIssue (slotWords i) s) lat d v)) : LandsG i s lat d v :=
  lands_of_unguarded hx hk

end Slot

/-! ### Lanes under a mask (R125) -/

theorem laneFlags_zero : (laneFlags fun _ => 0#6) = 0#6 := by decide

/-- What a lane under a mask receives: its result where it is enabled, 0 with z, and otherwise nothing. -/
def maskedElem (mask : W64) (z : Bool) (p : Nat → Nat × BitVec 6) (k : Nat) : Option (Nat × BitVec 6) :=
  if mask.getLsbD k then some (p k) else if z then some (0, 0#6) else none

section Masked

variable {mask : W64} {z : Bool} {p : Nat → Nat × BitVec 6} {k : Nat}

theorem maskedElem_value : (maskedElem mask z p k).map (·.1) = if mask.getLsbD k then some (p k).1 else if z then some 0 else none := by
  unfold maskedElem
  cases mask.getLsbD k <;> cases z <;> rfl

theorem elemFlags_maskedElem : elemFlags (maskedElem mask z p k) = if mask.getLsbD k then (p k).2 else 0#6 := by
  unfold maskedElem
  cases mask.getLsbD k <;> cases z <;> rfl

end Masked

theorem lanes_eq (d : BitVec 5) (m : BitVec 3) (z : Bool) (lat : Nat) (p : Nat → Nat × BitVec 6) (s : State) :
    lanes d m z lat p s = pushLanes d lat 32 0 (maskedElem (mReg s.unit m) z p) s := rfl

/-- The result of a slot whose answer is lanes. -/
theorem landsMasked_of_lanes {i : Instr} {s : State} {e st c : Bool} {f : State → SlotAnswer} {d : BitVec 5} {m : BitVec 3} {z : Bool}
    {lat : Nat} {p : Nat → Nat × BitVec 6} (hx : exec i s = issueOne e st (slotWords i) c f s)
    (hf : f (atIssue (slotWords i) s) = lanes d m z lat p (atIssue (slotWords i) s)) : LandsMasked i s lat d m z p := by
  rw [lanes_eq, mReg_atIssue] at hf
  have h := landsLanes_of_pushLanes hx hf
  simp only [maskedElem_value, elemFlags_maskedElem] at h
  exact h

/-! ### Elements of lanes (R124) -/

/-- A digit of a lane is an element of the register: c elements of w bits make a lane. -/
theorem lane_digit (v : VReg) {w c : Nat} (hw : w * c = 32) (k : Nat) {j : Nat} (hj : j < c) :
    lane v k / 2 ^ (w * j) % 2 ^ w = elemOf v w (c * k + j) := by
  have hwj : w * j + w ≤ 32 := by rw [← hw, ← Nat.mul_succ]; exact Nat.mul_le_mul_left w hj
  have he : w * (c * k + j) = w * j + 32 * k := by rw [← hw]; ring
  refine Nat.eq_of_testBit_eq fun b => ?_
  simp only [lane, elemOf, Nat.testBit_mod_two_pow, Nat.testBit_div_two_pow, he, Nat.add_assoc]
  by_cases hb : b < w
  · simp [hb, show b + w * j < 32 by omega]
  · simp [hb]

theorem elemOf_lt (v : VReg) (w n : Nat) : elemOf v w n < 2 ^ w := Nat.mod_lt _ (Nat.two_pow_pos w)

/-- The elements that subLanes puts together, and their flags together. -/
theorem subLanes_eq {w x y d : Nat} {g : Nat → Nat → Nat → Nat × BitVec 6} {r : Nat → Nat × BitVec 6}
    (h : ∀ j < 32 / w, g (x / 2 ^ (w * j) % 2 ^ w) (y / 2 ^ (w * j) % 2 ^ w) (d / 2 ^ (w * j) % 2 ^ w) = r j) :
    subLanes w g x y d = (packed w 0 (fun j => (r j).1 % 2 ^ w) (32 / w), (upto 0 (32 / w)).foldl (fun a j => a ||| (r j).2) 0#6) := by
  unfold subLanes
  generalize 32 / w = n at h ⊢
  induction n with
  | zero => rfl
  | succ n ih =>
    rw [upto_succ, List.foldl_append, List.foldl_append, ih fun j hj => h j (Nat.lt_succ_of_lt hj), packed_succ]
    simp [h n (Nat.lt_succ_self n)]

/-- The result of a slot that works on the elements of lanes: r gives what g makes of them. -/
theorem landsElements_of_subLanes {i : Instr} {s : State} {e st c : Bool} {f : State → SlotAnswer} {d : BitVec 5} {m : BitVec 3} {z : Bool}
    {lat w : Nat} {x y v : Nat → Nat} {g : Nat → Nat → Nat → Nat × BitVec 6} {r : Nat → Nat × BitVec 6}
    (hx : exec i s = issueOne e st (slotWords i) c f s)
    (hf : f (atIssue (slotWords i) s) = lanes d m z lat (fun k => subLanes w g (x k) (y k) (v k)) (atIssue (slotWords i) s))
    (hr : ∀ k, ∀ j < 32 / w, g (x k / 2 ^ (w * j) % 2 ^ w) (y k / 2 ^ (w * j) % 2 ^ w) (v k / 2 ^ (w * j) % 2 ^ w) = r (32 / w * k + j)) :
    LandsElements i s lat d m z w r := by
  simp only [subLanes_eq (hr _)] at hf
  refine ⟨_, landsMasked_of_lanes hx hf, fun k _ j hj => ?_⟩
  have hp := packed_digit (off := 0) (fun j => Nat.mod_lt (r (32 / w * k + j)).1 (Nat.two_pow_pos w)) hj
  rwa [Nat.zero_add] at hp

end Sys2Proof.Machine
end

section
/-! SUPPORT. The float and integer instructions of the vector slot, element by element (R124, R130, R134), and O28 and O29. -/

namespace Sys2Proof.Machine

/-! ### Formats and widths (R124) -/

theorem floatT_eq : ∀ t, floatT t = (if t = 0#2 then fp32 else if t = 1#2 then bf16 else fp16, if t = 0#2 then 32 else 16) := by decide

/-- The formats' widths divide a lane, and the sign is the top bit. -/
theorem floatT_width : ∀ t, (floatT t).2 * (32 / (floatT t).2) = 32 ∧ (floatT t).1.signBit = 2 ^ ((floatT t).2 - 1) ∧ 0 < (floatT t).2 := by
  decide

theorem intT_eq : ∀ t, intT t = if t = 0#2 then 32 else if t = 1#2 then 16 else 8 := by decide
theorem intT_width : ∀ t, intT t * (32 / intT t) = 32 ∧ 0 < intT t := by decide

/-! ### Float instructions (R130) -/

/-- The sign of a code of w bits changed is half of 2^w added, modulo 2^w. -/
theorem negF_eq (f : FFmt) {w x : Nat} (hw : 0 < w) (hs : f.signBit = 2 ^ (w - 1)) (hx : x < 2 ^ w) :
    negF f x = (x + 2 ^ (w - 1)) % 2 ^ w := by
  have h2 : 2 ^ w = 2 * 2 ^ (w - 1) := by rw [Nat.mul_comm, ← Nat.pow_succ, Nat.succ_eq_add_one, Nat.sub_add_cancel hw]
  rw [negF, hs]
  rw [h2] at hx ⊢
  generalize 2 ^ (w - 1) = n at hx
  by_cases hlt : x < n
  · rw [Nat.div_eq_of_lt hlt, Nat.mod_eq_of_lt (a := x + n) (by omega)]
    rfl
  · rw [Nat.div_eq_of_lt_le (k := 1) (by omega) (by omega), Nat.mod_eq_sub_mod (a := x + n) (by omega),
      Nat.mod_eq_of_lt (a := x + n - 2 * n) (by omega)]
    simp only [Nat.one_mod, beq_self_eq_true, if_true]
    omega

section Slot

variable {s : State} {d a b : BitVec 5} {m : BitVec 3} {z : Bool} {t : BitVec 2} {lat : Nat}

theorem float2_eq (op : FFmt → Nat → Nat → Nat × BitVec 6) : float2 d a b m z t lat op s = lanes d m z lat (fun k =>
    subLanes (floatT t).2 (fun x y _ => op (floatT t).1 x y) (lane (vReg s.unit a) k) (lane (vReg s.unit b) k) 0) s := rfl

theorem float3_eq : float3 d a b m z t s = lanes d m z 4 (fun k => subLanes (floatT t).2 (fmaF (floatT t).1) (lane (vReg s.unit a) k)
    (lane (vReg s.unit b) k) (lane (vReg s.unit d) k)) s := rfl

/-- An operation on a code that is not a NaN's; a NaN gives the canonical one. -/
def unlessNan (f : FFmt) (op : Nat → Nat) (x : Nat) : Nat × BitVec 6 := if (decodeF f x).isNan then (qnan f, flagNAN) else (op x, 0#6)

theorem float1_eq (op : FFmt → Nat → Nat) : float1 d a m z t op s = lanes d m z 3 (fun k =>
    subLanes (floatT t).2 (fun x _ _ => unlessNan (floatT t).1 (op (floatT t).1) x) (lane (vReg s.unit a) k) 0 0) s := rfl

variable {i : Instr} {e st c : Bool}

/-- A float instruction of two operands. -/
theorem landsElements_float2 {op : FFmt → Nat → Nat → Nat × BitVec 6}
    (hx : exec i s = issueOne e st (slotWords i) c (float2 d a b m z t lat op) s) :
    LandsElements i s lat d m z (floatT t).2 fun n =>
      op (floatT t).1 (elemOf (vReg (landDue s).unit a) (floatT t).2 n) (elemOf (vReg (landDue s).unit b) (floatT t).2 n) :=
  landsElements_of_subLanes hx (float2_eq op) fun k j hj => by
    rw [vReg_atIssue, vReg_atIssue, lane_digit _ (floatT_width t).1 k hj, lane_digit _ (floatT_width t).1 k hj]

theorem landsElements_float3 (hx : exec i s = issueOne e st (slotWords i) c (float3 d a b m z t) s) :
    LandsElements i s 4 d m z (floatT t).2 fun n => fmaF (floatT t).1 (elemOf (vReg (landDue s).unit a) (floatT t).2 n)
      (elemOf (vReg (landDue s).unit b) (floatT t).2 n) (elemOf (vReg (landDue s).unit d) (floatT t).2 n) :=
  landsElements_of_subLanes hx float3_eq fun k j hj => by
    rw [vReg_atIssue, vReg_atIssue, vReg_atIssue, lane_digit _ (floatT_width t).1 k hj, lane_digit _ (floatT_width t).1 k hj,
      lane_digit _ (floatT_width t).1 k hj]

/-- VABS and VNEG, where op is what the model does with a code that is not a NaN's. -/
theorem landsElements_float1 {op : FFmt → Nat → Nat} {q : Nat → Nat}
    (hx : exec i s = issueOne e st (slotWords i) c (float1 d a m z t op) s) (hq : ∀ x < 2 ^ (floatT t).2, op (floatT t).1 x = q x) :
    LandsElements i s 3 d m z (floatT t).2 fun n => unlessNan (floatT t).1 q (elemOf (vReg (landDue s).unit a) (floatT t).2 n) :=
  landsElements_of_subLanes hx (float1_eq op) fun k j hj => by
    rw [vReg_atIssue, lane_digit _ (floatT_width t).1 k hj, unlessNan, unlessNan, hq _ (elemOf_lt _ _ _)]

end Slot

/-- Settles O28: each slot is a float operation on elements, in the format and width of T. -/
theorem vectorFloatResults : Obligations.VectorFloatResults := by
  intro s d a b m z t _ u f w x y one
  obtain ⟨-, hs, hw⟩ := floatT_width t
  have hf : (floatT t).1 = f := congrArg Prod.fst (floatT_eq t)
  have hwidth : (floatT t).2 = w := congrArg Prod.snd (floatT_eq t)
  clear_value f w
  subst hf hwidth
  exact ⟨landsElements_float2 (op := addF) rfl, landsElements_float2 (op := subF) rfl, landsElements_float2 (op := mulF) rfl,
    landsElements_float3 rfl, landsElements_float2 (op := fun f x y => minmaxF f true x y) rfl,
    landsElements_float2 (op := fun f x y => minmaxF f false x y) rfl,
    landsElements_float1 (op := fun f x => x % f.signBit) (q := fun v => v % 2 ^ ((floatT t).2 - 1)) rfl fun v _ => congrArg (v % ·) hs,
    landsElements_float1 (op := negF) (q := fun v => (v + 2 ^ ((floatT t).2 - 1)) % 2 ^ (floatT t).2) rfl fun v hv => negF_eq _ hw hs hv⟩

/-! ### Integer and logic instructions (R134) -/

/-- The signed value of a word of w bits. -/
theorem sint_toNat : ∀ {w : Nat}, 0 < w → ∀ x : BitVec w, sint w x.toNat = x.toInt
  | n + 1, _, x => by
    have h := sxInt_eq_toInt x.toNat n
    rwa [BitVec.ofNat_toNat, BitVec.setWidth_eq] at h

theorem loBits_eq_toNat_ofInt (v : Int) (w : Nat) : loBits v w = (BitVec.ofInt w v).toNat := by
  rw [BitVec.toNat_ofInt, loBits]
  norm_cast

/-- Of two equal values either may be taken. -/
theorem ite_le_eq_ite_lt {α : Type} {a b : α} {m n : Int} (h : m = n → a = b) : (if m ≤ n then a else b) = if m < n then a else b := by
  rcases lt_trichotomy m n with hlt | heq | hgt
  · rw [if_pos hlt.le, if_pos hlt]
  · rw [if_pos heq.le, if_neg heq.not_lt, h heq]
  · rw [if_neg hgt.not_ge, if_neg hgt.not_gt]

theorem int2_eq {s : State} {d a b : BitVec 5} {m : BitVec 3} {z : Bool} {t : BitVec 2} (op : Nat → Nat → Nat → Nat) :
    int2 d a b m z t op s = lanes d m z 2 (fun k =>
      subLanes (intT t) (fun x y _ => (op (intT t) x y, 0#6)) (lane (vReg s.unit a) k) (lane (vReg s.unit b) k) 0) s := rfl

/-- An integer instruction whose operation on numbers is an operation on words. -/
theorem landsElements_int2 {i : Instr} {s : State} {e st c : Bool} {d a b : BitVec 5} {m : BitVec 3} {z : Bool} {t : BitVec 2}
    {op : Nat → Nat → Nat → Nat} {w : Nat} {q : BitVec w → BitVec w → BitVec w} (hw : intT t = w)
    (hx : exec i s = issueOne e st (slotWords i) c (int2 d a b m z t op) s) (hq : ∀ x y : BitVec w, op w x.toNat y.toNat = (q x y).toNat) :
    LandsElements i s 2 d m z w fun n => ((q (BitVec.ofNat w (elemOf (vReg (landDue s).unit a) w n))
      (BitVec.ofNat w (elemOf (vReg (landDue s).unit b) w n))).toNat, 0#6) := by
  subst hw
  refine landsElements_of_subLanes hx (int2_eq op) fun k j hj => ?_
  rw [← hq, BitVec.toNat_ofNat, BitVec.toNat_ofNat, Nat.mod_eq_of_lt (elemOf_lt _ _ _), Nat.mod_eq_of_lt (elemOf_lt _ _ _),
    vReg_atIssue, vReg_atIssue, lane_digit _ (intT_width t).1 k hj, lane_digit _ (intT_width t).1 k hj]

/-- Settles O29: each slot's operation on numbers is the operation on words that the statement names. -/
theorem vectorIntegerResults : Obligations.VectorIntegerResults := by
  intro s d a b m z t _ u w lands
  have ht : intT t = w := intT_eq t
  have hw : 0 < w := ht ▸ (intT_width t).2
  clear_value w
  have int : ∀ {i : Instr} {q : BitVec w → BitVec w → BitVec w} (op : Nat → Nat → Nat → Nat),
      exec i s = issueOne false false (slotWords i) false (int2 d a b m z t op) s →
      (∀ x y : BitVec w, op w x.toNat y.toNat = (q x y).toNat) → lands i q := fun _ hx hq => landsElements_int2 ht hx hq
  clear_value lands
  refine ⟨int (fun w x y => (x + y) % 2 ^ w) rfl fun x y => ?add, int (fun w x y => (x + 2 ^ w - y) % 2 ^ w) rfl fun x y => ?sub,
    int (fun w x y => x * y % 2 ^ w) rfl fun x y => ?mul, int (fun w x y => loBits (sint w x * sint w y / 2 ^ w) w) rfl fun x y => ?mulh,
    int (fun _ x y => x &&& y) rfl fun x y => ?and, int (fun _ x y => x ||| y) rfl fun x y => ?or,
    int (fun _ x y => x ^^^ y) rfl fun x y => ?xor, int (fun w x y => x * 2 ^ (y % w) % 2 ^ w) rfl fun x y => ?shl,
    int (fun w x y => x / 2 ^ (y % w)) rfl fun x y => ?shr, int (fun w x y => loBits (sint w x / 2 ^ (y % w)) w) rfl fun x y => ?sar,
    int (fun w x y => if sint w x ≤ sint w y then x else y) rfl fun x y => ?min,
    int (fun w x y => if sint w x ≤ sint w y then y else x) rfl fun x y => ?max⟩
  case add => exact (BitVec.toNat_add x y).symm
  case sub =>
    rw [BitVec.toNat_sub, Nat.add_comm (2 ^ w - y.toNat), ← Nat.add_sub_assoc y.isLt.le]
  case mul => exact (BitVec.toNat_mul x y).symm
  case mulh => rw [sint_toNat hw, sint_toNat hw, loBits_eq_toNat_ofInt]
  case and => exact (BitVec.toNat_and x y).symm
  case or => exact (BitVec.toNat_or x y).symm
  case xor => exact (BitVec.toNat_xor x y).symm
  case shl => rw [BitVec.toNat_shiftLeft, Nat.shiftLeft_eq]
  case shr => rw [BitVec.toNat_ushiftRight, Nat.shiftRight_eq_div_pow]
  case sar =>
    rw [sint_toNat hw, loBits_eq_toNat_ofInt, BitVec.sshiftRight, Int.shiftRight_eq_div_pow]
    norm_cast
  case min => rw [sint_toNat hw, sint_toNat hw, apply_ite BitVec.toNat, ite_le_eq_ite_lt fun h => congrArg _ (BitVec.eq_of_toInt_eq h)]
  case max => rw [sint_toNat hw, sint_toNat hw, apply_ite BitVec.toNat, ite_le_eq_ite_lt fun h => congrArg _ (BitVec.eq_of_toInt_eq h).symm]

end Sys2Proof.Machine
end

section
/-! SUPPORT. Results in flight to a mask register, bit by bit (R131 to R133), and O30. -/

namespace Sys2Proof.Machine

/-! ### A mask put together from bits -/

/-- The bits of a compare and its flags: the enabled lanes that hold, and what these report. -/
theorem compareFold_eq (mask : W64) (r : Nat → Bool × BitVec 6) (n : Nat) :
    (upto 0 n).foldl (fun (v, fl) i => if mask.getLsbD i then (v + bit01 (r i).1 * 2 ^ i, fl ||| (r i).2) else (v, fl)) (0, 0#6)
      = (packed 1 0 (fun i => bit01 (mask.getLsbD i && (r i).1)) n,
        (upto 0 n).foldl (fun a i => a ||| if mask.getLsbD i then (r i).2 else 0#6) 0#6) := by
  induction n with
  | zero => rfl
  | succ n ih =>
    rw [upto_succ, List.foldl_append, List.foldl_append, ih, packed_succ]
    cases h : mask.getLsbD n <;> simp [h, bit01]

theorem bit01_lt (b : Bool) : bit01 b < 2 ^ 1 := by cases b <;> decide

theorem getLsbD_packed_bits (p : Nat → Bool) {k : Nat} (hk : k < 64) : (w64 (packed 1 0 (fun i => bit01 (p i)) 64)).getLsbD k = p k := by
  have h := packed_digit (off := 0) (fun i => bit01_lt (p i)) hk
  rw [Nat.zero_add, Nat.one_mul, pow_one] at h
  rw [w64, BitVec.getLsbD_ofNat, decide_eq_true hk, Bool.true_and, Nat.testBit_eq_decide_div_mod_eq, h]
  cases p k <;> rfl

/-! ### Compares (R131) -/

section Compare

variable {s : State} {c : BitVec 2} {k m : BitVec 3} {a b : BitVec 5} {z : Bool} {lat : Nat}

theorem compareLanes_eq (op : Nat → Nat → Nat → Bool × BitVec 6) : compareLanes c k a b m z lat op s =
    let r := fun i => op c.toNat (lane (vReg s.unit a) i) (lane (vReg s.unit b) i)
    .go (s.mapUnit fun u => push u lat (.m k (if z then BitVec.allOnes 64 else mReg s.unit m)
      (w64 (packed 1 0 (fun i => bit01 ((mReg s.unit m).getLsbD i && (r i).1)) 64)))
      (laneFlags fun i => if (mReg s.unit m).getLsbD i then (r i).2 else 0#6)) := by
  have h := compareFold_eq (mReg s.unit m) (fun i => op c.toNat (lane (vReg s.unit a) i) (lane (vReg s.unit b) i)) 64
  unfold compareLanes
  simp only [h]
  rfl

/-- A compare puts in flight the enabled lanes' bits of Mk, and with z the others as 0. -/
theorem landsMask_of_compare {i : Instr} {e st cn : Bool} {op : Nat → Nat → Nat → Bool × BitVec 6}
    (hx : exec i s = issueOne e st (slotWords i) cn (compareLanes c k a b m z lat op) s) :
    let u := (landDue s).unit
    let r := fun n => op c.toNat (lane (vReg u a) n) (lane (vReg u b) n)
    ∃ data : W64, Lands i s lat (.m k (if z then BitVec.allOnes 64 else mReg u m) data)
        (laneFlags fun n => if (mReg u m).getLsbD n then (r n).2 else 0#6)
      ∧ ∀ n < 64, data.getLsbD n = ((mReg u m).getLsbD n && (r n).1) :=
  ⟨_, lands_of_unguarded hx (compareLanes_eq op), fun _ hn => getLsbD_packed_bits _ hn⟩

end Compare

theorem selector_cases : ∀ c : BitVec 2, c = 0#2 ∨ c = 1#2 ∨ c = 2#2 ∨ c = 3#2 := by decide

theorem nanSeen_pair (x y : Num) : nanSeen [x, y] = if x.isNan || y.isNan then flagNAN else 0#6 := by
  simp [nanSeen, flagIf]

section Selected

variable {c : BitVec 2} {x y : Nat}

/-- VCMP's selectors: EQ, LT, LE and UN. -/
theorem vcmpHolds_eq :
    let nan := (num32 x).isNan || (num32 y).isNan
    vcmpHolds c.toNat x y = (if c = 0#2 then !nan && cmpNum (num32 x) (num32 y) == 0
      else if c = 1#2 then !nan && decide (cmpNum (num32 x) (num32 y) < 0)
      else if c = 2#2 then !nan && decide (cmpNum (num32 x) (num32 y) ≤ 0) else nan, if nan then flagNAN else 0#6) := by
  intro nan
  rw [← nanSeen_pair]
  rcases selector_cases c with rfl | rfl | rfl | rfl <;> rfl

theorem vicmpSignedHolds_eq : vicmpSignedHolds c.toNat x y = (if c = 0#2 then x == y else if c = 1#2 then x != y
      else if c = 2#2 then decide ((BitVec.ofNat 32 x).toInt < (BitVec.ofNat 32 y).toInt)
      else decide ((BitVec.ofNat 32 y).toInt ≤ (BitVec.ofNat 32 x).toInt), 0#6) := by
  have hs : ∀ v, (BitVec.ofNat 32 v).toInt = sint 32 v := fun v => (sxInt_eq_toInt v 31).symm
  rw [hs, hs]
  rcases selector_cases c with rfl | rfl | rfl | rfl <;> rfl

theorem vicmpUnsignedHolds_eq : vicmpUnsignedHolds c.toNat x y = (if c = 0#2 then decide (x < y) else if c = 1#2 then decide (y ≤ x)
      else if c = 2#2 then x &&& y != 0 else x &&& y == 0, 0#6) := by
  rcases selector_cases c with rfl | rfl | rfl | rfl <;> rfl

/-- The operations of MLOG (R132). -/
theorem slotMlog_eq {k p q : BitVec 3} {s : State} : slotMlog c k p q s = .go (s.mapUnit fun u => push u 1 (.m k (BitVec.allOnes 64)
    (if c = 0#2 then mReg s.unit p &&& mReg s.unit q else if c = 1#2 then mReg s.unit p ||| mReg s.unit q
      else if c = 2#2 then mReg s.unit p ^^^ mReg s.unit q else mReg s.unit p &&& ~~~mReg s.unit q)) 0#6) := by
  rcases selector_cases c with rfl | rfl | rfl | rfl <;> rfl

end Selected

/-- Settles O30: the compares put the enabled lanes' bits in flight, and each selector is its case of the statement. -/
theorem maskResults : Obligations.MaskResults := by
  intro s c f k p q m a b d z u mask x y bits sg masked nan
  obtain ⟨htz, htz0, htz1⟩ := trailingZeros_spec (mReg u p &&& mask)
  have hcmp := landsMask_of_compare (i := .vcmp c k a b m z) (s := s) (op := vcmpHolds) rfl
  have hsigned := landsMask_of_compare (i := .vicmpSigned c k a b m z) (s := s) (op := vicmpSignedHolds) rfl
  have hunsigned := landsMask_of_compare (i := .vicmpUnsigned c k a b m z) (s := s) (op := vicmpUnsignedHolds) rfl
  simp only [vcmpHolds_eq, vicmpSignedHolds_eq, vicmpUnsignedHolds_eq, ite_self, laneFlags_zero] at hcmp hsigned hunsigned
  refine ⟨?_, hsigned, hunsigned, lands_of_unguarded (k := slotMlog f k p q) rfl slotMlog_eq, ?_,
    ⟨trailingZeros (mReg u p &&& mask), htz, landsG_of_unguarded (k := slotMfirst d p m) rfl rfl, htz0, htz1⟩, rfl⟩
  · simp only [masked, Bool.and_eq_true, ite_and]
    exact hcmp
  · rw [← onesOf_eq]
    exact landsG_of_unguarded (k := slotMpop d p m) rfl rfl

end Sys2Proof.Machine
end

section
/-! SUPPORT. A part of a vector register written element by element (R136), and O31. -/

namespace Sys2Proof.Machine

/-! ### The elements of a part -/

theorem elemOf_ofNat (x : Nat) {w n : Nat} (h : w * n + w ≤ 2048) : elemOf (BitVec.ofNat 2048 x) w n = x / 2 ^ (w * n) % 2 ^ w := by
  refine Nat.eq_of_testBit_eq fun b => ?_
  simp only [elemOf, BitVec.toNat_ofNat, Nat.testBit_mod_two_pow, Nat.testBit_div_two_pow]
  by_cases hb : b < w
  · rw [decide_eq_true (show b + w * n < 2048 by omega), Bool.true_and]
  · simp [hb]

section Part

variable {w off n k : Nat} {c : Nat → Nat}

theorem two_pow_dvd_packed : 2 ^ off ∣ packed w off c n := by
  induction n with
  | zero => exact Nat.dvd_zero _
  | succ n ih =>
    rw [packed_succ, Nat.pow_add]
    exact Nat.dvd_add ih (Nat.dvd_mul_left_of_dvd (Nat.dvd_mul_right _ _) _)

theorem packed_digit_below (h : w * k + w ≤ off) : packed w off c n / 2 ^ (w * k) % 2 ^ w = 0 := by
  have hd : 2 ^ (w * k) * 2 ^ w ∣ packed w off c n := by
    rw [← Nat.pow_add]
    exact (Nat.pow_dvd_pow 2 h).trans two_pow_dvd_packed
  exact Nat.mod_eq_zero_of_dvd (Nat.dvd_div_of_mul_dvd hd)

theorem packed_digit_above (hc : ∀ i, c i < 2 ^ w) (h : n ≤ k) : packed w off c n / 2 ^ (off + w * k) % 2 ^ w = 0 := by
  have hle : 2 ^ (off + w * n) ≤ 2 ^ (off + w * k) := Nat.pow_le_pow_right Nat.two_pos (Nat.add_le_add_left (Nat.mul_le_mul_left w h) off)
  rw [Nat.div_eq_of_lt ((packed_lt hc).trans_le hle), Nat.zero_mod]

/-- The elements of a register of which sixty-four, from element a, have been written. -/
theorem elemOf_packed {a : Nat} (hc : ∀ i, c i < 2 ^ w) (h : w * n + w ≤ 2048) :
    elemOf (BitVec.ofNat 2048 (packed w (a * w) c 64)) w n = if a ≤ n ∧ n < a + 64 then c (n - a) else 0 := by
  rw [elemOf_ofNat _ h]
  by_cases ha : a ≤ n
  · have he : w * n = a * w + w * (n - a) := by rw [Nat.mul_comm a, ← Nat.mul_add, Nat.add_sub_cancel' ha]
    rw [he]
    by_cases hn : n < a + 64
    · rw [if_pos ⟨ha, hn⟩, packed_digit hc (by omega)]
    · rw [if_neg fun h => hn h.2, packed_digit_above hc (by omega)]
  · rw [if_neg fun h => ha h.1, packed_digit_below]
    rw [Nat.mul_comm a, ← Nat.mul_succ]
    exact Nat.mul_le_mul_left w (by omega)

end Part

section Masked

variable {mask : W64} {z : Bool} {p : Nat → Nat × BitVec 6} {k w : Nat}

theorem elemBits_maskedElem : elemBits w (maskedElem mask z p k) = if mask.getLsbD k = true ∨ z = true then 2 ^ w - 1 else 0 := by
  unfold maskedElem
  cases mask.getLsbD k <;> cases z <;> rfl

theorem elemData_maskedElem : elemData w (maskedElem mask z p k) = if mask.getLsbD k then (p k).1 % 2 ^ w else 0 := by
  unfold maskedElem
  cases mask.getLsbD k <;> cases z <;> simp [elemData]

end Masked

/-! ### VPACK and VUNPK -/

section Slot

variable {s : State} {d a : BitVec 5} {f : BitVec 3} {p : BitVec 2} {m : BitVec 3} {z : Bool}

theorem slotVpack_eq : slotVpack d a f p m z s = pushLanes d 3 (packWidth f) (64 * p.toNat * packWidth f)
    (maskedElem (mReg s.unit m) z fun k => narrow f (lane (vReg s.unit a) k)) s := rfl

/-- VPACK puts in flight sixty-four elements of a part. -/
theorem vpack_lands :
    let g := maskedElem (mReg (landDue s).unit m) z fun k => narrow f (lane (vReg (landDue s).unit a) k)
    let w := packWidth f
    Lands (.vpack d a f p m z) s 3 (.v d (BitVec.ofNat 2048 (packed w (64 * p.toNat * w) (fun i => elemBits w (g i)) 64))
      (BitVec.ofNat 2048 (packed w (64 * p.toNat * w) (fun i => elemData w (g i)) 64))) (laneFlags fun k => elemFlags (g k)) := by
  refine lands_of_unguarded (k := slotVpack d a f p m z) rfl ?_
  rw [slotVpack_eq, pushLanes, build_eq]
  rfl

end Slot

/-- An element of a register of elements of w bits lies in it. -/
theorem elem_fits {w n : Nat} (h : n < 2048 / w) : w * n + w ≤ 2048 := by
  rw [← Nat.mul_succ, Nat.mul_comm]
  exact (Nat.mul_le_mul_right w h).trans (Nat.div_mul_le_self 2048 w)

/-- Settles O31: each slot works lane by lane, but VPACK, which writes the elements of its part. -/
theorem vectorConversionResults : Obligations.VectorConversionResults := by
  intro s d a e f p m z u x mask w
  have hpack := vpack_lands (s := s) (d := d) (a := a) (f := f) (p := p) (m := m) (z := z)
  simp only [elemFlags_maskedElem] at hpack
  refine ⟨landsMasked_of_lanes (f := slotVcvt d a e m z) rfl rfl, fun _ => ⟨⟨_, _, hpack, fun n hn => ?_⟩,
    landsMasked_of_lanes (f := slotVunpk d a f p m z) rfl rfl⟩, landsMasked_of_lanes (f := slotVexp2 d a m z) rfl rfl,
    landsMasked_of_lanes (f := slotVlog2 d a m z) rfl rfl, landsMasked_of_lanes (f := slotVrcp d a m z) rfl rfl,
    landsMasked_of_lanes (f := slotVrsq d a m z) rfl rfl⟩
  rw [elemOf_packed (fun i => elemBits_lt w _) (elem_fits hn), elemOf_packed (fun i => elemData_lt w _) (elem_fits hn),
    elemBits_maskedElem, elemData_maskedElem]
  refine ⟨(ite_and _ _ _ _).symm.trans (if_congr and_assoc rfl rfl), fun hlo hhi hm => ?_, fun hlo hhi hm => ?_⟩
  · rw [if_pos ⟨hlo, hhi⟩, if_pos hm]
  · rw [if_pos ⟨hlo, hhi⟩, if_neg (Bool.eq_false_iff.1 hm)]

end Sys2Proof.Machine
end

section
/-! SUPPORT. Partitions of the lane numbers (R144), the moves between lanes and scalar registers (R143, R148), and O33. -/

namespace Sys2Proof.Machine

/-! ### The stable partition (R144) -/

/-- How many of the lanes below k have p. -/
def countBelow (p : Nat → Bool) (k : Nat) : Nat := ((List.range k).filter p).length

theorem countBelow_not (p : Nat → Bool) (k : Nat) : countBelow (fun n => !p n) k = k - countBelow p k := by
  have h := List.length_eq_length_filter_add (l := List.range k) p
  rw [List.length_range] at h
  unfold countBelow
  omega

/-- The lane k stands in the list of the lanes with p after those below it. -/
theorem getElem?_filter_range {p : Nat → Bool} {n k : Nat} (hk : k < n) (hp : p k = true) :
    ((List.range n).filter p)[countBelow p k]? = some k := by
  have hsplit : List.range n = List.range k ++ k :: List.range' (k + 1) (n - k - 1) := by
    have h := List.range'_append_1 (s := 0) (m := k) (n := n - k)
    rw [Nat.zero_add, Nat.add_sub_cancel' hk.le] at h
    rw [← List.range'_succ, List.range_eq_range', List.range_eq_range', Nat.sub_add_cancel (Nat.sub_pos_of_lt hk), h]
  rw [hsplit, List.filter_append, List.filter_cons_of_pos hp, countBelow, List.getElem?_append_right le_rfl, Nat.sub_self]
  rfl

section Partition

variable {mask : W64} {k : Nat}

theorem partitionOrder_eq : partitionOrder mask
    = (List.range 64).filter (fun n => mask.getLsbD n) ++ (List.range 64).filter (fun n => !mask.getLsbD n) := by
  rw [partitionOrder, upto_zero]

theorem partitionOrder_set (hk : k < 64) (hm : mask.getLsbD k = true) :
    (partitionOrder mask).getD (countBelow (fun n => mask.getLsbD n) k) 0 = k := by
  have h := getElem?_filter_range (p := fun n => mask.getLsbD n) hk hm
  rw [partitionOrder_eq, List.getD_eq_getElem?_getD, List.getElem?_append_left (List.getElem?_eq_some_iff.1 h).1, h]
  rfl

theorem partitionOrder_clear (hk : k < 64) (hm : mask.getLsbD k = false) : (partitionOrder mask).getD
    (countBelow (fun n => mask.getLsbD n) 64 + (k - countBelow (fun n => mask.getLsbD n) k)) 0 = k := by
  have h := getElem?_filter_range (p := fun n => !mask.getLsbD n) hk (by rw [hm]; rfl)
  have hlen : countBelow (fun n => mask.getLsbD n) 64 = ((List.range 64).filter fun n => mask.getLsbD n).length := rfl
  rw [countBelow_not fun n => mask.getLsbD n] at h
  rw [partitionOrder_eq, List.getD_eq_getElem?_getD, hlen, List.getElem?_append_right (Nat.le_add_right _ _), Nat.add_sub_cancel_left, h]
  rfl

theorem partitionPlace_eq : partitionPlace mask k = if mask.getLsbD k then countBelow (fun n => mask.getLsbD n) k
    else countBelow (fun n => mask.getLsbD n) 64 + (k - countBelow (fun n => mask.getLsbD n) k) := by
  rw [partitionPlace, onesOf_eq, upto_zero]
  rfl

end Partition

/-! ### Scalar values in lanes (R143, R148) -/

theorem spread_eq (t : BitVec 2) (x : Nat) : spread t x
    = if t = 0#2 then x % 2 ^ 32 else if t = 1#2 then x % 2 ^ 16 * 0x10001 else x % 2 ^ 8 * 0x1010101 := by
  rcases selector_cases t with rfl | rfl | rfl | rfl <;> rfl

theorem fld_low (w : W64) : fld w 0 32 = w.toNat % 2 ^ 32 := by rw [fld, pow_zero, Nat.div_one]
theorem fld_high (w : W64) : fld w 32 32 = w.toNat / 2 ^ 32 := Nat.mod_eq_of_lt (Nat.div_lt_of_lt_mul w.isLt)

section Slot

variable {s : State} {d a b j : BitVec 5} {m : BitVec 3} {z : Bool} {t : BitVec 2}

theorem slotVbcast_eq : slotVbcast d b m z t s =
    let x := (gReg s.unit (b.setWidth 6)).toNat
    lanes d m z 2 (fun _ =>
      (if t = 0#2 then x % 2 ^ 32 else if t = 1#2 then x % 2 ^ 16 * 0x10001 else x % 2 ^ 8 * 0x1010101, 0#6)) s := by
  simp only [slotVbcast, spread_eq]

theorem slotVslide_eq : slotVslide d a b m z s =
    let sh := (gReg s.unit (b.setWidth 6)).toInt
    lanes d m z 2 (fun k => (if 0 ≤ (k : Int) + sh ∧ (k : Int) + sh ≤ 63 then lane (vReg s.unit a) ((k : Int) + sh).toNat else 0, 0#6)) s := by
  simp only [slotVslide, Bool.and_eq_true, decide_eq_true_eq]

/-- Values for lanes, none of which reports a flag. -/
def plain (v : Nat → Option Nat) (k : Nat) : Option (Nat × BitVec 6) := (v k).map fun x => (x, 0#6)

theorem slotVsel_eq : slotVsel d a b m s = pushLanes d 2 32 0
    (plain fun k => some (if (mReg s.unit m).getLsbD k then lane (vReg s.unit a) k else lane (vReg s.unit b) k)) s := by
  simp only [slotVsel, apply_ite (vReg s.unit), apply_ite lane, ite_apply]
  rfl

theorem slotVpart_eq : slotVpart d m s = pushLanes d 4 32 0 (plain fun k => some ((partitionOrder (mReg s.unit m)).getD k 0)) s := rfl

theorem slotVpartInv_eq : slotVpartInv d m s =
    let rank := countBelow fun n => (mReg s.unit m).getLsbD n
    pushLanes d 4 32 0 (plain fun k => some (if (mReg s.unit m).getLsbD k then rank k else rank 64 + (k - rank k))) s := by
  simp only [slotVpartInv, partitionPlace_eq]
  rfl

theorem slotVmovg_eq : slotVmovg d j b s =
    let w := (gReg s.unit (b.setWidth 6)).toNat
    pushLanes d 2 32 0 (plain fun k => if k = 2 * j.toNat then some (w % 2 ^ 32) else if k = 2 * j.toNat + 1 then some (w / 2 ^ 32)
      else none) s := by
  simp only [slotVmovg, fld_low, fld_high, beq_iff_eq]
  congr 1
  funext k
  simp only [plain, apply_ite (Option.map _), Option.map_some, Option.map_none]

end Slot

/-- A result in whole lanes that reports no flag. -/
theorem landsLanes_of_plain {i : Instr} {s : State} {e st c : Bool} {f : State → SlotAnswer} {d : BitVec 5} {lat : Nat}
    {v : Nat → Option Nat} (hx : exec i s = issueOne e st (slotWords i) c f s)
    (hf : f (atIssue (slotWords i) s) = pushLanes d lat 32 0 (plain v) (atIssue (slotWords i) s)) : LandsLanes i s lat d v 0#6 := by
  have h := landsLanes_of_pushLanes hx hf
  have hflags : ∀ k, elemFlags (plain v k) = 0#6 := fun k => by unfold plain; cases v k <;> rfl
  have hvalue : ∀ k, (plain v k).map Prod.fst = v k := fun k => by unfold plain; cases v k <;> rfl
  simpa only [hflags, hvalue, laneFlags_zero] using h

/-- Settles O33: each slot works lane by lane; a lane's rank in the partition is the count of the lanes of its kind below it. -/
theorem vectorMoveResults : Obligations.VectorMoveResults := by
  intro s d a b j r m z t _ u mask x gb rank
  exact ⟨landsMasked_of_lanes (f := slotVperm d a b m z) rfl rfl, landsMasked_of_lanes (f := slotVbcast d b m z t) rfl slotVbcast_eq,
    landsMasked_of_lanes (f := slotVslide d a b m z) rfl slotVslide_eq, landsLanes_of_plain (f := slotVsel d a b m) rfl slotVsel_eq,
    ⟨_, landsLanes_of_plain (f := slotVpart d m) rfl slotVpart_eq, fun _ hk => ⟨partitionOrder_set hk, partitionOrder_clear hk⟩⟩,
    landsLanes_of_plain (f := slotVpartInv d m) rfl slotVpartInv_eq, landsMasked_of_lanes (f := slotVrand d r m z) rfl rfl,
    landsMasked_of_lanes (f := slotVrandF d r m z) rfl rfl, landsLanes_of_plain (f := slotVmovg d j b) rfl slotVmovg_eq,
    landsG_of_unguarded (k := slotVextr d a j) rfl rfl⟩

end Sys2Proof.Machine
end

section
/-! SUPPORT. The local accesses of the vector slot (R145 to R147), and O25. -/

namespace Sys2Proof.Machine

/-! ### The words of the enabled lanes, and their traps (R146) -/

/-- Whether the four bytes of a word lie in banks of the unit. -/
def WordFits (banks : BitVec 16) (va : Nat) : Prop := ∀ j < 4, va + j < 0x200000 ∧ banks.getLsbD ((va + j) / 0x20000) = true

/-- A word lies in the bank of its first byte and that of its last. -/
theorem padOk_word (banks : BitVec 16) (a : Nat) : padOk banks a 4 = true ↔ WordFits banks a := by
  rw [padOk, if_neg (by decide), Bool.and_eq_true, decide_eq_true_iff, List.all_eq_true]
  simp only [Config.padBytes, Config.bankBytes, mem_upto]
  constructor
  · rintro ⟨hend, hbank⟩ j hj
    exact ⟨by omega, hbank _ (by omega)⟩
  · intro h
    refine ⟨by have := (h 3 (by omega)).1; omega, fun b hb => ?_⟩
    by_cases hfirst : b = (a + 0) / 0x20000
    · exact hfirst ▸ (h 0 (by omega)).2
    · exact (show b = (a + 3) / 0x20000 by omega) ▸ (h 3 (by omega)).2

theorem bytesTrap_outside (banks : BitVec 16) (a : W64) : bytesTrap banks a 4 = some 0x17 ↔ ¬WordFits banks a.toNat := by
  rw [← padOk_word, bytesTrap]
  cases padOk banks a.toNat 4 with
  | false => simp
  | true => by_cases h : a.toNat % 4 = 0 <;> simp [h]

theorem bytesTrap_misaligned (banks : BitVec 16) (a : W64) :
    bytesTrap banks a 4 = some 0x18 ↔ WordFits banks a.toNat ∧ a.toNat % 4 ≠ 0 := by
  rw [← padOk_word, bytesTrap]
  cases padOk banks a.toNat 4 with
  | false => simp
  | true => by_cases h : a.toNat % 4 = 0 <;> simp [h]

section Trap

variable {banks : BitVec 16} {mask : W64} {addr : Nat → W64}

theorem any_laneAddrs (q : W64 → Bool) :
    ((laneAddrs mask addr).any fun la => q la.2) = true ↔ ∃ k < 64, mask.getLsbD k = true ∧ q (addr k) = true := by
  rw [laneAddrs, List.any_filterMap, List.any_eq_true]
  refine exists_congr fun k => ?_
  rw [mem_upto, Nat.zero_add]
  cases mask.getLsbD k <;> simp

theorem vectorTrap_outside (h : ∃ k < 64, mask.getLsbD k = true ∧ ¬WordFits banks (addr k).toNat) :
    vectorTrap banks (laneAddrs mask addr) = some 0x17 := by
  refine if_pos ((any_laneAddrs fun a => bytesTrap banks a 4 == some 0x17).2 ?_)
  simpa only [beq_iff_eq, bytesTrap_outside] using h

theorem not_any_outside (h : ∀ k < 64, mask.getLsbD k = true → WordFits banks (addr k).toNat) :
    ¬((laneAddrs mask addr).any fun la => bytesTrap banks la.2 4 == some 0x17) = true := by
  rw [any_laneAddrs fun a => bytesTrap banks a 4 == some 0x17]
  rintro ⟨k, hk, hm, hb⟩
  exact (bytesTrap_outside banks _).1 (by simpa using hb) (h k hk hm)

theorem vectorTrap_misaligned (hfit : ∀ k < 64, mask.getLsbD k = true → WordFits banks (addr k).toNat)
    (h : ∃ k < 64, mask.getLsbD k = true ∧ (addr k).toNat % 4 ≠ 0) : vectorTrap banks (laneAddrs mask addr) = some 0x18 := by
  obtain ⟨k, hk, hm, ha⟩ := h
  refine (if_neg (not_any_outside hfit)).trans (if_pos ((any_laneAddrs fun a => bytesTrap banks a 4 == some 0x18).2 ⟨k, hk, hm, ?_⟩))
  rw [(bytesTrap_misaligned banks _).2 ⟨hfit k hk hm, ha⟩]
  rfl

theorem vectorTrap_none (h : ∀ k < 64, mask.getLsbD k = true → WordFits banks (addr k).toNat ∧ (addr k).toNat % 4 = 0) :
    vectorTrap banks (laneAddrs mask addr) = none := by
  refine (if_neg (not_any_outside fun k hk hm => (h k hk hm).1)).trans (if_neg ?_)
  rw [any_laneAddrs fun a => bytesTrap banks a 4 == some 0x18]
  rintro ⟨k, hk, hm, hb⟩
  exact ((bytesTrap_misaligned banks _).1 (by simpa using hb)).2 (h k hk hm).2

end Trap

/-! ### What the enabled lanes write (R147) -/

theorem readBytes_congr {m m' : Memory} {a n : Nat} (h : ∀ q, a ≤ q → q < a + n → readByte m q = readByte m' q) :
    readBytes m a n = readBytes m' a n := by
  induction n generalizing a with
  | zero => rfl
  | succ n ih => rw [readBytes, readBytes, h a le_rfl (by omega), ih fun q hlo hhi => h q (by omega) (by omega)]

/-- The words of the enabled lanes below n, written in ascending order. -/
def lanesWritten (mask : W64) (addr : Nat → W64) (v : VReg) (m : Memory) (n : Nat) : Memory :=
  (upto 0 n).foldl (fun m k => if mask.getLsbD k then writeNat m (addr k).toNat 4 (lane v k) else m) m

section Written

variable {mask : W64} {addr : Nat → W64} {v : VReg} {m : Memory} {n : Nat}

theorem lanesWritten_succ : lanesWritten mask addr v m (n + 1) = if mask.getLsbD n
    then writeNat (lanesWritten mask addr v m n) (addr n).toNat 4 (lane v n) else lanesWritten mask addr v m n := by
  rw [lanesWritten, upto_succ, List.foldl_append, Nat.zero_add]
  rfl

theorem foldl_laneAddrs (p : Pad) : (laneAddrs mask addr).foldl (fun p la => padWrite p la.2.toNat 4 (lane v la.1)) p
    = { p with bytes := lanesWritten mask addr v p.bytes 64 } := by
  have h : ∀ n, ((upto 0 n).filterMap fun k => if mask.getLsbD k then some (k, addr k) else none).foldl
      (fun p la => padWrite p la.2.toNat 4 (lane v la.1)) p = { p with bytes := lanesWritten mask addr v p.bytes n } := by
    intro n
    induction n with
    | zero => rfl
    | succ n ih =>
      rw [upto_succ, List.filterMap_append, List.foldl_append, ih, lanesWritten_succ]
      cases hm : mask.getLsbD n <;> simp [hm, padWrite]
  exact h 64

/-- A byte outside the words of the enabled lanes. -/
theorem readByte_lanesWritten {q : Nat} (h : ∀ k < n, mask.getLsbD k = true → q < (addr k).toNat ∨ (addr k).toNat + 4 ≤ q) :
    readByte (lanesWritten mask addr v m n) q = readByte m q := by
  induction n with
  | zero => rfl
  | succ n ih =>
    have ih := ih fun k hk => h k (Nat.lt_succ_of_lt hk)
    rw [lanesWritten_succ]
    split
    next hm => rw [writeNat, readByte_writeBytes_outside _ _ _ _ (by simpa using h n (Nat.lt_succ_self n) hm), ih]
    next => exact ih

/-- The word of an enabled lane that no higher enabled lane touches. -/
theorem readBytes_lanesWritten {k : Nat} (hk : k < n) (hm : mask.getLsbD k = true)
    (h : ∀ j < n, k < j → mask.getLsbD j = true → (addr j).toNat + 4 ≤ (addr k).toNat ∨ (addr k).toNat + 4 ≤ (addr j).toNat) :
    readBytes (lanesWritten mask addr v m n) (addr k).toNat 4 = leBytes (lane v k) 4 := by
  induction n with
  | zero => exact absurd hk (Nat.not_lt_zero k)
  | succ n ih =>
    rw [lanesWritten_succ]
    rcases Nat.lt_succ_iff_lt_or_eq.1 hk with hlt | rfl
    · have ih := ih hlt fun j hj => h j (Nat.lt_succ_of_lt hj)
      split
      next hn =>
        have hapart := h n (Nat.lt_succ_self n) hlt hn
        rw [← ih]
        refine readBytes_congr fun q hlo hhi => readByte_writeBytes_outside _ _ _ _ ?_
        rw [length_leBytes]
        omega
      next => exact ih
    · rw [if_pos hm, writeNat]
      exact readBytes_writeBytes (leBytes (lane v k) 4) _ _

end Written

/-! ### The loads and the stores -/

section Slot

variable {i : Instr} {s : State} {e st c : Bool} {f : State → SlotAnswer} {m : BitVec 3} {d : BitVec 5} {z : Bool} {lat : Nat}
  {addr : Nat → W64}

theorem vectorLoad_traps {cause : Nat} (hx : exec i s = issueOne e st (slotWords i) c f s)
    (hf : f (atIssue (slotWords i) s) = vectorLoad d m z lat addr (atIssue (slotWords i) s))
    (h : vectorTrap (landDue s).unit.pad.banks (laneAddrs (mReg (landDue s).unit m) addr) = some cause) : Traps i s cause 0#12 :=
  hx.trans (issueOne_trap (hf.trans (by rw [vectorLoad, pad_atIssue, mReg_atIssue, h])))

theorem vectorStore_traps {cause : Nat} (hx : exec i s = issueOne e st (slotWords i) c f s)
    (hf : f (atIssue (slotWords i) s) = vectorStore d m addr (atIssue (slotWords i) s))
    (h : vectorTrap (landDue s).unit.pad.banks (laneAddrs (mReg (landDue s).unit m) addr) = some cause) : Traps i s cause 0#12 :=
  hx.trans (issueOne_trap (hf.trans (by simp only [vectorStore, pad_atIssue, mReg_atIssue, h])))

theorem vectorLoad_lands (hx : exec i s = issueOne e st (slotWords i) c f s)
    (hf : f (atIssue (slotWords i) s) = vectorLoad d m z lat addr (atIssue (slotWords i) s))
    (h : vectorTrap (landDue s).unit.pad.banks (laneAddrs (mReg (landDue s).unit m) addr) = none) :
    LandsMasked i s lat d m z fun k => (leNat (readBytes (landDue s).unit.pad.bytes (addr k).toNat 4), 0#6) :=
  landsMasked_of_lanes hx (hf.trans (by rw [vectorLoad, pad_atIssue, mReg_atIssue, h]; rfl))

/-- The unit after the words of the enabled lanes of v have been written. -/
def withLanes (mask : W64) (addr : Nat → W64) (v : VReg) (u : Unit) : Unit :=
  { u with pad := { u.pad with bytes := lanesWritten mask addr v u.pad.bytes 64 } }

theorem vectorStore_acts (hx : exec i s = issueOne e st (slotWords i) c f s)
    (hf : f (atIssue (slotWords i) s) = vectorStore d m addr (atIssue (slotWords i) s))
    (h : vectorTrap (landDue s).unit.pad.banks (laneAddrs (mReg (landDue s).unit m) addr) = none) : 
    Acts i s (withLanes (mReg (landDue s).unit m) addr (vReg (landDue s).unit d)) := by
  refine acts_of_go hx (hf.trans ?_) rfl rfl rfl rfl rfl
  simp only [vectorStore, pad_atIssue, mReg_atIssue, h, foldl_laneAddrs]
  rfl

/-- The instruction stores the words of the enabled lanes of v: of two lanes with one word the higher one's stands, and every other byte keeps
its value. -/
def StoresLanes (i : Instr) (s : State) (mask : W64) (addr : Nat → W64) (v : VReg) : Prop :=
  let u := (landDue s).unit
  ∃ t, exec i s = .next t ∧ Issued (slotWords i) (landDue s) t
    ∧ (∀ k < 64, mask.getLsbD k = true → (∀ j < 64, k < j → mask.getLsbD j = true → (addr j).toNat ≠ (addr k).toNat) →
      readBytes t.unit.pad.bytes (addr k).toNat 4 = leBytes (lane v k) 4)
    ∧ (∀ q, (∀ k < 64, mask.getLsbD k = true → q < (addr k).toNat ∨ (addr k).toNat + 4 ≤ q) →
      readByte t.unit.pad.bytes q = readByte u.pad.bytes q)
    ∧ t = sequenced { landDue s with unit := { u with pad := { u.pad with bytes := t.unit.pad.bytes } } } t
    ∧ t.unit.landing = u.landing

theorem vectorStore_stores (hx : exec i s = issueOne e st (slotWords i) c f s)
    (hf : f (atIssue (slotWords i) s) = vectorStore d m addr (atIssue (slotWords i) s))
    (h : ∀ k < 64, (mReg (landDue s).unit m).getLsbD k = true →
      WordFits (landDue s).unit.pad.banks (addr k).toNat ∧ (addr k).toNat % 4 = 0) :
    StoresLanes i s (mReg (landDue s).unit m) addr (vReg (landDue s).unit d) := by
  obtain ⟨t, ht, hi, hl, hseq⟩ := vectorStore_acts hx hf (vectorTrap_none h)
  have hbytes : t.unit.pad.bytes = lanesWritten (mReg (landDue s).unit m) addr (vReg (landDue s).unit d) (landDue s).unit.pad.bytes 64 :=
    congrArg Pad.bytes (pad_of_sequenced hseq)
  refine ⟨t, ht, hi, fun k hk hm hne => ?_, fun q hq => ?_, ?_, hl⟩
  · rw [hbytes]
    refine readBytes_lanesWritten hk hm fun j hj hkj hmj => ?_
    have hapart := hne j hj hkj hmj
    have halj := (h j hj hmj).2
    have halk := (h k hk hm).2
    omega
  · rw [hbytes]
    exact readByte_lanesWritten hq
  · rw [hbytes]
    exact hseq

/-- A load and a store whose lanes have the same addresses: both complete, or both take the lowest trap of an enabled lane. -/
theorem vectorLocal_cases {i' : Instr} {e' st' c' : Bool} {f' : State → SlotAnswer}
    (hx : exec i s = issueOne e st (slotWords i) c f s)
    (hf : f (atIssue (slotWords i) s) = vectorLoad d m z lat addr (atIssue (slotWords i) s))
    (hx' : exec i' s = issueOne e' st' (slotWords i') c' f' s)
    (hf' : f' (atIssue (slotWords i') s) = vectorStore d m addr (atIssue (slotWords i') s)) :
    let u := (landDue s).unit
    let mask := mReg u m
    let fits := fun k => WordFits u.pad.banks (addr k).toNat
    ((∀ k < 64, mask.getLsbD k = true → fits k ∧ (addr k).toNat % 4 = 0) →
      LandsMasked i s lat d m z (fun k => (leNat (readBytes u.pad.bytes (addr k).toNat 4), 0#6)) ∧ StoresLanes i' s mask addr (vReg u d))
    ∧ ((∃ k < 64, mask.getLsbD k = true ∧ ¬fits k) → Traps i s 0x17 0#12 ∧ Traps i' s 0x17 0#12)
    ∧ ((∀ k < 64, mask.getLsbD k = true → fits k) → (∃ k < 64, mask.getLsbD k = true ∧ (addr k).toNat % 4 ≠ 0) →
      Traps i s 0x18 0#12 ∧ Traps i' s 0x18 0#12) := by
  intro u mask fits
  exact ⟨fun h => ⟨vectorLoad_lands hx hf (vectorTrap_none h), vectorStore_stores hx' hf' h⟩,
    fun h => ⟨vectorLoad_traps hx hf (vectorTrap_outside h), vectorStore_traps hx' hf' (vectorTrap_outside h)⟩,
    fun hfit h => ⟨vectorLoad_traps hx hf (vectorTrap_misaligned hfit h), vectorStore_traps hx' hf' (vectorTrap_misaligned hfit h)⟩⟩

end Slot

/-- Settles O25: row and index addresses are the two cases of one load and one store by lanes. -/
theorem vectorLocalLoadsAndStores : Obligations.VectorLocalLoadsAndStores := by
  intro s d a b c m z x u mask base row index fits clear stored
  obtain ⟨hrow, hrowOut, hrowMis⟩ := vectorLocal_cases (i := .vldl d c b m z x) (i' := .vstl d c b m x) (f := slotVldl d c b m z x)
    (f' := slotVstl d c b m x) (addr := rowAddr u b x) rfl rfl rfl rfl
  obtain ⟨hindex, hindexOut, hindexMis⟩ := vectorLocal_cases (i := .vgath d a b m z x) (i' := .vscat d a b m x) (f := slotVgath d a b m z x)
    (f' := slotVscat d a b m x) (addr := indexAddr u b a x) rfl rfl rfl rfl
  exact ⟨hrow, hindex, hrowOut, hindexOut, hrowMis, hindexMis⟩

end Sys2Proof.Machine
end

section
/-! SUPPORT. Commands that enter a queue as their slot issues (R218, R221), the causes of the route commands (R418), and O39. -/

namespace Sys2Proof.Machine

/-! ### A command entering a queue (R218, R221) -/

/-- A command with its NC entry drawn leaves alone what the sequencer keeps, whatever queue it enters. -/
theorem entered_own (q : Nat) (cls : BitVec 4) (cmd : Cmd) : OwnEffect (entered q cls cmd) := by
  constructor <;> intros <;> (match q with | 0 | 1 | 2 | 3 | 4 | _ + 5 => rfl)

theorem enqueue_drawn (q : Nat) (cls : BitVec 4) (cmd : Cmd) (u : Unit) :
    enqueue { u with nc := u.nc + 1 } q cls cmd = entered q cls cmd u := by
  match q with
  | 0 | 1 | 2 | 3 | 4 | _ + 5 => rfl

theorem issueCmd_room {s : State} {q : Nat} {cls : BitVec 4} {cmd : Cmd} (h : canEnqueue s.unit q = true) :
    issueCmd s q cls cmd = .go (s.mapUnit (entered q cls cmd)) := by
  rw [issueCmd, if_pos h]
  simp only [enqueue_drawn]

theorem issueCmd_full {s : State} {q : Nat} {cls : BitVec 4} {cmd : Cmd} (h : canEnqueue s.unit q = false) :
    issueCmd s q cls cmd = .block := by
  rw [issueCmd, if_neg (by rw [h]; decide)]

/-- Whether a command may enter a queue does not turn on the place in the bundle. -/
theorem canEnqueue_atIssue (n : Nat) (s : State) (q : Nat) : canEnqueue (atIssue n s).unit q = canEnqueue (landDue s).unit q := by
  match q with
  | 0 | 1 | 2 | 3 | 4 | _ + 5 => rfl

section Slot

variable {i : Instr} {s : State} {g : BitVec 4} {e st c : Bool} {k : State → SlotAnswer} {q : Nat} {cls : BitVec 4} {cmd : Cmd}

theorem enters_of_issueCmd (hx : exec i s = issueOne e st (slotWords i) c (fun s => guarded g s k) s)
    (hg : guardOn g (landDue s).unit = true) (hk : k (atIssue (slotWords i) s) = issueCmd (atIssue (slotWords i) s) q cls cmd)
    (h : canEnqueue (landDue s).unit q = true) : Enters i s q cls cmd :=
  acts_of_mapUnit hx hg (entered_own q cls cmd) (hk.trans (issueCmd_room ((canEnqueue_atIssue _ _ _).trans h)))

theorem waits_of_issueCmd (hx : exec i s = issueOne e st (slotWords i) c (fun s => guarded g s k) s)
    (hg : guardOn g (landDue s).unit = true) (hk : k (atIssue (slotWords i) s) = issueCmd (atIssue (slotWords i) s) q cls cmd)
    (h : canEnqueue (landDue s).unit q = false) : Waits i s c :=
  waits_of_block hx hg (hk.trans (issueCmd_full ((canEnqueue_atIssue _ _ _).trans h)))

end Slot

/-! ### The causes of a route command (R418) -/

theorem rangeCause_eq_nil {u : Unit} {a n : Nat} : rangeCause u a n = [] ↔ padOk u.pad.banks a n = true := by
  unfold rangeCause
  split <;> simp [*]

theorem mem_rangeCause {u : Unit} {a n x : Nat} (h : x ∈ rangeCause u a n) : x = 0x17 := by
  unfold rangeCause at h
  split at h <;> simp_all

/-- The ranges of a command outside the banks: none, or cause 0x17 each. -/
def OnlyBanks (ranges : List Nat) : Prop := ∀ x ∈ ranges, x = 0x17

theorem OnlyBanks.nil : OnlyBanks [] := fun _ h => absurd h List.not_mem_nil

theorem OnlyBanks.rangeCause (u : Unit) (a n : Nat) : OnlyBanks (rangeCause u a n) := fun _ => mem_rangeCause

theorem OnlyBanks.append {x y : List Nat} (hx : OnlyBanks x) (hy : OnlyBanks y) : OnlyBanks (x ++ y) :=
  fun _ h => (List.mem_append.1 h).elim (hx _) (hy _)

theorem OnlyBanks.foldl_min {ranges : List Nat} (h : OnlyBanks ranges) : ranges.foldl min 0x17 = 0x17 := by
  induction ranges with
  | nil => rfl
  | cons x xs ih =>
    rw [List.foldl_cons, h x List.mem_cons_self]
    exact ih fun y hy => h y (List.mem_cons_of_mem x hy)

section Causes

variable {s : State} {cls : BitVec 4} {cmd : Cmd} {c : BitVec 6} {bad : Bool} {ranges : List Nat}

/-- A range outside the banks is the lowest cause, with the fields' cause or without. -/
theorem issueRoute_outside (hp : s.unit.launch.paired = false) (hall : OnlyBanks ranges) (hr : ranges ≠ []) :
    issueRoute s cls (routeCauses s.unit c bad ++ ranges) cmd = .trap 0x17 0#12 := by
  obtain ⟨x, xs, rfl⟩ := List.exists_cons_of_ne_nil hr
  obtain rfl : x = 0x17 := hall x List.mem_cons_self
  have hxs : xs.foldl min 0x17 = 0x17 := OnlyBanks.foldl_min fun y hy => hall y (List.mem_cons_of_mem _ hy)
  by_cases hf : (c != 0#6 || bad) = true
  · simp [issueRoute, routeCauses, lowestCause, hp, hf, hxs]
  · simp [issueRoute, routeCauses, lowestCause, hp, hf, hxs]

theorem issueRoute_fields (hp : s.unit.launch.paired = false) (h : c ≠ 0#6 ∨ bad = true) :
    issueRoute s cls (routeCauses s.unit c bad ++ []) cmd = .trap 0x39 0#12 := by
  have hf : (c != 0#6 || bad) = true := by simpa using h
  simp [issueRoute, routeCauses, lowestCause, hp, hf]

theorem issueRoute_good (hp : s.unit.launch.paired = false) (hc : c = 0#6) (hb : bad = false) :
    issueRoute s cls (routeCauses s.unit c bad ++ []) cmd = issueCmd s 4 cls cmd := by
  simp [issueRoute, routeCauses, lowestCause, hp, hc, hb]

end Causes

/-! ### A route command, whichever it is (R30, R418) -/

section Route

variable {i : Instr} {s : State} {g : BitVec 4} {k : State → SlotAnswer} {cls : BitVec 4} {cmd : Cmd} {c : BitVec 6} {bad : Bool}
  {ranges : List Nat} {inBanks fields : Prop}

/-- A command whose ranges are in banks exactly if inBanks and whose other checks pass exactly if fields: it enters RQ, or takes cause 0x17, and
then 0x39, or waits. -/
theorem routeCommand_cases (hx : exec i s = issueOne true false (slotWords i) false (fun s => guarded g s k) s)
    (hg : guardOn g (landDue s).unit = true) (hp : (landDue s).unit.launch.paired = false)
    (hk : k (atIssue (slotWords i) s) = issueRoute (atIssue (slotWords i) s) cls (routeCauses (atIssue (slotWords i) s).unit c bad ++ ranges) cmd)
    (hall : OnlyBanks ranges) (hr : ranges = [] ↔ inBanks) (hf : bad = false ↔ fields) :
    (canEnqueue (landDue s).unit 4 = true → c = 0#6 → fields → inBanks → Enters i s 4 cls cmd)
    ∧ (¬inBanks → Traps i s 0x17 0#12) ∧ (inBanks → c ≠ 0#6 ∨ ¬fields → Traps i s 0x39 0#12)
    ∧ (canEnqueue (landDue s).unit 4 = false → inBanks → c = 0#6 → fields → Waits i s false) := by
  have hpi : (atIssue (slotWords i) s).unit.launch.paired = false := hp
  have hgood : inBanks → c = 0#6 → fields → k (atIssue (slotWords i) s) = issueCmd (atIssue (slotWords i) s) 4 cls cmd := by
    intro hin hc hfields
    rw [hk, hr.2 hin]
    exact issueRoute_good hpi hc (hf.2 hfields)
  refine ⟨fun hroom hc hfields hin => enters_of_issueCmd hx hg (hgood hin hc hfields) hroom, fun hout => ?_, fun hin hbad => ?_,
    fun hfull hin hc hfields => waits_of_issueCmd hx hg (hgood hin hc hfields) hfull⟩
  · exact traps_of_trap hx hg (hk.trans (issueRoute_outside hpi hall (mt hr.1 hout)))
  · have hb : c ≠ 0#6 ∨ bad = true := hbad.imp_right fun h => by simpa using mt hf.1 h
    rw [hr.2 hin] at hk
    exact traps_of_trap hx hg (hk.trans (issueRoute_fields hpi hb))

end Route

theorem fld_zero (w : W64) (n : Nat) : fld w 0 n = w.toNat % 2 ^ n := by rw [fld, pow_zero, Nat.div_one]

/-- The range at the local address of an operand word. -/
theorem localRange_eq_nil {u : Unit} {w : W64} {n : Nat} :
    rangeCause u (fld w 0 21) n = [] ↔ padOk u.pad.banks (w.toNat % 2 ^ 21) n = true := by
  rw [rangeCause_eq_nil, fld_zero]

/-- Settles O39: each command is the general one with its ranges and its fields. -/
theorem routeCommandsEnter : Obligations.RouteCommandsEnter := by
  intro s a b c g hg hp u x y rows local_ okRoute okRtcfg okRasm okRret
  obtain ⟨routeEnters, routeChecks⟩ := routeCommand_cases (i := .route a b c g) (fields := okRoute) rfl hg hp
    (congrArg (issueRoute _ _ · _) (List.append_assoc _ _ _)) ((OnlyBanks.rangeCause _ _ _).append (.rangeCause _ _ _))
    (List.append_eq_nil_iff.trans (and_congr localRange_eq_nil localRange_eq_nil))
    (by simp only [Bool.or_eq_false_iff, bne_eq_false_iff_eq, and_assoc, gReg_atIssue, fld_zero, okRoute, local_, x, y, u])
  obtain ⟨rtcfgEnters, rtcfgChecks⟩ := routeCommand_cases (i := .rtcfg a b c g) (fields := okRtcfg) rfl hg hp
    (congrArg (issueRoute _ _ · _) (List.append_nil _).symm) .nil (iff_of_true rfl trivial)
    (by simp only [Bool.or_eq_false_iff, bne_eq_false_iff_eq, and_assoc, gReg_atIssue, okRtcfg, x, y, u])
  obtain ⟨rasmEnters, rasmChecks⟩ := routeCommand_cases (i := .rasm a b c g) (fields := okRasm) rfl hg hp rfl
    (.rangeCause _ _ _) localRange_eq_nil
    (by simp only [Bool.or_eq_false_iff, bne_eq_false_iff_eq, and_assoc, gReg_atIssue, fld_zero, okRasm, local_, x, y, u])
  obtain ⟨rretEnters, rretChecks⟩ := routeCommand_cases (i := .rret a b c g) (fields := okRret) rfl hg hp rfl
    (.rangeCause _ _ _) rangeCause_eq_nil
    (by simp only [Bool.or_eq_false_iff, bne_eq_false_iff_eq, gReg_atIssue, okRret, x, y, u])
  simp only [pad_atIssue, gReg_atIssue] at routeEnters routeChecks rtcfgEnters rasmEnters rasmChecks rretEnters rretChecks
  exact ⟨fun hroom hc => ⟨fun hok hx hy => routeEnters hroom hc hok ⟨hx, hy⟩, fun hok => rtcfgEnters hroom hc hok trivial,
      rasmEnters hroom hc, rretEnters hroom hc⟩,
    routeChecks, rtcfgChecks, rasmChecks, rretChecks⟩

end Sys2Proof.Machine
end

section
/-! SUPPORT. Bytes read as numbers and written back (R5), and rows of elements without scales (R233, R237). -/

namespace Sys2Proof.Machine

/-! ### Runs of bytes -/

@[simp] theorem length_readBytes (m : Memory) (a n : Nat) : (readBytes m a n).length = n := by
  induction n generalizing a with
  | zero => rfl
  | succ n ih => rw [readBytes, List.length_cons, ih]

theorem getElem_readBytes (m : Memory) (a n k : Nat) (h : k < (readBytes m a n).length) : (readBytes m a n)[k] = readByte m (a + k) := by
  induction n generalizing a k with
  | zero => simp at h
  | succ n ih =>
    cases k with
    | zero => rfl
    | succ k => simp only [readBytes, List.getElem_cons_succ, ih, Nat.add_assoc, Nat.add_comm 1 k]

theorem readBytes_add (m : Memory) (a x y : Nat) : readBytes m a (x + y) = readBytes m a x ++ readBytes m (a + x) y := by
  induction x generalizing a with
  | zero => simp [readBytes]
  | succ x ih => rw [Nat.add_right_comm, readBytes, ih, readBytes, List.cons_append, Nat.add_assoc a 1 x, Nat.add_comm 1 x]

/-- The low bytes of the number that a run of bytes stands for are the run. -/
theorem leBytes_leNat (bs : List Byte) : leBytes (leNat bs) bs.length = bs := by
  induction bs with
  | nil => rfl
  | cons b bs ih =>
    have hb : b.toNat < 256 := b.isLt
    have hlow : BitVec.ofNat 8 (b.toNat + 256 * leNat bs) = b := BitVec.eq_of_toNat_eq (by rw [BitVec.toNat_ofNat]; omega)
    rw [leNat, List.length_cons, leBytes, hlow, show (b.toNat + 256 * leNat bs) / 256 = leNat bs by omega, ih]

theorem leNat_lt (bs : List Byte) : leNat bs < 256 ^ bs.length := by
  have h := leNat_leBytes (leNat bs) bs.length
  rw [leBytes_leNat] at h
  exact h ▸ Nat.mod_lt _ (Nat.pow_pos (by decide))

/-- A run of bytes moved to dst. -/
theorem readByte_moved (m m' : Memory) (src dst n a : Nat) : readByte (writeBytes m dst (readBytes m' src n)) a
    = if dst ≤ a ∧ a < dst + n then readByte m' (src + (a - dst)) else readByte m a := by
  split
  · next h =>
    have hk : a - dst < (readBytes m' src n).length := by rw [length_readBytes]; omega
    conv_lhs => rw [show a = dst + (a - dst) by omega]
    rw [readByte_writeBytes_inside _ _ _ _ hk, getElem_readBytes]
  · next h => exact readByte_writeBytes_outside _ _ _ _ (by rw [length_readBytes]; omega)

/-! ### Rows of elements without scales (R86, R233) -/

section Row

variable {w : W64}

theorem metaBytes_eq_zero : metaBytes w = 0 ↔ fmtMx (fmtOf w) = false ∧ fmtAsym (fmtOf w) = false := by
  unfold metaBytes
  cases fmtMx (fmtOf w) <;> cases fmtAsym (fmtOf w) <;> decide

theorem fmtBits_unscaled : ∀ f < 16, fmtMx f = false → fmtAsym f = false → 8 ∣ fmtBits f := by decide

/-- An element of a format without scales takes whole bytes. -/
theorem fmtBits_of_metaBytes (h : metaBytes w = 0) : 8 ∣ fmtBits (fmtOf w) :=
  have hf := metaBytes_eq_zero.1 h
  fmtBits_unscaled _ (Nat.mod_lt _ (by decide)) hf.1 hf.2

theorem rowBytes_whole {k : Nat} (hb : fmtBits (fmtOf w) = 8 * k) (n : Nat) : rowBytes w n = n * k := by
  rw [rowBytes, hb, ceilDiv, show n * (8 * k) = 8 * (n * k) by ring]
  omega

theorem padBits_whole (p : Pad) (a e k : Nat) : padBits p a (e * (8 * k)) (8 * k) = leNat (readBytes p.bytes (a + e * k) k) := by
  have hlt := leNat_lt (readBytes p.bytes (a + e * k) k)
  rw [length_readBytes, show 256 = 2 ^ 8 by rfl, ← Nat.pow_mul] at hlt
  have hbit : e * (8 * k) = 8 * (e * k) := by ring
  rw [padBits, padRead, readNat, hbit, Nat.mul_div_cancel_left _ (by decide : 0 < 8), Nat.mul_mod_right, pow_zero, Nat.div_one,
    show (0 + 8 * k + 7) / 8 = k by omega, Nat.mod_eq_of_lt hlt]

theorem flatMap_readBytes (m : Memory) (a k lo n : Nat) :
    ((upto lo n).flatMap fun e => readBytes m (a + e * k) k) = readBytes m (a + lo * k) (n * k) := by
  induction n generalizing lo with
  | zero => simp [upto, readBytes]
  | succ n ih =>
    rw [upto, List.flatMap_cons, ih, Nat.succ_mul n k, Nat.add_comm (n * k) k, readBytes_add, Nat.succ_mul lo k, Nat.add_assoc]

/-- The bytes of a row, packed again, are the bytes it was read from. -/
theorem packCodes_localCells (p : Pad) (h : metaBytes w = 0) (a n : Nat) :
    packCodes (fmtBits (fmtOf w)) ((localCells p w a n).map (·.code)) = readBytes p.bytes a (rowBytes w n) := by
  obtain ⟨k, hk⟩ := fmtBits_of_metaBytes h
  have hcodes : (localCells p w a n).map (·.code) = (upto 0 n).map fun e => leNat (readBytes p.bytes (a + e * k) k) := by
    simp only [localCells, h, beq_self_eq_true, if_true, List.map_map, hk]
    exact List.map_congr_left fun e _ => padBits_whole p a e k
  have hbytes : ∀ e, leBytes (leNat (readBytes p.bytes (a + e * k) k)) k = readBytes p.bytes (a + e * k) k := fun e => by
    simpa using leBytes_leNat (readBytes p.bytes (a + e * k) k)
  rw [hcodes, packCodes, hk, if_pos (by simp), Nat.mul_div_cancel_left _ (by decide : 0 < 8), List.flatMap_map]
  simp only [hbytes]
  rw [flatMap_readBytes, rowBytes_whole hk, Nat.zero_mul, Nat.add_zero]

/-- One row moved between ranges of one format without scales, byte for byte. -/
theorem bytes_putRows_localRows {w' : W64} (p : Pad) (hf : fmtOf w = fmtOf w') (h : metaBytes w' = 0) (src dst pitch pitch' n : Nat) :
    (putRows p w' dst pitch' (localRows p w src pitch n 1)).bytes = writeBytes p.bytes dst (readBytes p.bytes src (rowBytes w' n)) := by
  have hm : metaBytes w = 0 := by unfold metaBytes at h ⊢; rwa [hf]
  have hrow : rowBytes w n = rowBytes w' n := by rw [rowBytes, rowBytes, hf]
  have hb : metaBytes w' == 0 := by simp [h]
  simp only [putRows, localRows, upto, List.map_cons, List.map_nil, List.length_cons, List.length_nil, List.zip_cons_cons, List.zip_nil_right,
    List.foldl_cons, List.foldl_nil, Nat.zero_mul, Nat.add_zero, putRow, hb, if_true, padPut]
  rw [← hf, packCodes_localCells p hm, hrow]

end Row

end Sys2Proof.Machine
end

section
/-! SUPPORT. Copies between local addresses (R206, R232, R235 to R237, R248, R249): what one that fires, begins, fails or performs does, and O49. -/

namespace Sys2Proof.Machine

/-! ### Queues -/

@[simp] theorem queueOf_setQueue (u : Unit) (i : Nat) (q : List QEntry) : queueOf (setQueue u i q) i = q := by
  match i with
  | 0 | 1 | 2 | 3 | 4 | _ + 5 => rfl

theorem queueOf_setHead (u : Unit) (i : Nat) (e : QEntry) : queueOf (setHead u i e) i = e :: (queueOf u i).tail := queueOf_setQueue u i _

/-- What a copy's end writes besides leaves the queues alone. -/
theorem queueOf_update (u : Unit) (pad : Pad) (cr : Cregs) (d : List Deferred) (sig : List SigEvent) (i : Nat) :
    queueOf { u with pad := pad, cr := cr, deferred := d, sig := sig } i = queueOf u i := by
  match i with
  | 0 | 1 | 2 | 3 | 4 | _ + 5 => rfl

theorem setQueue_setQueue (u : Unit) (i : Nat) (q q' : List QEntry) : setQueue (setQueue u i q) i q' = setQueue u i q' := by
  match i with
  | 0 | 1 | 2 | 3 | 4 | _ + 5 => rfl

theorem setHead_setHead (u : Unit) (i : Nat) (e e' : QEntry) : setHead (setHead u i e) i e' = setHead u i e' := by
  rw [setHead, setHead, queueOf_setQueue, setQueue_setQueue, List.tail_cons, setHead]

/-- The state with the head of queue i replaced. -/
def headed (s : State) (i : Nat) (e : QEntry) : State := s.mapUnit fun u => setHead u i e

theorem headed_headed (s : State) (i : Nat) (e e' : QEntry) : (headed s i e).mapUnit (fun u => setHead u i e') = headed s i e' := by
  simp only [headed, State.mapUnit, setHead_setHead]

/-- What a change of a queue leaves of u. -/
structure QueueOnly (u v : Unit) : Prop where
  pad : v.pad = u.pad
  nc : v.nc = u.nc
  g : v.g = u.g
  cr : v.cr = u.cr
  deferred : v.deferred = u.deferred

theorem setQueue_only (u : Unit) (i : Nat) (q : List QEntry) : QueueOnly u (setQueue u i q) := by
  match i with
  | 0 | 1 | 2 | 3 | 4 | _ + 5 => constructor <;> rfl

theorem setHead_only (u : Unit) (i : Nat) (e : QEntry) : QueueOnly u (setHead u i e) := setQueue_only u i _

theorem queueOf_pruneFences (s : State) (i : Nat) : queueOf (pruneFences s).unit i = queueOf s.unit i := by
  match i with
  | 0 | 1 | 2 | 3 | 4 | _ + 5 => rfl

/-- The head of a copy queue has left it, its NC entry given back, and nothing else here has changed. -/
structure LeavesQueue (s : State) (i : Nat) (t : State) : Prop where
  nc : t.unit.nc = s.unit.nc - 1
  queue : queueOf t.unit i = (queueOf s.unit i).tail
  pad : t.unit.pad = s.unit.pad
  g : t.unit.g = s.unit.g
  cr : t.unit.cr = s.unit.cr
  deferred : t.unit.deferred = s.unit.deferred
  dram : t.dram = s.dram
  llc : t.llc = s.llc

theorem finishEntry_leaves (s : State) {i : Nat} (hi : i < 2) : LeavesQueue s i (finishEntry s i) := by
  match i with
  | 0 | 1 => constructor <;> rfl
  | _ + 2 => omega

/-! ### A copy between local addresses -/

section LocalCopy

variable {s : State} {i : Nat} {e : QEntry} {near far ctl : W64}

/-- The format of the bank of a local address as the command took it at issue (R158). -/
def entryFmt (e : QEntry) (a : Nat) : W64 := nth e.fmts.toList (a / Config.bankBytes) 0#64

theorem sideFmt_own (s : State) (e : QEntry) (a : Nat) : sideFmt s e s.unit.cr.lcore.toNat a = entryFmt e a := by
  rw [sideFmt, if_pos (beq_self_eq_true _)]
  rfl

/-- A local side of this core. -/
def ownSide (s : State) (e : QEntry) (a : Nat) (d : W64) : LocalSide := ⟨s.unit.cr.lcore.toNat, a, entryFmt e a, d⟩

theorem sidesOf_local (s : State) (e : QEntry) (src dst : Nat) :
    sidesOf s e (localOp .l2l near far ctl) src dst = (some (ownSide s e src far), some (ownSide s e dst near)) := by
  simp only [sidesOf, localOp, sideFmt_own, ownSide]

theorem padOf_own (s : State) : padOf s s.unit.cr.lcore.toNat = some s.unit.pad := if_pos (beq_self_eq_true _)

theorem modPad_own (s : State) (f : Pad → Pad) : modPad s s.unit.cr.lcore.toNat f = s.mapUnit fun u => { u with pad := f u.pad } :=
  if_pos (beq_self_eq_true _)

theorem srcRing_local : (localOp .l2l near far ctl).srcRing = if ldRing far then some (ldQ far) else none := rfl

/-- A copy into an address reserves no slot. -/
theorem reserveDst_local (hnear : ldRing near = false) : reserveDst s (localOp .l2l near far ctl) = some (s, ldAddr near, []) := by
  have hdst : (localOp .l2l near far ctl).dstRing s.unit.cr.lcore.toNat = none := if_neg (by simp [localOp, hnear])
  rw [reserveDst, hdst]
  rfl

/-! ### Firing (R206) -/

/-- An engine fires on an own ring once a filled slot is there that no copy has taken. -/
theorem fireAt_own {q : BitVec 6} {r : Ring} (hr : ringAt s.unit.pad q = some r) (n : Nat) :
    fireAt s s.unit.cr.lcore.toNat q n = if (shownRing s.unit q r).filled < takenFrom s.unit q (shownRing s.unit q r) + n then none
      else some (shownRing s.unit q r, (shownRing s.unit q r).adv (shownRing s.unit q r).head (takenFrom s.unit q (shownRing s.unit q r))) := by
  simp only [fireAt, engRing, beq_self_eq_true, if_true, hr, Option.map_some, Option.bind_some]

section Fire

variable {r : Ring} (hready : readyEntry s.unit i = some e) (hcmd : e.cmd = .cpyL2l near far ctl) (hst : e.stage = .waiting)
  (hfar : ldRing far = true) (hr : ringAt s.unit.pad (ldQ far) = some r)
include hready hcmd hst hfar hr

theorem copyFire_local_waits
    (h : (shownRing s.unit (ldQ far) r).filled ≤ takenFrom s.unit (ldQ far) (shownRing s.unit (ldQ far) r)) : copyFire s i = s := by
  simp only [copyFire, hready, hcmd, copyOp, srcRing_local, hfar, if_true, hst, fireAt_own hr, if_pos (Nat.lt_succ_of_le h)]

theorem copyFire_local_fires (hnear : ldRing near = false)
    (h : takenFrom s.unit (ldQ far) (shownRing s.unit (ldQ far) r) < (shownRing s.unit (ldQ far) r).filled) :
    let shown := shownRing s.unit (ldQ far) r
    copyFire s i = s.mapUnit fun u => setHead u i { e with
      stage := .begun (shown.addr (shown.adv shown.head (takenFrom s.unit (ldQ far) shown))) (ldAddr near) [] [] } := by
  simp only [copyFire, hready, hcmd, copyOp, srcRing_local, hfar, if_true, hst, fireAt_own hr, if_neg (Nat.not_lt_of_le (Nat.succ_le_of_lt h)),
    reserveDst_local hnear]

end Fire

/-! ### Failing (R219, R249) -/

theorem holdSlots_nil (s : State) (o : CopyOp) : holdSlots s o [] = (s, none) := rfl

/-- The unit with the error of the entry at the head of queue i reported (R219, R249) and its signature as given. -/
def withError (u : Unit) (i : Nat) (e : QEntry) (kind : Nat) (sig : List SigEvent) : Unit :=
  { u with
    cr := queueError u.cr i 0 kind e.seq
    deferred := u.deferred ++ [⟨e.ord, 2, BitVec.ofNat 8 kind, 0#4, 0#64, none, 0⟩]
    sig := sig }

theorem queueOf_withError (u : Unit) (kind : Nat) (sig : List SigEvent) : queueOf (withError u i e kind sig) i = queueOf u i :=
  queueOf_update u _ _ _ _ i

/-- A copy between addresses fails: it frees and holds no ring slot, and its error is reported. -/
theorem failCopy_local (hi : i < 2) (hcmd : e.cmd = .cpyL2l near far ctl) (hfar : ldRing far = false) {kind : Nat} (hk : kind ≠ 0x28) :
    failCopy s i e (localOp .l2l near far ctl) [] kind 0#4 0#64
      = finishEntry (s.mapUnit fun u => withError u i e kind (fillSig s e.ord (BitVec.allOnes 64)).unit.sig) i := by
  have hcls : copyCls i = 2 := if_pos hi
  have hhandle : (localOp .l2l near far ctl).usesHandle = false := rfl
  have hsrc : freeSource s (localOp .l2l near far ctl) e.src = s := by
    rw [freeSource, srcRing_local, hfar]
    rfl
  simp only [failCopy, hsrc, ite_self, holdSlots_nil, beq_iff_eq, if_neg hk, hhandle, failEntry, hcmd, hcls, withError, fillSig, State.mapUnit,
    Bool.false_eq_true, if_false]

/-- What is left when the copy at the head of queue i has completed with an error of a kind. -/
structure EndsWithError (s : State) (i : Nat) (ord kind : Nat) (t : State) : Prop where
  pad : t.unit.pad = s.unit.pad
  nc : t.unit.nc = s.unit.nc - 1
  queue : queueOf t.unit i = (queueOf s.unit i).tail
  qerr : t.unit.cr.qerr = s.unit.cr.qerr ||| BitVec.ofNat 6 (2 ^ i)
  g : t.unit.g = s.unit.g
  dram : t.dram = s.dram
  deferred : t.unit.deferred = s.unit.deferred ++ [⟨ord, 2, BitVec.ofNat 8 kind, 0#4, 0#64, none, 0⟩]

theorem failCopy_headed (hi : i < 2) (hcmd : e.cmd = .cpyL2l near far ctl) (hfar : ldRing far = false) {kind : Nat} (hk : kind ≠ 0x28) :
    EndsWithError s i e.ord kind (failCopy (headed s i e) i e (localOp .l2l near far ctl) [] kind 0#4 0#64) := by
  rw [failCopy_local hi hcmd hfar hk]
  generalize (fillSig (headed s i e) e.ord (BitVec.allOnes 64)).unit.sig = sig
  have hq := setHead_only s.unit i e
  have h := finishEntry_leaves ((headed s i e).mapUnit fun u => withError u i e kind sig) hi
  exact {
    pad := h.pad.trans hq.pad
    nc := h.nc.trans (congrArg (· - 1) hq.nc)
    queue := by rw [h.queue, mapUnit_unit, queueOf_withError, headed, mapUnit_unit, queueOf_setHead, List.tail_cons]
    qerr := (congrArg Cregs.qerr h.cr).trans (congrArg (·.qerr ||| _) hq.cr)
    g := h.g.trans hq.g
    dram := h.dram
    deferred := h.deferred.trans (congrArg (· ++ _) hq.deferred) }

/-! ### Beginning (R232, R236, R237, R248) -/

/-- Every bank that a range runs through has the format of its first byte's, their classes apart (R151, R158). -/
def Uniform (e : QEntry) (a span : Nat) : Prop := ∀ k, a / Config.bankBytes ≤ k → k ≤ (a + span - 1) / Config.bankBytes →
  entryFmt e (k * Config.bankBytes) <<< 8 = entryFmt e a <<< 8

theorem entryFmt_bank (e : QEntry) (a : Nat) : entryFmt e (a / Config.bankBytes * Config.bankBytes) = entryFmt e a := by
  rw [entryFmt, Nat.mul_div_cancel _ (by decide), entryFmt]

theorem mixedBanks_own (hd : ldRing d = false) (a n rows : Nat) (isDst : Bool) : mixedBanks s e (some (ownSide s e a d)) n rows isDst = false
    ↔ Uniform e a (spanOf (entryFmt e a) (ldPitch d) n rows isDst) := by
  simp only [mixedBanks, ownSide, hd, sideFmt_own, List.any_eq_false, mem_upto, bne_iff_ne, ne_eq, not_not, Bool.false_eq_true, if_false]
  constructor
  · intro h k h1 h2
    exact h k ⟨h1, by omega⟩
  · intro h k ⟨h1, h2⟩
    by_cases hk : k = a / Config.bankBytes
    · rw [hk, entryFmt_bank]
    · exact h k h1 (by omega)

/-- The far range lies in allotted banks (R236). -/
def SourceFits (u : Unit) (e : QEntry) (far ctl : W64) : Prop :=
  let o := localOp .l2l 0#64 far ctl
  padOk u.pad.banks (ldAddr far) (spanOf (entryFmt e (ldAddr far)) (ldPitch far) o.e0 o.e1 false) = true

/-- The formats of the two sides have a chain, the rows start on blocks, and no range runs through banks of unlike formats (R237, R238). -/
def FormatsFit (e : QEntry) (near far ctl : W64) : Prop :=
  let o := localOp .l2l near far ctl
  let a := entryFmt e (ldAddr far)
  let b := entryFmt e (ldAddr near)
  chainOf a b o.t ≠ none ∧ localAligned a (ldAddr far) (ldPitch far) o.e0 o.e1 = true
    ∧ localAligned b (ldAddr near) (ldPitch near) o.dn o.dr = true
    ∧ Uniform e (ldAddr far) (spanOf a (ldPitch far) o.e0 o.e1 false) ∧ Uniform e (ldAddr near) (spanOf b (ldPitch near) o.dn o.dr true)

theorem copyKind_local (h : Handle) (hfar : ldRing far = false) (src dst : Nat) :
    let o := localOp .l2l near far ctl
    let a := entryFmt e src
    let b := entryFmt e dst
    copyKind s o h (some (ownSide s e src far)) (some (ownSide s e dst near))
      = if padOk s.unit.pad.banks src (spanOf a (ldPitch far) o.e0 o.e1 false) = false then some 0x26
        else if chainOf a b o.t ≠ none ∧ localAligned a src (ldPitch far) o.e0 o.e1 = true
          ∧ localAligned b dst (ldPitch near) o.dn o.dr = true then none
        else some 0x27 := by
  intro o a b
  have hkind : copyKind s o h (some (ownSide s e src far)) (some (ownSide s e dst near))
      = if padOk s.unit.pad.banks src (spanOf a (ldPitch far) o.e0 o.e1 false) = false then some 0x26
        else if chainOf a b o.t = none then some 0x27
        else if localAligned a src (ldPitch far) o.e0 o.e1 = false ∨ localAligned b dst (ldPitch near) o.dn o.dr = false then some 0x27
        else none := by
    simp [copyKind, o, a, b, localOp, CopyOp.usesHandle, formatsOf, ownSide, hfar]
  rw [hkind]
  cases localAligned a src (ldPitch far) o.e0 o.e1 <;> cases localAligned b dst (ldPitch near) o.dn o.dr <;>
    by_cases hc : chainOf a b o.t = none <;> simp [hc]

/-- The KIND with which a copy between addresses ends as it begins, if any. -/
def beginKind (s : State) (e : QEntry) (near far ctl : W64) : Option Nat :=
  let o := localOp .l2l near far ctl
  let x := some (ownSide s e (ldAddr far) far)
  let y := some (ownSide s e (ldAddr near) near)
  let kind := copyKind s o (Handle.of [0#64]) x y
  if kind.isNone && (mixedBanks s e x o.e0 o.e1 false || mixedBanks s e y o.dn o.dr true) then some 0x27 else kind

section Kind

variable (hnear : ldRing near = false) (hfar : ldRing far = false)
include hfar

theorem beginKind_outside (h : ¬SourceFits s.unit e far ctl) : beginKind s e near far ctl = some 0x26 := by
  have hkind : copyKind s (localOp .l2l near far ctl) (Handle.of [0#64]) (some (ownSide s e (ldAddr far) far))
      (some (ownSide s e (ldAddr near) near)) = some 0x26 :=
    (copyKind_local _ hfar _ _).trans (if_pos (Bool.eq_false_of_not_eq_true h))
  simp [beginKind, hkind]

include hnear

theorem beginKind_fits (h : SourceFits s.unit e far ctl) (hf : FormatsFit e near far ctl) : beginKind s e near far ctl = none := by
  obtain ⟨hchain, hal, hbl, hua, hub⟩ := hf
  have hkind : copyKind s (localOp .l2l near far ctl) (Handle.of [0#64]) (some (ownSide s e (ldAddr far) far))
      (some (ownSide s e (ldAddr near) near)) = none :=
    (copyKind_local _ hfar _ _).trans ((if_neg (ne_false_of_eq_true h)).trans (if_pos ⟨hchain, hal, hbl⟩))
  simp only [beginKind, hkind, (mixedBanks_own hfar _ _ _ _).2 hua, (mixedBanks_own hnear _ _ _ _).2 hub]
  rfl

theorem beginKind_unfit (h : SourceFits s.unit e far ctl) (hf : ¬FormatsFit e near far ctl) : beginKind s e near far ctl = some 0x27 := by
  have hkind := (copyKind_local (s := s) (e := e) (near := near) (ctl := ctl) (Handle.of [0#64]) hfar (ldAddr far) (ldAddr near)).trans
    (if_neg (ne_false_of_eq_true h))
  split at hkind
  · next hrows =>
    have hmixed : (mixedBanks s e (some (ownSide s e (ldAddr far) far)) (localOp .l2l near far ctl).e0 (localOp .l2l near far ctl).e1 false
        || mixedBanks s e (some (ownSide s e (ldAddr near) near)) (localOp .l2l near far ctl).dn (localOp .l2l near far ctl).dr true) = true := by
      by_contra hm
      rw [Bool.not_eq_true, Bool.or_eq_false_iff, mixedBanks_own hfar, mixedBanks_own hnear] at hm
      obtain ⟨hchain, hal, hbl⟩ := hrows
      exact hf ⟨hchain, hal, hbl, hm⟩
    simp only [beginKind, hkind, hmixed]
    rfl
  · simp only [beginKind, hkind]
    rfl

end Kind

/-- A copy between addresses begins with its checks. -/
theorem copyBegin_local (hready : readyEntry s.unit i = some e) (hcmd : e.cmd = .cpyL2l near far ctl) (hhalt : e.halt = .none)
    (hst : e.stage = .waiting) (hnear : ldRing near = false) (hfar : ldRing far = false) :
    copyBegin s i = beginChecks s i e (localOp .l2l near far ctl) (ldAddr far) (ldAddr near) [] := by
  simp only [copyBegin, hready, hcmd, copyOp, hhalt, hst, srcRing_local, hfar, reserveDst_local hnear]
  rfl

/-- The checks, made on the entry that has taken its addresses, pass or name a KIND (R248). -/
theorem beginChecks_local {e' : QEntry} (he : e' = { e with stage := .begun (ldAddr far) (ldAddr near) [] [] }) :
    beginChecks s i e (localOp .l2l near far ctl) (ldAddr far) (ldAddr near) [] = (beginKind (headed s i e') e' near far ctl).elim
      (headed s i { e with stage := .begun (ldAddr far) (ldAddr near) [] [0#64] })
      fun k => failCopy (headed s i e') i e' (localOp .l2l near far ctl) [] k 0#4 0#64 := by
  subst he
  rw [beginChecks, if_pos (show (!(localOp .l2l near far ctl).usesHandle) = true from rfl)]
  simp only [sidesOf_local]
  change (match beginKind (headed s i _) _ near far ctl with | some k => _ | none => _) = _
  cases beginKind (headed s i _) _ near far ctl with
  | none => exact headed_headed s i _ _
  | some k => rfl

/-- The checks of a copy between addresses: it begins, or ends with the KIND of the first that fails. -/
theorem copyBegin_local_cases (hi : i < 2) (hready : readyEntry s.unit i = some e) (hcmd : e.cmd = .cpyL2l near far ctl)
    (hhalt : e.halt = .none) (hst : e.stage = .waiting) (hnear : ldRing near = false) (hfar : ldRing far = false) :
    (SourceFits s.unit e far ctl → FormatsFit e near far ctl →
      copyBegin s i = headed s i { e with stage := .begun (ldAddr far) (ldAddr near) [] [0#64] })
    ∧ (¬SourceFits s.unit e far ctl → EndsWithError s i e.ord 0x26 (copyBegin s i))
    ∧ (SourceFits s.unit e far ctl → ¬FormatsFit e near far ctl → EndsWithError s i e.ord 0x27 (copyBegin s i)) := by
  obtain ⟨e', he⟩ : ∃ e', e' = { e with stage := .begun (ldAddr far) (ldAddr near) [] [] } := ⟨_, rfl⟩
  have hcmd' : e'.cmd = .cpyL2l near far ctl := he ▸ hcmd
  have hord : e'.ord = e.ord := he ▸ rfl
  have hformats : FormatsFit e' near far ctl ↔ FormatsFit e near far ctl := he ▸ Iff.rfl
  have hsource : SourceFits (headed s i e').unit e' far ctl ↔ SourceFits s.unit e far ctl := by
    have hpad : (headed s i e').unit.pad = s.unit.pad := (setHead_only s.unit i e').pad
    rw [SourceFits, hpad]
    exact he ▸ Iff.rfl
  rw [copyBegin_local hready hcmd hhalt hst hnear hfar, beginChecks_local he, ← hformats, ← hsource, ← hord]
  refine ⟨fun h hf => ?_, fun h => ?_, fun h hf => ?_⟩
  · rw [beginKind_fits hnear hfar h hf]
    rfl
  · rw [beginKind_outside hfar h]
    exact failCopy_headed hi hcmd' hfar (by decide)
  · rw [beginKind_unfit hnear hfar h hf]
    exact failCopy_headed hi hcmd' hfar (by decide)

/-! ### Performing (R206, R232, R237, R239) -/

/-- The slot that a copy took of its source ring, if it has one, is freed (R206). -/
def sourceFreed (far : W64) (src : Nat) (p : Pad) : Pad :=
  if ldRing far then modRing p (ldQ far) fun r => r.freeAt (r.adv (w16 ((src - r.base) / r.size)) 0) else p

theorem freeSource_local (src : Nat) :
    freeSource s (localOp .l2l near far ctl) src = s.mapUnit fun u => { u with pad := sourceFreed far src u.pad } := by
  unfold freeSource sourceFreed
  rw [srcRing_local]
  cases ldRing far with
  | false => rfl
  | true =>
    cases hr : ringAt s.unit.pad (ldQ far) with
    | none => simp [hr, modRing, State.mapUnit]
    | some r => simp [hr, engFree, modPad_own, modRing, upto, State.mapUnit]

/-- The rows of a copy as its chain gives them, in the order of the source, with its flags (R237). -/
def convertedRows (p : Pad) (e : QEntry) (near far ctl : W64) (src dst : Nat) : List (List Cell) × BitVec 6 :=
  let o := localOp .l2l near far ctl
  let a := entryFmt e src
  let b := entryFmt e dst
  convertRows ((chainOf a b o.t).getD .same) a (fmtOf b) (localRows p a src (ldPitch far) o.e0 o.e1)

/-- The scratchpad with a copy's rows written. -/
def rowsWritten (p : Pad) (e : QEntry) (near far ctl : W64) (src dst : Nat) : Pad :=
  let o := localOp .l2l near far ctl
  let out := (convertedRows p e near far ctl src dst).1
  putRows p (entryFmt e dst) dst (ldPitch near) (if o.t then transpose o.e0 out else out)

theorem vcheck_nil (s : State) (w : Who) (kind : Nat) : vcheck s w kind [] = (s, .ok ⟨⟩) := rfl

theorem moveCopy_local (src dst : Nat) (ws : List W64) : moveCopy s i e (localOp .l2l near far ctl) src dst [] ws
    = doneCopy (s.mapUnit fun u => { u with pad := rowsWritten s.unit.pad e near far ctl src dst }) i (localOp .l2l near far ctl) src []
      (convertedRows s.unit.pad e near far ctl src dst).2 false := by
  have hhandle : (localOp .l2l near far ctl).usesHandle = false := rfl
  have hform : ((localOp .l2l near far ctl).form == .l2g) = false := rfl
  simp only [moveCopy, sidesOf_local, ownSide, padOf_own, formatsOf, hhandle, hform, Bool.false_eq_true, if_false, Bool.false_and, vcheck_nil,
    modPad_own, rowsWritten, convertedRows, State.mapUnit]

theorem doneCopy_local (src : Nat) (fl : BitVec 6) : doneCopy s i (localOp .l2l near far ctl) src [] fl false
    = finishEntry (s.mapUnit fun u => { u with
        pad := sourceFreed far src u.pad, cr := { u.cr with cpystat := u.cr.cpystat ||| (fl.setWidth 64 &&& 0x1F#64) } }) i := by
  rw [doneCopy, List.foldl_nil, freeSource_local]
  simp only [copyStat, State.mapCr, State.mapUnit, Bool.false_eq_true, if_false, BitVec.or_zero]

/-- The unit once the copy has moved its rows: they are written, its source slot is freed, and its flags are in CR.CPYSTAT. -/
def rowsMoved (u : Unit) (e : QEntry) (near far ctl : W64) (src dst : Nat) : Unit :=
  { u with
    pad := sourceFreed far src (rowsWritten u.pad e near far ctl src dst)
    cr := { u.cr with cpystat := u.cr.cpystat ||| ((convertedRows u.pad e near far ctl src dst).2.setWidth 64 &&& 0x1F#64) } }

theorem queueOf_rowsMoved (u : Unit) (src dst : Nat) : queueOf (rowsMoved u e near far ctl src dst) i = queueOf u i :=
  queueOf_update u _ _ _ _ i

theorem copyPerform_local {src dst : Nat} {w : W64} {ws : List W64} (hready : readyEntry s.unit i = some e)
    (hcmd : e.cmd = .cpyL2l near far ctl) (hhalt : e.halt = .none) (hst : e.stage = .begun src dst [] (w :: ws)) :
    copyPerform s i = finishEntry (s.mapUnit fun u => rowsMoved u e near far ctl src dst) i := by
  have hmove : copyPerform s i = moveCopy s i e (localOp .l2l near far ctl) src dst [] (w :: ws) := by
    have hladle : (localOp .l2l near far ctl).ladle.isSome = false := rfl
    have hpeer : ((localOp .l2l near far ctl).form == .pePush || (localOp .l2l near far ctl).form == .pePull) = false := rfl
    simp only [copyPerform, hready, hcmd, copyOp, hhalt, hst, hladle, hpeer, Bool.false_and, Bool.false_eq_true, if_false]
  rw [hmove, moveCopy_local, doneCopy_local]
  simp only [State.mapUnit, rowsMoved]

theorem bytes_sourceFreed (src : Nat) (p : Pad) : (sourceFreed far src p).bytes = p.bytes := by
  unfold sourceFreed
  split
  · exact bytes_modRing p _ _
  · rfl

/-- Equal formats without scales move as they are (R237). -/
theorem chainOf_unscaled {a b : W64} (hf : fmtOf a = fmtOf b) (hm : metaBytes b = 0) : chainOf a b false = some .same := by
  obtain ⟨hmx, hasym⟩ := metaBytes_eq_zero.1 hm
  have h8 : fmtOf b ≠ 8 := fun h => by rw [h] at hmx; exact absurd hmx (by decide)
  simp [chainOf, hf, hasym, h8]

/-- One row of a format without scales arrives byte for byte. -/
theorem bytes_rowsWritten {src dst : Nat} (p : Pad) (hf : fmtOf (entryFmt e src) = fmtOf (entryFmt e dst))
    (hm : metaBytes (entryFmt e dst) = 0) (hrow : (localOp .l2l near far ctl).e1 = 1) (ht : (localOp .l2l near far ctl).t = false) :
    (rowsWritten p e near far ctl src dst).bytes
      = writeBytes p.bytes dst (readBytes p.bytes src (rowBytes (entryFmt e dst) (localOp .l2l near far ctl).e0)) := by
  simp only [rowsWritten, convertedRows, ht, hrow, chainOf_unscaled hf hm, Option.getD_some, convertRows, Bool.false_eq_true, if_false]
  exact bytes_putRows_localRows p hf hm _ _ _ _ _

/-! ### The copy at the head of its queue -/

theorem bit01_lt_two (b : Bool) : bit01 b < 2 := by cases b <;> decide

end LocalCopy

/-- Settles O49: a copy fires or begins by the answer of its ring and of its checks, and one that has begun moves its rows. -/
theorem localCopyBeginsAndPerforms : Obligations.LocalCopyBeginsAndPerforms := by
  intro s cq1 e near far ctl i o u sw head hready hcmd hhalt hnear
  have hi : i < 2 := bit01_lt_two cq1
  refine ⟨?_, ?_, ?_⟩
  · intro r hst hfar hr shown taken
    exact ⟨fun h => congrArg _ (copyFire_local_fires hready hcmd hst hfar hr hnear h),
      fun h => congrArg _ (copyFire_local_waits hready hcmd hst hfar hr h)⟩
  · intro hst hfar a b fits fails uniform fit
    obtain ⟨hgo, houtside, hunfit⟩ := copyBegin_local_cases hi hready hcmd hhalt hst hnear hfar
    have hfails : ∀ {kind}, EndsWithError s i e.ord kind (copyBegin s i) → fails (BitVec.ofNat 8 kind) :=
      fun h => ⟨_, rfl, h.pad, h.nc, h.queue, h.qerr, h.g, h.dram, h.deferred⟩
    exact ⟨fun h hf => congrArg _ (hgo h hf), fun h => hfails (houtside h), fun h hf => hfails (hunfit h hf)⟩
  · intro src dst hst rows out pad
    have hdone := copyPerform_local hready hcmd hhalt hst
    have h := finishEntry_leaves (s.mapUnit fun u => rowsMoved u e near far ctl src dst) hi
    refine ⟨_, congrArg Host.Outcome.next hdone, h.nc, h.queue.trans (congrArg List.tail (queueOf_rowsMoved s.unit src dst)), h.g, h.dram, h.llc,
      h.deferred, h.pad, h.cr, fun hf hm hrow ht q => ?_⟩
    have hbytes := (congrArg Pad.bytes h.pad).trans ((bytes_sourceFreed src _).trans (bytes_rowsWritten u.pad hf hm hrow ht))
    rw [hbytes]
    exact readByte_moved _ _ _ _ _ _

end Sys2Proof.Machine
end

section
/-! SUPPORT. The edge latches (R188 to R193): the entries that a scale instruction puts in flight, and O37. -/

namespace Sys2Proof.Machine

/-! ### Latch entries packed into a row -/

theorem packEntries_eq (w : Nat) (f : Nat → Nat) : packEntries w f = packed w 0 (fun l => f l % 2 ^ w) 64 := by
  unfold packEntries
  generalize 64 = n
  induction n with
  | zero => rfl
  | succ n ih => rw [upto_succ, List.foldl_append, ih, packed_succ]; simp

/-- An entry of a packed row, read back from a word that holds all 64. -/
theorem packEntries_entry {n w : Nat} {f : Nat → Nat} (hn : n = w * 64) (hf : ∀ l, f l < 2 ^ w) {l : Nat} (hl : l < 64) :
    (BitVec.ofNat n (packEntries w f)).toNat / 2 ^ (w * l) % 2 ^ w = f l := by
  have hmod : ∀ i, f i % 2 ^ w < 2 ^ w := fun i => Nat.mod_lt _ (Nat.two_pow_pos w)
  have hlt : packEntries w f < 2 ^ n := by
    have h := packed_lt (off := 0) (n := 64) hmod
    rwa [Nat.zero_add, ← packEntries_eq, ← hn] at h
  have hd := packed_digit (off := 0) hmod hl
  rw [Nat.zero_add, ← packEntries_eq, Nat.mod_eq_of_lt (hf l)] at hd
  rw [BitVec.toNat_ofNat, Nat.mod_eq_of_lt hlt, hd]

section Entry

variable {f : Nat → Nat} {l : Nat}

theorem latchScale_packed (hf : ∀ l, f l < 2 ^ 16) (z : BitVec 512) (hl : l < 64) :
    latchScale ⟨BitVec.ofNat 1024 (packEntries 16 f), z⟩ l = f l :=
  packEntries_entry (n := 1024) (w := 16) rfl hf hl

theorem latchZp_packed (hf : ∀ l, f l < 2 ^ 8) (s : BitVec 1024) (hl : l < 64) :
    latchZp ⟨s, BitVec.ofNat 512 (packEntries 8 f)⟩ l = f l :=
  packEntries_entry (n := 512) (w := 8) rfl hf hl

end Entry

theorem padRead_one (p : Pad) (a : Nat) : padRead p a 1 = (readByte p.bytes a).toNat := by
  simp [padRead, readNat, readBytes, leNat]

theorem padRead_two (p : Pad) (a : Nat) : padRead p a 2 = (readByte p.bytes a).toNat + 256 * (readByte p.bytes (a + 1)).toNat := by
  simp [padRead, readNat, readBytes, leNat]

theorem padRead_lt (p : Pad) (a n : Nat) : padRead p a n < 256 ^ n := by
  simpa [padRead, readNat] using leNat_lt (readBytes p.bytes a n)

/-! ### One entry alone (SLSET) -/

/-- A field of w bits placed at entry i of a word of n bits. -/
theorem placed_entry {n w i v : Nat} (hn : w * (i + 1) ≤ n) (hv : v < 2 ^ w) :
    (BitVec.ofNat n (v * 2 ^ (w * i))).toNat / 2 ^ (w * i) % 2 ^ w = v := by
  have hlt : v * 2 ^ (w * i) < 2 ^ n := calc
    v * 2 ^ (w * i) < 2 ^ w * 2 ^ (w * i) := Nat.mul_lt_mul_of_pos_right hv (Nat.two_pow_pos _)
    _ = 2 ^ (w * (i + 1)) := by rw [← Nat.pow_add]; congr 1; ring
    _ ≤ 2 ^ n := Nat.pow_le_pow_right (by decide) hn
  rw [BitVec.toNat_ofNat, Nat.mod_eq_of_lt hlt, Nat.mul_div_cancel _ (Nat.two_pow_pos _), Nat.mod_eq_of_lt hv]

/-- The bits of the entry i of w bits, of a word of n bits. -/
theorem entryMask_bit (n w i k : Nat) (hk : k < n) :
    (BitVec.ofNat n ((2 ^ w - 1) * 2 ^ (w * i))).getLsbD k = true ↔ w * i ≤ k ∧ k < w * i + w := by
  rw [BitVec.getLsbD_ofNat, decide_eq_true hk, Bool.true_and, Nat.testBit_mul_two_pow, Nat.testBit_two_pow_sub_one]
  simp only [Bool.and_eq_true, decide_eq_true_eq]
  omega

/-! ### The slots -/

/-- Whether the bank that holds a local address has an asymmetric format, as SLW and SLN test it (R192). -/
def AsymAt (p : Pad) (va : W64) : Prop := va.toNat < 0x200000 ∧ fmtAsym (fmtOf (bankFmt p va.toNat)) = true

/-- The latches that a pair of 2 bytes of SCALE and 1 byte of ZP every 4 bytes gives. -/
def pairedLatches (p : Pad) (va : Nat) : Latches :=
  ⟨BitVec.ofNat 1024 (packEntries 16 fun l => padRead p (va + 4 * l) 2), BitVec.ofNat 512 (packEntries 8 fun l => padRead p (va + 4 * l + 2) 1)⟩

/-- The latches that one byte of SCALE gives, and those of one byte of ZP. -/
def scaleLatches (p : Pad) (va : Nat) : Latches := ⟨BitVec.ofNat 1024 (packEntries 16 fun l => padRead p (va + l) 1), 0#512⟩
def zeroPointLatches (p : Pad) (va : Nat) : Latches := ⟨0#1024, BitVec.ofNat 512 (packEntries 8 fun l => padRead p (va + l) 1)⟩

/-- What SLW and SLN answer, by the layout of the bank. -/
theorem loadLatches_eq (north : Bool) (a : BitVec 6) (x : Option Limm) (s : State) {va : W64} (hva : addrOf s.unit a x = va) :
    (AsymAt s.unit.pad va → loadLatches north a x s = (bytesTrap s.unit.pad.banks va 256).elim
      (pushLatch s north (BitVec.allOnes 1024) (BitVec.allOnes 512) (pairedLatches s.unit.pad va.toNat)) fun c => .trap c 0#12)
    ∧ (¬AsymAt s.unit.pad va → loadLatches north a x s = (bytesTrap s.unit.pad.banks va 64).elim
      (pushLatch s north (BitVec.allOnes 1024) 0#512 (scaleLatches s.unit.pad va.toNat)) fun c => .trap c 0#12) := by
  have hb : (decide (va.toNat < Config.padBytes) && fmtAsym (fmtOf (bankFmt s.unit.pad va.toNat))) = true ↔ AsymAt s.unit.pad va := by
    rw [Bool.and_eq_true, decide_eq_true_eq]; rfl
  refine ⟨fun h => ?_, fun h => ?_⟩
  · simp only [loadLatches, hva, hb.2 h, if_true]
    cases bytesTrap s.unit.pad.banks va 256 <;> rfl
  · simp only [loadLatches, hva, Bool.eq_false_iff.2 (mt hb.1 h), Bool.false_eq_true, if_false]
    cases bytesTrap s.unit.pad.banks va 64 <;> rfl

section Slot

variable {i : Instr} {s : State} {a : BitVec 6} {g : BitVec 4} {x : Option Limm} {north : Bool}
  (hx : exec i s = issueOne false false (slotWords i) false (fun s => guarded g s (loadLatches north a x)) s)
  (hg : guardOn g (landDue s).unit = true)

include hx hg

theorem loadLatches_paired (h : AsymAt (landDue s).unit.pad (addrOf (landDue s).unit a x))
    (ht : bytesTrap (landDue s).unit.pad.banks (addrOf (landDue s).unit a x) 256 = none) :
    Lands i s 3 (.latch north (BitVec.allOnes 1024) (BitVec.allOnes 512)
      (pairedLatches (landDue s).unit.pad (addrOf (landDue s).unit a x).toNat)) 0#6 :=
  lands_of_go hx hg (((loadLatches_eq north a x (atIssue _ s) rfl).1 h).trans (congrArg (Option.elim · _ _) ht))

theorem loadLatches_scales (h : ¬AsymAt (landDue s).unit.pad (addrOf (landDue s).unit a x))
    (ht : bytesTrap (landDue s).unit.pad.banks (addrOf (landDue s).unit a x) 64 = none) :
    Lands i s 3 (.latch north (BitVec.allOnes 1024) 0#512
      (scaleLatches (landDue s).unit.pad (addrOf (landDue s).unit a x).toNat)) 0#6 :=
  lands_of_go hx hg (((loadLatches_eq north a x (atIssue _ s) rfl).2 h).trans (congrArg (Option.elim · _ _) ht))

theorem loadLatches_traps {n c : Nat} (hn : (AsymAt (landDue s).unit.pad (addrOf (landDue s).unit a x) ∧ n = 256)
      ∨ (¬AsymAt (landDue s).unit.pad (addrOf (landDue s).unit a x) ∧ n = 64))
    (ht : bytesTrap (landDue s).unit.pad.banks (addrOf (landDue s).unit a x) n = some c) : Traps i s c 0#12 := by
  obtain ⟨h, rfl⟩ | ⟨h, rfl⟩ := hn
  · exact traps_of_trap hx hg (((loadLatches_eq north a x (atIssue _ s) rfl).1 h).trans (congrArg (Option.elim · _ _) ht))
  · exact traps_of_trap hx hg (((loadLatches_eq north a x (atIssue _ s) rfl).2 h).trans (congrArg (Option.elim · _ _) ht))

end Slot

section Scale

variable {s : State} {a : BitVec 6} {e : Bool} {g : BitVec 4} {x : Option Limm} (hg : guardOn g (landDue s).unit = true)

include hg

theorem slzp_lands (ht : bytesTrap (landDue s).unit.pad.banks (addrOf (landDue s).unit a x) 64 = none) :
    Lands (.slzp a e g x) s 3 (.latch e 0#1024 (BitVec.allOnes 512)
      (zeroPointLatches (landDue s).unit.pad (addrOf (landDue s).unit a x).toNat)) 0#6 :=
  lands_of_go rfl hg (by simp only [addrOf_atIssue, pad_atIssue, ht]; rfl)

theorem slset_lands (i : BitVec 6) : Lands (.slset a e i g) s 3 (.latch e (BitVec.ofNat 1024 ((2 ^ 16 - 1) * 2 ^ (16 * i.toNat)))
    (BitVec.ofNat 512 ((2 ^ 8 - 1) * 2 ^ (8 * i.toNat)))
    ⟨BitVec.ofNat 1024 (fld (gReg (landDue s).unit a) 0 16 * 2 ^ (16 * i.toNat)),
      BitVec.ofNat 512 (fld (gReg (landDue s).unit a) 16 8 * 2 ^ (8 * i.toNat))⟩) 0#6 :=
  lands_of_go rfl hg rfl

end Scale

/-- Settles O37: the slots put packed rows of latches in flight, whose entries are the bytes of the bank. -/
theorem scaleLatchWrites : Obligations.ScaleLatchWrites := by
  intro s a i e g x hg u va byte asym all
  have hbyte : ∀ k, padRead u.pad k 1 < 2 ^ 8 := fun k => padRead_lt u.pad k 1
  have hall : ∀ (ins : Instr) (north : Bool),
      exec ins s = issueOne false false (slotWords ins) false (fun s => guarded g s (loadLatches north a x)) s → all ins north := by
    intro ins north hx
    refine ⟨fun h ht => ⟨_, loadLatches_paired hx hg h ht, fun l hl => ⟨?_, ?_⟩⟩,
      fun h ht => ⟨_, loadLatches_scales hx hg h ht, fun l hl => ?_⟩,
      fun c ht => ?_⟩
    · exact (latchScale_packed (fun k => padRead_lt u.pad _ 2) _ hl).trans (padRead_two u.pad _)
    · exact (latchZp_packed (fun k => hbyte _) _ hl).trans (padRead_one u.pad _)
    · exact (latchScale_packed (fun k => (hbyte _).trans (by decide)) _ hl).trans (padRead_one u.pad _)
    · by_cases h : asym
      · rw [if_pos h] at ht
        exact loadLatches_traps hx hg (.inl ⟨h, rfl⟩) ht
      · rw [if_neg h] at ht
        exact loadLatches_traps hx hg (.inr ⟨h, rfl⟩) ht
  refine ⟨hall _ false rfl, hall _ true rfl, fun ht => ⟨_, slzp_lands hg ht, fun l hl => ?_⟩, _, _, _,
    slset_lands hg i, ?_, ?_, fun k hk => ⟨?_, fun hz => ?_⟩⟩
  · exact (latchZp_packed (fun k => hbyte _) _ hl).trans (padRead_one u.pad _)
  · have hfld : ∀ v, fld v 0 16 = v.toNat % 2 ^ 16 := fun v => by simp [fld]
    exact (placed_entry (by omega) (Nat.mod_lt _ (by decide))).trans (hfld _)
  · exact placed_entry (by omega) (Nat.mod_lt _ (by decide))
  · exact entryMask_bit 1024 16 i.toNat k hk
  · exact entryMask_bit 512 8 i.toNat k hz

end Sys2Proof.Machine
end

section
/-! SUPPORT. The bindings of the feeders (R174 to R178), and O36. -/

namespace Sys2Proof.Machine

/-! ### The descriptors of MFEED (R176, R177) -/

/-- A remote descriptor that names a core of the gang, its reserved bits zero (R176). -/
def RemoteWord (u : Unit) (w : W64) : Prop := w.toNat < 2 ^ 20 ∧ w.toNat / 2 ^ 10 % 4 = 0 ∧ inGang u (w.setWidth 4 : BitVec 4).toNat = true

/-- The first word of a handle descriptor in an even register: its reserved bits zero and a panel or more to fetch (R177). -/
def HandleWord (n : BitVec 6) (w : W64) : Prop := n.toNat % 2 = 0 ∧ w.toNat / 2 ^ 22 % 2 ^ 10 = 0 ∧ w.toNat / 2 ^ 32 ≠ 0

theorem fld_rest (w : W64) {lo n : Nat} (h : 64 ≤ lo + n) : fld w lo n = w.toNat / 2 ^ lo := by
  refine Nat.mod_eq_of_lt (Nat.div_lt_of_lt_mul ?_)
  rw [← Nat.pow_add]
  exact w.isLt.trans_le (Nat.pow_le_pow_right (by decide) h)

theorem fld_bottom (w : W64) (n : Nat) : fld w 0 n = (w.setWidth n).toNat := by
  simp [fld]

theorem ofNat_fld (w : W64) (lo n : Nat) : BitVec.ofNat n (fld w lo n) = (w >>> lo).setWidth n := by
  refine BitVec.eq_of_toNat_eq ?_
  simp [fld, Nat.shiftRight_eq_div_pow]

theorem remoteWord_iff (u : Unit) (w : W64) (taken : Bool) :
    (fld w 20 44 != 0 || fld w 10 2 != 0 || !inGang u (fld w 0 4) || taken) = false ↔ RemoteWord u w ∧ taken = false := by
  have h20 : fld w 20 44 = 0 ↔ w.toNat < 2 ^ 20 := by rw [fld_rest w (by decide), Nat.div_eq_zero_iff]; simp
  simp only [Bool.or_eq_false_iff, bne_eq_false_iff_eq, Bool.not_eq_false', h20, fld_bottom w 4, RemoteWord, and_assoc]
  rfl

theorem handleWord_iff (n : BitVec 6) (w : W64) :
    (n.toNat % 2 == 1 || fld w 22 10 != 0 || fld w 32 32 == 0) = false ↔ HandleWord n w := by
  have hn : (n.toNat % 2 == 1) = false ↔ n.toNat % 2 = 0 := by rw [beq_eq_false_iff_ne]; omega
  have h32 : (fld w 32 32 == 0) = false ↔ w.toNat / 2 ^ 32 ≠ 0 := by rw [beq_eq_false_iff_ne, fld_rest w (by decide)]
  simp only [Bool.or_eq_false_iff, hn, h32, bne_eq_false_iff_eq, and_assoc, HandleWord]
  rfl

/-! ### The slots -/

@[simp] theorem feederOf_atIssue (k : Nat) (s : State) (f : Bool) : feederOf (atIssue k s).unit f = feederOf (landDue s).unit f := rfl
@[simp] theorem boundRing_atIssue (k : Nat) (s : State) (f : Feeder) : boundRing (atIssue k s).unit f = boundRing (landDue s).unit f := rfl
@[simp] theorem inGang_atIssue (k : Nat) (s : State) (c : Nat) : inGang (atIssue k s).unit c = inGang (landDue s).unit c := rfl
@[simp] theorem meshTaken_atIssue (k : Nat) (s : State) (f : Bool) (w : W64) :
    meshTaken (atIssue k s).unit f w = meshTaken (landDue s).unit f w := rfl
@[simp] theorem padOf_atIssue (k : Nat) (s : State) (c : Nat) : padOf (atIssue k s) c = padOf (landDue s) c := rfl
@[simp] theorem gNat_atIssue (k : Nat) (s : State) (r : Nat) : gNat (atIssue k s).unit r = gNat (landDue s).unit r := rfl

/-- What a binding does: the beat of the array, and the binding in flight for the next issue cycle (R174). -/
def Binds (i : Instr) (s : State) (f : Bool) (src : FeedSrc) (fmt : W64) : Prop :=
  Acts i s fun v => push { v with mx := beat (landDue s).unit.mx none } 1 (.feeder f { Feeder.unbound with src := some src, fmt := fmt }) 0#6

section Slot

variable {s : State} {f : Bool} {n : BitVec 6} {g : BitVec 4} {fmt : W64} (hg : guardOn g (landDue s).unit = true)

include hg

theorem binds_of_bindLater {i : Instr} {k : State → SlotAnswer} {src : FeedSrc}
    (hx : exec i s = issueOne false false (slotWords i) false (fun s => guarded g s k) s)
    (hk : k (atIssue (slotWords i) s) = bindLater (atIssue (slotWords i) s) f src fmt) : Binds i s f src fmt :=
  acts_of_mapUnit hx hg (matrix_push_own _ _ _) hk

theorem mfeedRing_binds (hfmt : feedFormat (landDue s).unit.pad n = some fmt)
    (hfree : boundRing (landDue s).unit (feederOf (landDue s).unit !f) ≠ some n.toNat) : Binds (.mfeedRing f n g) s f (.ring n) fmt :=
  binds_of_bindLater hg rfl (by simp only [pad_atIssue, boundRing_atIssue, feederOf_atIssue, hfmt, beq_eq_false_iff_ne.2 hfree]; rfl)

theorem mfeedRing_traps (h : feedFormat (landDue s).unit.pad n = none
    ∨ boundRing (landDue s).unit (feederOf (landDue s).unit !f) = some n.toNat) : Traps (.mfeedRing f n g) s 0x1B 0#12 := by
  refine traps_of_trap rfl hg ?_
  simp only [pad_atIssue, boundRing_atIssue, feederOf_atIssue]
  cases hfmt : feedFormat (landDue s).unit.pad n with
  | none => rfl
  | some w => exact if_pos (beq_iff_eq.2 (h.resolve_left (by simp [hfmt])))

theorem mfeedMesh_binds {p : Pad} (hw : RemoteWord (landDue s).unit (gReg (landDue s).unit n))
    (hfree : meshTaken (landDue s).unit f (gReg (landDue s).unit n) = false)
    (hp : padOf (landDue s) ((gReg (landDue s).unit n).setWidth 4 : BitVec 4).toNat = some p)
    (hfmt : feedFormat p ((gReg (landDue s).unit n >>> 4).setWidth 6) = some fmt) :
    Binds (.mfeedMesh f n g) s f (.mesh (gReg (landDue s).unit n)) fmt := by
  refine binds_of_bindLater hg rfl ((if_neg (ne_true_of_eq_false ((remoteWord_iff _ _ _).2 ⟨hw, hfree⟩))).trans ?_)
  simp only [gReg_atIssue, padOf_atIssue, ofNat_fld, fld_bottom _ 4, hp, Option.bind_some, hfmt]

theorem mfeedMesh_traps (h : ¬RemoteWord (landDue s).unit (gReg (landDue s).unit n)
    ∨ meshTaken (landDue s).unit f (gReg (landDue s).unit n) = true) : Traps (.mfeedMesh f n g) s 0x1B 0#12 := by
  refine traps_of_trap rfl hg ?_
  simp only [gReg_atIssue, inGang_atIssue, meshTaken_atIssue]
  refine if_pos (Bool.eq_true_of_not_eq_false fun e => ?_)
  obtain ⟨hw, hfree⟩ := (remoteWord_iff _ _ _).1 e
  exact h.elim (· hw) (by simp [hfree])

theorem mfeedHandle_binds (hw : HandleWord n (gReg (landDue s).unit n))
    (hfmt : feedFormat (landDue s).unit.pad ((gReg (landDue s).unit n >>> 16).setWidth 6) = some fmt)
    (hfree : boundRing (landDue s).unit (feederOf (landDue s).unit !f)
      ≠ some ((gReg (landDue s).unit n >>> 16).setWidth 6 : BitVec 6).toNat) :
    Binds (.mfeedHandle f n g) s f (.handle (gReg (landDue s).unit n) (gNat (landDue s).unit (n.toNat + 1))) fmt := by
  refine binds_of_bindLater hg rfl ?_
  simp only [gReg_atIssue, gNat_atIssue, pad_atIssue, boundRing_atIssue, feederOf_atIssue, (handleWord_iff _ _).2 hw, Bool.false_eq_true, if_false,
    ofNat_fld, hfmt, beq_eq_false_iff_ne.2 hfree]

theorem mfeedHandle_traps (h : ¬HandleWord n (gReg (landDue s).unit n)
    ∨ feedFormat (landDue s).unit.pad ((gReg (landDue s).unit n >>> 16).setWidth 6) = none
    ∨ boundRing (landDue s).unit (feederOf (landDue s).unit !f) = some ((gReg (landDue s).unit n >>> 16).setWidth 6 : BitVec 6).toNat) :
    Traps (.mfeedHandle f n g) s 0x1B 0#12 := by
  refine traps_of_trap rfl hg ?_
  simp only [gReg_atIssue, pad_atIssue, boundRing_atIssue, feederOf_atIssue, ofNat_fld]
  by_cases hw : HandleWord n (gReg (landDue s).unit n)
  · rw [if_neg (ne_true_of_eq_false ((handleWord_iff _ _).2 hw))]
    cases hfmt : feedFormat (landDue s).unit.pad ((gReg (landDue s).unit n >>> 16).setWidth 6) with
    | none => rfl
    | some w => exact if_pos (beq_iff_eq.2 ((h.resolve_left (not_not_intro hw)).resolve_left (by simp [hfmt])))
  · exact if_pos (Bool.eq_true_of_not_eq_false (mt (handleWord_iff _ _).1 hw))

end Slot

/-- Settles O36: each form binds its source or traps by the checks of its descriptor and of the ring that serves it. -/
theorem feederBindings : Obligations.FeederBindings := by
  intro s f n g hg u w far other binds hq sq remote handle
  exact ⟨fun fmt => mfeedRing_binds hg, mfeedRing_traps hg, fun pad fmt => mfeedMesh_binds hg, mfeedMesh_traps hg,
    fun fmt => mfeedHandle_binds hg, mfeedHandle_traps hg⟩

end Sys2Proof.Machine
end

section
/-! SUPPORT. The slice that an MPUSH takes of its feeders and injects (R166 to R181), and O34. -/

namespace Sys2Proof.Machine

/-! ### What a beat leaves alone (R168) -/

/-- A view that no step of a fold changes. -/
theorem foldl_view {α β γ : Type} (view : α → γ) (f : α → β → α) (h : ∀ m x, view (f m x) = view m) (l : List β) (m : α) :
    view (l.foldl f m) = view m := by
  induction l generalizing m with
  | nil => rfl
  | cons x l ih => rw [List.foldl_cons, ih, h]

theorem peBeat_keeps (m : Matrix) (sl : Slice) (i j : Nat) :
    (peBeat m sl i j).slices = m.slices ∧ (peBeat m sl i j).rp = m.rp := by
  rw [peBeat_eq]
  dsimp only
  repeat' split
  all_goals exact ⟨rfl, rfl⟩

theorem sliceBeat_keeps (m : Matrix) (sl : Slice) : (sliceBeat m sl).slices = m.slices ∧ (sliceBeat m sl).rp = m.rp := by
  have h : ∀ (m : Matrix) (i : Nat), (if i ≤ sl.age && sl.age - i < 64 then peBeat m sl i (sl.age - i) else m).slices = m.slices
      ∧ (if i ≤ sl.age && sl.age - i < 64 then peBeat m sl i (sl.age - i) else m).rp = m.rp := fun m i => by
    split
    · exact peBeat_keeps m sl i _
    · exact ⟨rfl, rfl⟩
  exact ⟨foldl_view Matrix.slices _ (fun m i => (h m i).1) _ m, foldl_view Matrix.rp _ (fun m i => (h m i).2) _ m⟩

/-- The slices in flight after a beat, those that stay one beat older (R167, R168). -/
def movedOn (xs : List Slice) : List Slice := (xs.map fun x => { x with age := x.age + 1 }).filter fun x => x.age ≤ 126

theorem beat_slices (m : Matrix) (new : Option Slice) : (beat m new).slices = movedOn m.slices ++ new.toList :=
  foldl_view Matrix.slices _ (fun m sl => (sliceBeat_keeps m sl).1) _ _

theorem beat_rp (m : Matrix) (new : Option Slice) : (beat m new).rp = m.rp :=
  foldl_view Matrix.rp _ (fun m sl => (sliceBeat_keeps m sl).2) _ _

/-! ### A slice taken of a feeder (R170, R171, R175) -/

/-- u with what taking a slice may change, as in v. -/
def withTaken (u v : Unit) : Unit :=
  { u with rels := v.rels, pad := { u.pad with rings := v.pad.rings }, mx := { u.mx with west := v.mx.west, north := v.mx.north } }

theorem freeTaken_only (u : Unit) (f : Feeder) (q : BitVec 6) (r : Ring) :
    freeTaken u f q r = withTaken u (freeTaken u f q r) ∧ (freeTaken u f q r).mx = u.mx := by
  unfold freeTaken
  split <;> exact ⟨rfl, rfl⟩

theorem ringAt_freeTaken_other (u : Unit) (f : Feeder) {q k : BitVec 6} (r : Ring) (h : k ≠ q) :
    ringAt (freeTaken u f q r).pad k = ringAt u.pad k := by
  have hs : ∀ r', ringAt (setRing u.pad q r') k = ringAt u.pad k := fun r' =>
    Vector.getElem_set_ne q.isLt k.isLt fun e => h (BitVec.eq_of_toNat_eq e.symm)
  unfold freeTaken
  split <;> exact hs _

/-- What taking a slice of a feeder leaves of u: everything but that feeder, its ring and its release. -/
structure Taken (u : Unit) (north : Bool) (v : Unit) : Prop where
  only : v = withTaken u v
  other : feederOf v (!north) = feederOf u (!north)
  ring : ∀ k : BitVec 6, feederRing (feederOf u north) ≠ some k.toNat → ringAt v.pad k = ringAt u.pad k

theorem taken_refl (u : Unit) (north : Bool) : Taken u north u := ⟨rfl, rfl, fun _ _ => rfl⟩

theorem setFeeder_taken (u : Unit) (north : Bool) (f : Feeder) : Taken u north (setFeeder u north f) := by
  cases north <;> exact ⟨rfl, rfl, fun _ _ => rfl⟩

theorem feederRing_lt {f : Feeder} {q : Nat} (h : feederRing f = some q) : q < 64 := by
  unfold feederRing at h
  split at h
  · cases h
    exact BitVec.isLt _
  · cases h
    exact Nat.mod_lt _ (by decide)
  · cases h

theorem toNat_feederRing {f : Feeder} {q : Nat} (h : feederRing f = some q) : (BitVec.ofNat 6 q).toNat = q :=
  Nat.mod_eq_of_lt (feederRing_lt h)

theorem setFeeder_freeTaken_taken {u : Unit} {north : Bool} {q : Nat} (hq : feederRing (feederOf u north) = some q) (r : Ring)
    (f : Feeder) : Taken u north (setFeeder (freeTaken u (feederOf u north) (BitVec.ofNat 6 q) r) north f) := by
  obtain ⟨hv, hmx⟩ := freeTaken_only u (feederOf u north) (BitVec.ofNat 6 q) r
  have hring : ∀ k : BitVec 6, feederRing (feederOf u north) ≠ some k.toNat →
      ringAt (freeTaken u (feederOf u north) (BitVec.ofNat 6 q) r).pad k = ringAt u.pad k := fun k hk =>
    ringAt_freeTaken_other u _ r fun e => hk (by rw [hq, e, toNat_feederRing hq])
  generalize freeTaken u (feederOf u north) (BitVec.ofNat 6 q) r = v at hv hmx hring
  cases north <;> exact ⟨by rw [hv]; rfl, by simp [feederOf, setFeeder, hmx], hring⟩

/-- A slice taken, whatever the feeder's source and position. -/
theorem takeSlice_taken (u : Unit) (north : Bool) (k : Nat) : Taken u north (takeSlice u north k).2.1 := by
  unfold takeSlice
  dsimp only
  split
  · exact setFeeder_taken u north _
  · split
    · exact taken_refl u north
    · next q hq =>
      split
      · exact taken_refl u north
      · split
        · exact setFeeder_freeTaken_taken hq _ _
        · exact setFeeder_taken u north _

/-- Elements of a table by lanes of k elements. -/
theorem nth_table (F : Nat → Nat → W16) {k l e : Nat} (hl : l < 64) (he : e < k) :
    nth (nth ((upto 0 64).map fun l => (upto 0 k).map fun t => F l t) l []) e 0#16 = F l e := by
  simp [nth, upto_eq_range', hl, he]

theorem laneElem_within {row b n l e : Nat} (h : e < n) : laneElem row b n l e = elemCode row b (n * l + e) := if_pos h

section Codes

variable {u : Unit} {north : Bool} {k l e : Nat} (hl : l < 64) (he : e < k)

include hl he

/-- The elements of a panel in a ring (R171). -/
theorem takeSlice_ring {q : Nat} {r : Ring} (hq : feederRing (feederOf u north) = some q) (hr : ringAt u.pad (BitVec.ofNat 6 q) = some r)
    (hin : (feederOf u north).pos + e < 32) :
    nth (nth (takeSlice u north k).1 l []) e 0#16 = elemCode (padRead u.pad (r.addr r.head) (panelBytes (fmtOf (feederOf u north).fmt)))
      (fmtBits (fmtOf (feederOf u north).fmt)) (32 * l + (feederOf u north).pos + e) := by
  have hcodes : (takeSlice u north k).1 = (upto 0 64).map fun l => (upto 0 k).map fun t =>
      laneElem (padRead u.pad (r.addr r.head) (panelBytes (fmtOf (feederOf u north).fmt))) (fmtBits (fmtOf (feederOf u north).fmt)) 32 l
        ((feederOf u north).pos + t) := by
    unfold takeSlice
    dsimp only
    split
    · next w hw => simp [feederRing, hw] at hq
    · simp only [hq, hr]
      split <;> rfl
  rw [hcodes, nth_table _ hl he, laneElem_within hin, Nat.add_assoc]

/-- The elements of a slice received through the mesh (R176). -/
theorem takeSlice_mesh {w : W64} {flit : BitVec 1024} {rest : List (BitVec 1024)} (hw : (feederOf u north).src = some (.mesh w))
    (hf : (feederOf u north).landing = flit :: rest) (hin : (feederOf u north).pos + e < beatDepth (fmtOf (feederOf u north).fmt)) :
    nth (nth (takeSlice u north k).1 l []) e 0#16 = elemCode flit.toNat (fmtBits (fmtOf (feederOf u north).fmt))
      (beatDepth (fmtOf (feederOf u north).fmt) * l + (feederOf u north).pos + e) := by
  have hcodes : (takeSlice u north k).1 = (upto 0 64).map fun l => (upto 0 k).map fun t =>
      laneElem flit.toNat (fmtBits (fmtOf (feederOf u north).fmt)) (beatDepth (fmtOf (feederOf u north).fmt)) l
        ((feederOf u north).pos + t) := by
    simp only [takeSlice, hw, hf, nth, List.getD_cons_zero]
  rw [hcodes, nth_table _ hl he, laneElem_within hin, Nat.add_assoc]

end Codes

/-! ### The push (R167, R181) -/

/-- The unit with what an MPUSH may change, as in v. -/
def withPush (u v : Unit) : Unit :=
  { u with rels := v.rels, pad := { u.pad with rings := v.pad.rings }, mx := v.mx, l1bound := v.l1bound }

/-- The slice that a push injects (R167, R181): the next elements of both feeders, with what it carries. -/
def pushedSlice (u : Unit) (p : Bool) : Slice :=
  let k := min (beatDepth (fmtOf u.mx.west.fmt)) (beatDepth (fmtOf u.mx.north.fmt))
  let west := takeSlice u false k
  let north := takeSlice west.2.1 true k
  { age := 0, plane := p, k := k, cfg := u.mx.cfg, fmtW := u.mx.west.fmt, fmtN := u.mx.north.fmt, west := west.1, north := north.1
    sw := u.mx.sw, sn := u.mx.sn, groupN := (groupPush north.2.1.mx p k).1 }

/-- What a push leaves in the unit. -/
structure Pushes (u : Unit) (p : Bool) (v : Unit) : Prop where
  only : v = withPush u v
  rp : v.mx.rp = u.mx.rp
  slices : v.mx.slices = movedOn u.mx.slices ++ [pushedSlice u p]

theorem withTaken_trans {u v w : Unit} (h : v = withTaken u v) (k : w = withTaken v w) : w = withTaken u w := by
  rw [h] at k
  exact k

/-- An array and an L1 bound put in place after slices have been taken. -/
theorem only_of_taken {u v : Unit} (h : v = withTaken u v) (m : Matrix) (b : Vector Nat 16) :
    { v with mx := m, l1bound := b } = withPush u { v with mx := m, l1bound := b } := by
  rw [h]; rfl

theorem acquire_eq (s : State) (scope : Nat) :
    acquire s scope = { s with unit := { s.unit with l1bound := (acquire s scope).unit.l1bound } } := by
  unfold acquire
  split <;> rfl

theorem pushSlices_pushes (s : State) (p : Bool) :
    pushSlices s p = { s with unit := (pushSlices s p).unit } ∧ Pushes s.unit p (pushSlices s p).unit := by
  obtain ⟨k, hk⟩ : ∃ k, k = min (beatDepth (fmtOf s.unit.mx.west.fmt)) (beatDepth (fmtOf s.unit.mx.north.fmt)) := ⟨_, rfl⟩
  obtain ⟨v, hv⟩ : ∃ v, v = (takeSlice (takeSlice s.unit false k).2.1 true k).2.1 := ⟨_, rfl⟩
  have h : v = withTaken s.unit v := hv ▸ withTaken_trans (takeSlice_taken s.unit false k).only (takeSlice_taken _ true k).only
  have hslices : v.mx.slices = s.unit.mx.slices := congrArg (fun u => u.mx.slices) h
  have hcfg : v.mx.cfg = s.unit.mx.cfg := congrArg (fun u => u.mx.cfg) h
  have hsw : v.mx.sw = s.unit.mx.sw := congrArg (fun u => u.mx.sw) h
  have hsn : v.mx.sn = s.unit.mx.sn := congrArg (fun u => u.mx.sn) h
  unfold pushSlices
  dsimp only
  rw [acquire_eq, ← hk, ← hv]
  refine ⟨rfl, only_of_taken h _ _, (beat_rp _ _).trans (congrArg (fun u => u.mx.rp) h), (beat_slices _ _).trans ?_⟩
  simp only [pushedSlice, ← hk, ← hv, hslices, hcfg, hsw, hsn]
  rfl

section Slot

variable {s : State} {p : Bool} {g : BitVec 4} (hg : guardOn g (landDue s).unit = true)

/-- Both feeders are bound and their formats form a pair in the configuration (R172, R181). -/
def PairBound (m : Matrix) : Prop := m.west.src ≠ none ∧ m.north.src ≠ none ∧ pairOk m.cfg (fmtOf m.west.fmt) (fmtOf m.north.fmt) = true

theorem pairBound_iff (m : Matrix) :
    (m.west.src.isNone || m.north.src.isNone || !pairOk m.cfg (fmtOf m.west.fmt) (fmtOf m.north.fmt)) = false ↔ PairBound m := by
  simp [PairBound, and_assoc, Option.isSome_iff_ne_none]

include hg

theorem mpush_traps (h : ¬PairBound (landDue s).unit.mx) : Traps (.mpush p g) s 0x1A 0#12 :=
  traps_of_trap rfl hg (if_pos (Bool.eq_true_of_not_eq_false (mt (pairBound_iff _).1 h)))

theorem mpush_waits (h : PairBound (landDue s).unit.mx) (hd : (landDue s).unit.deferred = [])
    (hr : feederReady (landDue s).unit (landDue s).unit.mx.west = false ∨ feederReady (landDue s).unit (landDue s).unit.mx.north = false) :
    Waits (.mpush p g) s true := by
  have hnone : ∀ wanted, oldestDeferred (atIssue (slotWords (.mpush p g)) s).unit wanted = none := fun wanted =>
    congrArg (List.foldl _ none) (show (atIssue 1 s).unit.deferred = [] from hd)
  refine waits_of_block rfl hg ((if_neg (ne_true_of_eq_false ((pairBound_iff _).2 h))).trans ((if_pos ?_).trans ?_))
  · exact Bool.or_eq_true_iff.2 (hr.imp (congrArg not) (congrArg not))
  · rw [hnone]

theorem mpush_pushes (h : PairBound (landDue s).unit.mx) (hw : feederReady (landDue s).unit (landDue s).unit.mx.west = true)
    (hn : feederReady (landDue s).unit (landDue s).unit.mx.north = true) :
    ∃ t v, exec (.mpush p g) s = .next t ∧ Issued 1 (landDue s) t ∧ t.unit.landing = v.landing
      ∧ t = sequenced { landDue s with unit := v } t ∧ Pushes (atIssue 1 s).unit p v := by
  obtain ⟨hrest, hv⟩ := pushSlices_pushes (atIssue 1 s) p
  have hgo : slotMpush p g (atIssue 1 s) = .go { landDue s with unit := { (pushSlices (atIssue 1 s) p).unit with ctx := startCtx 1 (landDue s) } } := by
    have hctx : { (pushSlices (atIssue 1 s) p).unit with ctx := startCtx 1 (landDue s) } = (pushSlices (atIssue 1 s) p).unit := by
      rw [show startCtx 1 (landDue s) = (pushSlices (atIssue 1 s) p).unit.ctx from (congrArg Unit.ctx hv.only).symm]
    refine (guarded_atIssue 1 hg).trans ((if_neg (ne_true_of_eq_false ((pairBound_iff _).2 h))).trans ((if_neg ?_).trans ?_))
    · exact ne_true_of_eq_false (Bool.or_eq_false_iff.2 ⟨congrArg not hw, congrArg not hn⟩)
    · rw [hctx]
      exact congrArg SlotAnswer.go hrest
  obtain ⟨hi, hl, ht⟩ := retire_effect false 1 s.unit.pc (landDue s) (pushSlices (atIssue 1 s) p).unit ((congrArg Unit.pc hv.only).trans rfl)
    ((congrArg Unit.cyc hv.only).trans rfl) ((congrArg Unit.loops hv.only).trans rfl)
    (congrArg (fun u => u.cr.issued) hv.only) (congrArg (fun u => u.cr.pending) hv.only)
  exact ⟨_, _, issueOne_go hgo, hi, hl, ht, hv⟩

end Slot

/-- A completed instruction changes nothing but the unit, where its effect does not. -/
theorem rest_of_sequenced {b t : State} {v : Unit} (h : t = sequenced { b with unit := v } t) : t = { b with unit := t.unit } := calc
  t = { b with unit := (sequenced { b with unit := v } t).unit } := h
  _ = { b with unit := t.unit } := by rw [← h]

/-- Settles O34: the slot's checks, and the slice that takeSlice makes of both feeders' rings or buffers. -/
theorem matrixPushInjectsSlice : Obligations.MatrixPushInjectsSlice := by
  intro s p g hg u fw fn element bound
  refine ⟨mpush_traps hg, fun h hw hn => ?_, fun h hr hd => mpush_waits hg h hd hr⟩
  obtain ⟨t, v, hx, hi, hl, ht, hv⟩ := mpush_pushes (p := p) hg h hw hn
  have hmx : t.unit.mx = v.mx := congrArg (fun t => t.unit.mx) ht
  have hfield : ∀ {α : Type} (f : Unit → α), f t.unit = f (sequenced { landDue s with unit := withPush (atIssue 1 s).unit v } t).unit :=
    fun f => (congrArg (fun t => f t.unit) ht).trans (by rw [← hv.only])
  refine ⟨t, pushedSlice (atIssue 1 s).unit p, hx, hi, (congrArg Matrix.slices hmx).trans hv.slices, rfl, rfl, rfl, rfl, rfl, rfl, rfl, rfl,
    fun l hl e he => ⟨fun q r hq hr hin => ?_, fun q r hq hne hr hin => ?_, fun w flit rest hsrc hland hin => ?_⟩, hfield (·.g), hfield (·.v),
    hfield (·.m), hfield (·.p), hl.trans ((congrArg Unit.landing hv.only).trans rfl), (congrArg Matrix.rp hmx).trans hv.rp, hfield (·.pad.bytes),
    rest_of_sequenced ht⟩
  · exact takeSlice_ring (u := (atIssue 1 s).unit) (north := false) hl he hq hr hin
  · obtain ⟨honly, hother, hring⟩ := takeSlice_taken (atIssue 1 s).unit false (pushedSlice (atIssue 1 s).unit p).k
    have hfn : feederOf (takeSlice (atIssue 1 s).unit false (pushedSlice (atIssue 1 s).unit p).k).2.1 true = fn := hother
    have hbytes : ∀ a n, padRead (takeSlice (atIssue 1 s).unit false (pushedSlice (atIssue 1 s).unit p).k).2.1.pad a n = padRead u.pad a n :=
      fun a n => by rw [honly]; rfl
    have hr' := (hring (BitVec.ofNat 6 q) (by rwa [toNat_feederRing hq])).trans hr
    have hcode := takeSlice_ring (north := true) hl he (by rwa [hfn]) hr' (by rwa [hfn])
    rw [hfn, hbytes] at hcode
    exact hcode
  · exact takeSlice_mesh (u := (atIssue 1 s).unit) (north := false) hl he hsrc hland hin

end Sys2Proof.Machine
end

section
/-! SUPPORT. Diverts, saves and freezes of a unit (R374 to R379, R383). -/

namespace Sys2Proof.Machine

/-! ### What a trap and a halt leave (R58, R379) -/

/-- The fields of CR.FAULTINFO (R58). -/
theorem faultInfo_cause (pc : BitVec 19) (code : BitVec 12) (slot cause : Nat) : fld (faultInfo pc code slot cause) 0 8 = cause % 256 := by
  rw [fld, faultInfo, w64, BitVec.toNat_ofNat]
  omega

theorem faultInfo_pc (pc : BitVec 19) (code : BitVec 12) (slot cause : Nat) : fld (faultInfo pc code slot cause) 32 19 = pc.toNat := by
  have hpc := pc.isLt
  have hcode := code.isLt
  rw [fld, faultInfo, w64, BitVec.toNat_ofNat]
  omega

/-- A trap inside a stub: the unit is frozen at its own program counter, its results in flight still there (R378, R379). -/
theorem trapHere_stub {s : State} (h : s.unit.cr.pending = true) (slot cause : Nat) (code : BitVec 12) :
    (trapHere s slot cause code).unit.stubpc = some s.unit.pc ∧ (trapHere s slot cause code).unit.landing = s.unit.landing := by
  simp [trapHere, takeTrap, freeze, State.mapCr, State.mapUnit, unitEvent, h]

/-- The freeze of a unit in no stub, CR.FAULTINFO as it stands. -/
theorem freeze_outside {s : State} (h : s.unit.cr.pending = false) (why : FreezeReason) (pc : BitVec 19) :
    freeze s why pc = { s with
      area := some { s.area.getD (CtxArea.start s.unit) with
        resumed := none, rings := s.unit.pad.rings, v := s.unit.v, mx := s.unit.mx, pad := s.unit.pad.bytes, kind := 2
        reason := why.code, banks := s.unit.pad.banks, time := s.time, issued := s.unit.cr.issued
        savepc := pc, stubpc := none, scalar := scalarOf s.unit, snapshot := snapshotOf s.unit, landed := s.unit.ctx.landed }
      events := s.events
        ++ [⟨s.unit.cr.part, s.unit.cr.job, s.unit.cr.unit, s.unit.cr.lcore, why.code, s.unit.cr.faultinfo, s.unit.cr.ctxbase⟩]
      unit := { s.unit with
        run := .frozen why, pc := pc, landing := [], cr := { s.unit.cr with savepc := pc }
        ctx := { s.unit.ctx with tried := false, since := none } } } :=
  freeze_program h s.unit.cr.faultinfo why pc

/-! ### A context area written to memory (R384) -/

/-- A write that the core's L1 takes leaves the control registers alone. -/
theorem writePiece_cr (s : State) (w : Who) (own : Bool) (va : W64) (bs : List Byte) : (writePiece s w own va bs).1.unit.cr = s.unit.cr := by
  have h := congrArg Unit.cr (writePiece_memOnly s w va bs).unit
  cases own with
  | false => exact h
  | true =>
    unfold writePiece at h ⊢
    split at h
    · exact h
    · exact h
    · exact h
    · exact h

theorem edgeWriteL1_cr (s : State) (w : Who) (l1 : Bool) (submit : Option Nat) (va : W64) (bs : List Byte) :
    (edgeWriteL1 s w l1 submit va bs).unit.cr = s.unit.cr := by
  unfold edgeWriteL1
  refine foldl_view (fun s => s.unit.cr) _ (fun s x => ?_) _ s
  have h := writePiece_cr s w l1 x.1 x.2
  dsimp only
  split
  · next h1 => rw [h1] at h; exact h
  · next h1 =>
    rw [h1] at h
    exact (congrArg Unit.cr (hold_memOnly _ _ _ _ _ _).unit).trans h

/-- Writes at offsets from a register that they leave alone. -/
theorem foldl_edgeWriteL1_base (w : Who) (l : List (Nat × List Byte)) (s : State) :
    l.foldl (fun t r => edgeWriteL1 t w true none (t.unit.cr.ctxbase + w64 r.1) r.2) s
      = l.foldl (fun t r => edgeWriteL1 t w true none (s.unit.cr.ctxbase + w64 r.1) r.2) s := by
  have h : ∀ (l : List (Nat × List Byte)) (t : State), t.unit.cr = s.unit.cr →
      l.foldl (fun t r => edgeWriteL1 t w true none (t.unit.cr.ctxbase + w64 r.1) r.2) t
        = l.foldl (fun t r => edgeWriteL1 t w true none (s.unit.cr.ctxbase + w64 r.1) r.2) t := by
    intro l
    induction l with
    | nil => intro t _; rfl
    | cons r l ih =>
      intro t ht
      rw [List.foldl_cons, List.foldl_cons, ht, ih _ ((edgeWriteL1_cr _ _ _ _ _ _).trans ht)]
  exact h l s rfl

/-! ### Diverts and saves (R374 to R376) -/

section Save

variable {s : State}

theorem exec_drainDivert {stub : BitVec 19} (h : divertDue s = some stub) : exec .drainDivert s = .next { s with
    area := some { CtxArea.start s.unit with savepc := s.unit.pc, kind := 1, snapshot := snapshotOf s.unit, before := s.unit.nextAcc }
    unit := { s.unit with
      landing := [], pc := stub, stub := some s.unit.cyc, stubpc := none, ctx := .start
      cr := { s.unit.cr with savepc := s.unit.pc, pending := true, restore := false } } } := by
  change execDrainDivert s = _
  simp only [execDrainDivert, h]

theorem exec_drainDivert_idle (h : divertDue s = none) : exec .drainDivert s = .next s := by
  change execDrainDivert s = _
  simp only [execDrainDivert, h]

/-- The area is written as it stands before anything else (R384). -/
theorem exec_contextSave_stale {a : CtxArea} (ha : s.area = some a) (h : areaStale s = true) : exec .contextSave s
    = .next ((areaRegions s (liveArea s.unit a)).foldl
      (fun t r => edgeWriteL1 t (unitWho s.unit 15#4 3#2) true none (s.unit.cr.ctxbase + w64 r.1) r.2)
      { s with areaMem := some (s.unit.cr.ctxbase, liveArea s.unit a) }) := by
  change execContextSave s = _
  simp only [execContextSave, h, if_true, writeArea, areaNow, ha, Option.map_some]
  rw [foldl_edgeWriteL1_base]

theorem exec_contextSave (h : areaStale s = false) : exec .contextSave s = .next (saveContext s) := by
  change execContextSave s = _
  simp only [execContextSave, h, Bool.false_eq_true, if_false]

theorem saveContext_busy (h : unitQuiet s.unit = false) : saveContext s = s := by
  simp [saveContext, h]

/-- The dispatcher's note of a gang saved: its cores and its state (R373). -/
theorem saveGang_rest (s : State) (key : Nat) (seq : W16) (i g : Nat) :
    saveGang s key seq i g = { s with jobs := (saveGang s key seq i g).jobs, cores := (saveGang s key seq i g).cores } := by
  unfold saveGang
  split
  · rfl
  · split
    · rfl
    · have h := fun (t : State) => (mapGang_jobsOnly t key seq i g fun x => { x with st := .saved, ready := none }).trans (markReady_jobsOnly _)
      dsimp only
      rw [h]

theorem saveGang_unit (s : State) (key : Nat) (seq : W16) (i g : Nat) : (saveGang s key seq i g).unit = s.unit := by rw [saveGang_rest]

theorem saveGang_dram (s : State) (key : Nat) (seq : W16) (i g : Nat) : (saveGang s key seq i g).dram = s.dram := by rw [saveGang_rest]

theorem saveGang_area (s : State) (key : Nat) (seq : W16) (i g : Nat) : (saveGang s key seq i g).area = s.area := by rw [saveGang_rest]

/-- The save half's context (R376). -/
def savedArea (s : State) (a : CtxArea) : CtxArea :=
  { a with
    kind := 1, reason := 0, banks := s.unit.cr.livebanks, time := s.time, issued := s.unit.cr.issued, rings := s.unit.pad.rings, mx := s.unit.mx
    stubpc := none, pad := bankBytes s.unit.pad.bytes s.unit.cr.livebanks }

theorem saveContext_yielded {a : CtxArea} (hr : s.unit.run = .yielded) (ha : s.area = some a) (hq : unitQuiet s.unit = true) :
    saveContext s = point s (saveGang { s with
      area := some (savedArea s a), unit := { s.unit with run := .saved, request := none, stubpc := none } }
      (jobKey s.unit.cr.part s.unit.cr.job) s.unit.launch.graph s.unit.launch.launch s.unit.launch.gang) := by
  simp only [saveContext, hr, ha, hq]
  rfl

/-- A request that has met no stub, where it is late or stalls, becomes a freeze or the trap of a block timeout (R379, R383). -/
theorem exec_preemptFallback (hr : requested s.unit = true) (hd : divertDue s = none)
    (h : s.unit.ctx.since.isSome = true ∨ ∃ r, s.unit.request = some r ∧ Config.fallbackCycles ≤ s.unit.cyc - r) :
    exec .preemptFallback s = .next ((timeoutTrap s).getD (freeze s .preempt s.unit.pc)) := by
  change execPreemptFallback s = _
  obtain ⟨r, hreq⟩ : ∃ r, s.unit.request = some r := by
    simp only [requested, Bool.and_eq_true] at hr
    exact Option.isSome_iff_exists.1 hr.1.2
  have hlate : (decide (Config.fallbackCycles ≤ s.unit.cyc - r) || s.unit.ctx.since.isSome) = true := by
    obtain h | ⟨k, hk, hc⟩ := h
    · rw [h, Bool.or_true]
    · cases hreq.symm.trans hk
      rw [decide_eq_true hc, Bool.true_or]
  simp only [execPreemptFallback, hreq, hr, hd, hlate]
  rfl

theorem exec_preemptFallback_idle (hr : requested s.unit = false) : exec .preemptFallback s = .next s := by
  change execPreemptFallback s = _
  simp only [execPreemptFallback, hr, Bool.false_and, Bool.false_eq_true, if_false]

/-- A half of a stub that has run too long (R378). -/
theorem exec_stubOverrun {c : Nat} (hr : s.unit.run = .running) (hp : s.unit.cr.pending = true) (hs : s.unit.stub = some c)
    (h : Config.stubCycles ≤ s.unit.cyc - c) :
    exec .stubOverrun s = .next (trapHere { s with freeCtr := s.freeCtr + 1 } (Config.trapSlot s.freeCtr) 0x33 0#12) := by
  change execStubOverrun s = _
  simp only [execStubOverrun, hr, hp, hs, decide_eq_true h]
  rfl

theorem exec_debugHalt (hr : s.unit.run = .running) : exec .debugHalt s = .next (freeze s .halt s.unit.pc) := by
  change execDebugHalt s = _
  simp only [execDebugHalt, hr]
  rfl

end Save

/-! ### Frozen units that go on (R275, R381, R382) -/

/-- The cores, main memory, and what a unit's launch and place are: what a resume leaves alone. -/
def Settled (s t : State) : Prop :=
  t.cores = s.cores ∧ t.dram = s.dram ∧ t.unit.launch = s.unit.launch ∧ t.unit.cr.cluster = s.unit.cr.cluster ∧ t.unit.cr.pcore = s.unit.cr.pcore

theorem Settled.trans {s t u : State} (h : Settled s t) (k : Settled t u) : Settled s u := by
  obtain ⟨h1, h2, h3, h4, h5⟩ := h
  obtain ⟨k1, k2, k3, k4, k5⟩ := k
  exact ⟨k1.trans h1, k2.trans h2, k3.trans h3, k4.trans h4, k5.trans h5⟩

theorem freeze_settled (s : State) (why : FreezeReason) (pc : BitVec 19) : Settled s (freeze s why pc) := by
  unfold freeze
  dsimp only
  split
  · exact ⟨rfl, rfl, rfl, rfl, rfl⟩
  · exact ⟨rfl, rfl, rfl, rfl, rfl⟩

theorem mapCr_settled (s : State) (v : W64) : Settled s (s.mapCr fun c => { c with faultinfo := v }) := ⟨rfl, rfl, rfl, rfl, rfl⟩

theorem trapHere_settled (s : State) (slot cause : Nat) (code : BitVec 12) : Settled s (trapHere s slot cause code) :=
  trapHere_eq s slot cause code ▸ (mapCr_settled s _).trans (freeze_settled _ _ _)

/-- The fences that have been performed leave the unit's lists. -/
theorem pruneFences_rest (s : State) : pruneFences s = { s with unit := { s.unit with
    l1bound := (pruneFences s).unit.l1bound, fences := (pruneFences s).unit.fences, qfences := (pruneFences s).unit.qfences } } := rfl

/-- A bound of all classes that stands at the newest stamp stays there. -/
theorem pruneFences_l1bound {s : State} (h : s.unit.l1bound = Vector.replicate 16 s.stamp) :
    (pruneFences s).unit.l1bound = Vector.replicate 16 s.stamp := by
  ext i hi
  simp [pruneFences, h]

/-- A resume as a fence and as an acquire at package scope. -/
theorem resumeOrder_eq (s : State) : resumeOrder s = { s with unit := { s.unit with
    l1bound := Vector.replicate 16 s.stamp, fences := (resumeOrder s).unit.fences, qfences := (resumeOrder s).unit.qfences } } := by
  generalize hf : (⟨0xFFFF#16, 2#3, s.unit.nextAcc⟩ : MemFence) = f
  have h : resumeOrder s = pruneFences { s with unit := { s.unit with l1bound := Vector.replicate 16 s.stamp, fences := s.unit.fences ++ [f] } } := by
    rw [← hf]
    rfl
  rw [h]
  refine (pruneFences_rest _).trans ?_
  rw [pruneFences_l1bound rfl]

theorem resumeOrder_settled (s : State) : Settled s (resumeOrder s) := by
  rw [resumeOrder_eq]
  exact ⟨rfl, rfl, rfl, rfl, rfl⟩

theorem thaw_settled (s : State) : Settled s (thaw s) := by
  unfold thaw
  refine Settled.trans ?_ (resumeOrder_settled _)
  split
  · exact ⟨rfl, rfl, rfl, rfl, rfl⟩
  · exact ⟨rfl, rfl, rfl, rfl, rfl⟩
  · exact ⟨rfl, rfl, rfl, rfl, rfl⟩

theorem goOn_settled (s : State) (ok : Bool) : Settled s (goOn s ok) := by
  unfold goOn
  split
  · exact thaw_settled s
  · exact (thaw_settled s).trans (trapHere_settled { thaw s with freeCtr := (thaw s).freeCtr + 1 } _ _ _)

/-- A unit frozen outside a stub goes on at SAVEPC, its snapshot re-landing. -/
def relanded (u : Unit) (a : CtxArea) : Unit :=
  { u with run := .running, pc := u.cr.savepc, landing := relandFrom u a.snapshot, ctx := { IssueCtx.start with landed := a.landed } }

/-- The state of a unit that has gone on. -/
def goneOn (s : State) (a : CtxArea) : State := resumeOrder (s.mapUnit fun u => relanded u a)

theorem goneOn_eq (s : State) (a : CtxArea) : goneOn s a = { s with unit := { relanded s.unit a with
    l1bound := Vector.replicate 16 s.stamp, fences := (goneOn s a).unit.fences, qfences := (goneOn s a).unit.qfences } } :=
  resumeOrder_eq _

section GoOn

variable {s : State} {a : CtxArea} (ha : s.area = some a) (hs : s.unit.stubpc = none)
include ha hs

theorem thaw_outside : thaw s = goneOn s a := by
  simp only [thaw, hs, ha]
  rfl

theorem goOn_outside : goOn s true = goneOn s a := thaw_outside ha hs

/-- SAVEPC outside the store. -/
theorem goOn_refused : goOn s false
    = trapHere { goneOn s a with freeCtr := (goneOn s a).freeCtr + 1 } (Config.trapSlot (goneOn s a).freeCtr) 0x12 0#12 := by
  rw [← thaw_outside ha hs]
  simp only [goOn, hs]
  rfl

end GoOn

/-! ### A unit resumed (R382) -/

section Rewrite

variable {s : State} {a : CtxArea} (ha : s.area = some a) (hs : s.unit.stubpc = none)
include ha

/-- Rewrites that leave the loop stack and the scalar copy alone. -/
theorem rewrite_plain {ws : List AreaWrite} {t : State} {b : CtxArea} (h : ws.foldl rewriteOne s = t) (hb : t.area = some b)
    (hl : t.unit.loops = s.unit.loops) (hc : b.scalar = a.scalar) : rewrite s ws = t := by
  have hu : (if loopsOk t.unit.loops = true then t else t.mapUnit fun u => { u with loops := s.unit.loops }) = t := by
    rw [← hl]
    split <;> rfl
  have hd : (if loopsOk b.scalar.loops = true then b else { b with scalar := { b.scalar with loops := a.scalar.loops } }) = b := by
    rw [← hc]
    split <;> rfl
  simp only [rewrite, h, hu, hb, ha, Option.map_some, Option.elim_some, hd]
  rw [← hb]

theorem rewrite_nil : rewrite s [] = s := rewrite_plain ha rfl ha rfl rfl

include hs

theorem rewrite_g (r : BitVec 6) (v : W64) : rewrite s [.g r v] = s.mapUnit fun u => setG u r v := by
  refine rewrite_plain ha ?_ ha ?_ rfl
  · simp only [List.foldl_cons, List.foldl_nil, rewriteOne, hs, Option.isSome_none, Bool.false_eq_true, if_false]
  · exact setG_loops s.unit r v

theorem rewrite_savepc (v : W64) : rewrite s [.savepc v] = { s with
    area := some { a with savepc := v.setWidth 19 }, unit := { s.unit with cr := { s.unit.cr with savepc := v.setWidth 19 } } } := by
  refine rewrite_plain ha ?_ rfl rfl rfl
  rw [List.foldl_cons, List.foldl_nil, rewriteOne, if_neg (by simp [hs]), ha]
  rfl

end Rewrite

section Resume

variable {s : State}

theorem exec_unitResume_frozen {why : FreezeReason} (hr : s.unit.run = .frozen why) (ws : List AreaWrite) :
    exec (.unitResume ws) s = .next (goOn (rewrite s ws) (savepcOk ws)) := by
  change execUnitResume ws s = _
  simp only [execUnitResume, hr]

section Frozen

variable {t : State} {a : CtxArea} {ws : List AreaWrite} {why : FreezeReason} (hr : s.unit.run = .frozen why) (hw : rewrite s ws = t)
  (ha : t.area = some a) (hs : t.unit.stubpc = none)
include hr hw ha hs

theorem exec_unitResume_goneOn (hok : savepcOk ws = true) : exec (.unitResume ws) s = .next (goneOn t a) := by
  rw [exec_unitResume_frozen hr, hw, hok, goOn_outside ha hs]

theorem exec_unitResume_refused (hok : savepcOk ws = false) : exec (.unitResume ws) s
    = .next (trapHere { goneOn t a with freeCtr := (goneOn t a).freeCtr + 1 } (Config.trapSlot (goneOn t a).freeCtr) 0x12 0#12) := by
  rw [exec_unitResume_frozen hr, hw, hok, goOn_refused ha hs]

end Frozen

theorem savepcOk_savepc (v : W64) : savepcOk [.savepc v] = true ↔ v.toNat < 524288 ∧ v.toNat % 4 = 0 := by
  simp only [savepcOk, List.foldl_cons, List.foldl_nil, Bool.and_eq_true, beq_iff_eq, decide_eq_true_iff]
  exact Iff.rfl

theorem frozenArea_saved {u : Unit} {a : CtxArea} (hr : u.run = .saved) (hk : a.kind = 2) (hn : a.resumed = none) :
    frozenArea u (some a) = true := by
  simp [frozenArea, hr, hk, hn]

theorem resumeLater_nil {a : CtxArea} (ha : s.area = some a) : resumeLater s [] = { s with area := some { a with resumed := some true } } := by
  simp only [resumeLater, rewrite_nil ha, ha, Option.map_some]
  rfl

/-- A unit frozen off its core goes on later. -/
theorem exec_unitResume_saved {a : CtxArea} (hr : s.unit.run = .saved) (ha : s.area = some a) (hk : a.kind = 2) (hn : a.resumed = none) :
    exec (.unitResume []) s = .next { s with area := some { a with resumed := some true } } := by
  change execUnitResume [] s = _
  simp only [execUnitResume, hr, ha, frozenArea_saved hr hk hn, if_true, resumeLater_nil ha]

/-- Beside a running unit, the only unit set aside. -/
theorem exec_unitResume_aside {a : CtxArea} {b : Aside} (hr : s.unit.run = .running) (hb : s.aside = [b]) (hs : b.unit.run = .saved)
    (ha : b.area = some a) (hk : a.kind = 2) (hn : a.resumed = none) :
    exec (.unitResume []) s = .next { s with aside := [{ b with area := some { a with resumed := some true } }] } := by
  have hf : frozenArea s.unit s.area = false := by simp [frozenArea, hr]
  change execUnitResume [] s = _
  simp only [execUnitResume, hr, hf, Bool.false_eq_true, if_false, hb, List.find?_cons, ha, frozenArea_saved hs hk hn, List.map_cons,
    List.map_nil]
  rw [resumeLater_nil (s := { s with unit := b.unit, area := some a, aside := [b] }) rfl]
  simp

end Resume

/-! ### A gang placed again (R373, R377) -/

/-- The state of a gang that is placed again, and its unit on a logical core's new place. -/
def replaced (m : State) (l : LaunchId) (x : GangRef) (gang : Nat) (at_ : Placement) : State :=
  (mapGang { m with cores := m.cores ++ coresOf x at_ } (idKey l) l.graph l.launch gang fun g =>
    { g with st := .running at_, cluster := some at_.cluster, ready := none, started := m.time }).mapUnit fun u =>
      { u with launch := { u.launch with routers := physSlots x.l.rec_ at_ u.launch.slots } }

theorem replaced_eq {s m : State} (hj : JobsOnly s m) (l : LaunchId) (x : GangRef) (gang : Nat) (at_ : Placement) : replaced m l x gang at_ = { s with
    jobs := (replaced m l x gang at_).jobs, cores := s.cores ++ coresOf x at_
    unit := { s.unit with launch := { s.unit.launch with routers := physSlots x.l.rec_ at_ s.unit.launch.slots } } } := by
  have h := mapGang_jobsOnly { m with cores := m.cores ++ coresOf x at_ } (idKey l) l.graph l.launch gang fun g =>
    { g with st := .running at_, cluster := some at_.cluster, ready := none, started := m.time }
  unfold replaced
  rw [h, hj]
  rfl

theorem swapIn_none {m : State} {l : LaunchId} {gang : Nat} (h : ∀ z ∈ m.aside, z.of l gang = false) : swapIn m l gang = m := by
  have hn : m.aside.find? (fun a => a.of l gang) = none := List.find?_eq_none.2 fun z hz => by simp [h z hz]
  simp only [swapIn, hn]

/-- A saved gang of the modelled unit, at a placement that admits it. -/
theorem exec_gangResume {s : State} {l : LaunchId} {gang : Nat} {at_ : Placement} {x : GangRef} {c : BitVec 5 × BitVec 4}
    (hx : gangRef (markReady s) l gang = some x) (hg : x.g.st = .saved) (hm : mayPlace (markReady s) l.part x = true)
    (ha : admits (markReady s) l.part x.l gang (markReady s).cores at_ = true)
    (ho : ownGang s (idKey l) l.graph l.launch gang = true) (hr : s.unit.run = .saved)
    (hc : placedCore x.l.rec_ at_ s.unit.cr.lcore.toNat = some c) (hz : ∀ z ∈ s.aside, z.of l gang = false) :
    exec (.gangResume l gang at_) s = .next (afterPlacing (resumeOwn (replaced (markReady s) l x gang at_) c) x) := by
  have hj := markReady_jobsOnly s
  have ho' : (ownGang (markReady s) (idKey l) l.graph l.launch gang && (markReady s).unit.run == .saved) = true := by
    rw [Bool.and_eq_true, hj.unit, hr]
    exact ⟨by rw [hj]; exact ho, rfl⟩
  have hz' : swapIn (markReady s) l gang = markReady s := swapIn_none (by rw [hj]; exact hz)
  refine congrArg Host.Outcome.next ?_
  have hn : (x.g.st != .saved || !mayPlace (markReady s) l.part x || !admits (markReady s) l.part x.l gang (markReady s).cores at_) = false := by
    simp [hg, hm, ha]
  have hk : placedCore x.l.rec_ at_ (mapGang { markReady s with cores := (markReady s).cores ++ coresOf x at_ } (idKey l) l.graph l.launch gang fun g =>
      { g with st := .running at_, cluster := some at_.cluster, ready := none, started := (markReady s).time }).unit.cr.lcore.toNat = some c := by
    rw [(mapGang_jobsOnly _ _ _ _ _ _).unit]
    exact (congrArg (fun u : Unit => placedCore x.l.rec_ at_ u.cr.lcore.toNat) hj.unit).trans hc
  simp only [hx, hn, Bool.false_eq_true, if_false, hz', ho', if_true, hk]
  rfl

/-- The unit at its new place. -/
def placedAt (s : State) (c : BitVec 5 × BitVec 4) : State := s.mapUnit fun u => { u with cr := { u.cr with cluster := c.1, pcore := c.2 } }

/-- A frozen unit is frozen again at its new place, before it goes on. -/
def refrozen (s : State) (a : CtxArea) (c : BitVec 5 × BitVec 4) : State :=
  { placedAt s c with
    area := some { a with resumed := none }, unit := { (placedAt s c).unit with run := .frozen (freezeReason a.reason), l1 := [] } }

section ResumeOwn

variable {s : State} {a : CtxArea} (c : BitVec 5 × BitVec 4) (ha : s.area = some a)
include ha

theorem resumeOwn_stub (hk : a.kind = 1) : resumeOwn s c
    = resumeOrder { placedAt s c with
      area := some a, unit := restoreStart (placedAt s c) (placedAt s c).unit a, freeCtr := s.freeCtr + 1 } := by
  have hp : (s.mapUnit fun u => { u with cr := { u.cr with cluster := c.1, pcore := c.2 } }).area = some a := ha
  simp only [resumeOwn, hp]
  exact if_pos (beq_iff_eq.2 hk)

theorem resumeOwn_resumed (hk : a.kind ≠ 1) {ok : Bool} (hr : a.resumed = some ok) : resumeOwn s c = goOn (refrozen s a c) ok := by
  have hp : (s.mapUnit fun u => { u with cr := { u.cr with cluster := c.1, pcore := c.2 } }).area = some a := ha
  simp only [resumeOwn, hp, hr]
  exact if_neg fun h => hk (beq_iff_eq.1 h)

theorem resumeOwn_frozen (hk : a.kind ≠ 1) (hr : a.resumed = none) :
    resumeOwn s c = if a.reason == 3 then thaw (refrozen s a c) else refrozen s a c := by
  have hp : (s.mapUnit fun u => { u with cr := { u.cr with cluster := c.1, pcore := c.2 } }).area = some a := ha
  simp only [resumeOwn, hp, hr]
  exact if_neg fun h => hk (beq_iff_eq.1 h)

theorem resumeOwn_settled : Settled (placedAt s c) (resumeOwn s c) := by
  by_cases hk : a.kind = 1
  · rw [resumeOwn_stub c ha hk]
    exact Settled.trans (t := { placedAt s c with
      area := some a, unit := restoreStart (placedAt s c) (placedAt s c).unit a, freeCtr := s.freeCtr + 1 })
      ⟨rfl, rfl, rfl, rfl, rfl⟩ (resumeOrder_settled _)
  · have hf : Settled (placedAt s c) (refrozen s a c) := ⟨rfl, rfl, rfl, rfl, rfl⟩
    cases hr : a.resumed with
    | some ok =>
      rw [resumeOwn_resumed c ha hk hr]
      exact hf.trans (goOn_settled _ ok)
    | none =>
      rw [resumeOwn_frozen c ha hk hr]
      split
      · exact hf.trans (thaw_settled _)
      · exact hf

end ResumeOwn

end Sys2Proof.Machine
end

section
/-! PROOF. O57 PreemptFreezeAndResume. -/

namespace Sys2Proof.Machine

/-- Settles O57: one equation per request that diverts, saves, freezes or halts the unit, and for resumes the order of a fence and of an
acquire over the unit that goes on at SAVEPC. -/
theorem preemptFreezeAndResume : Obligations.PreemptFreezeAndResume := by
  refine ⟨fun s => ⟨fun stub h => ?_, fun h => exec_drainDivert_idle h, fun a ha h => exec_contextSave_stale ha h, fun a hr ha hq h => ?_,
    fun hq h => ?_, fun hr hd h => ?_, fun h => exec_preemptFallback_idle h, fun c hr hp hs h => ?_, fun hr hp => ?_⟩,
    fun s => ⟨fun why a ws hr ha hs => ⟨?_, ?_, ?_, ?_⟩, fun a hr ha hk hn => exec_unitResume_saved hr ha hk hn,
      fun a b hr hb hs ha hk hn => exec_unitResume_aside hr hb hs ha hk hn, ?_⟩⟩
  · exact ⟨_, _, exec_drainDivert h, rfl, rfl, rfl, rfl, rfl, rfl, rfl, rfl⟩
  · exact ⟨_, (exec_contextSave h).trans (congrArg _ (saveContext_yielded hr ha hq)),
      saveGang_unit _ _ _ _ _, saveGang_dram _ _ _ _ _, saveGang_area _ _ _ _ _⟩
  · rw [exec_contextSave h, saveContext_busy hq]
  · rw [exec_preemptFallback hr hd h]
    exact ⟨fun ht => by rw [ht]; rfl, fun t ht => by rw [ht]; rfl⟩
  · obtain ⟨hrun, hpc, hg, -, hf⟩ := trapHere_unit { s with freeCtr := s.freeCtr + 1 } (Config.trapSlot s.freeCtr) 0x33 0#12
    obtain ⟨hst, hl⟩ := trapHere_stub (s := { s with freeCtr := s.freeCtr + 1 }) hp (Config.trapSlot s.freeCtr) 0x33 0#12
    exact ⟨_, exec_stubOverrun hr hp hs h, hrun, hpc, hst, hg, by rw [hf, faultInfo_cause], by rw [hf, faultInfo_pc], hl⟩
  · refine ⟨_, _, (exec_debugHalt hr).trans (congrArg _ (freeze_outside hp _ _)), rfl, rfl, rfl, rfl, rfl, rfl, rfl, rfl, rfl, rfl⟩
  · rintro rfl
    refine ⟨_, exec_unitResume_goneOn hr (rewrite_nil ha) ha hs rfl, ?_⟩
    rw [goneOn_eq]
    exact ⟨rfl, rfl, rfl, rfl, rfl, rfl, rfl, rfl, rfl⟩
  · rintro r v rfl
    refine ⟨_, exec_unitResume_goneOn hr (rewrite_g ha hs r v) ha ((setG_stubpc _ _ _).trans hs) rfl, ?_⟩
    rw [goneOn_eq]
    exact ⟨rfl, fun k => gReg_setG s.unit r k v⟩
  · rintro v rfl hlt hal
    refine ⟨_, exec_unitResume_goneOn hr (rewrite_savepc ha hs v) rfl hs ((savepcOk_savepc v).2 ⟨hlt, hal⟩), ?_⟩
    rw [goneOn_eq]
    exact ⟨rfl, rfl, rfl⟩
  · rintro v rfl hbad hp
    have hok : savepcOk [.savepc v] = false := Bool.eq_false_iff.2 fun h => hbad ((savepcOk_savepc v).1 h)
    refine ⟨_, exec_unitResume_refused hr (rewrite_savepc ha hs v) rfl hs hok, ?_⟩
    rw [goneOn_eq]
    obtain ⟨hrun, -, hg, -, hf⟩ := trapHere_unit _ _ 0x12 0#12
    exact ⟨hrun, by rw [hf, faultInfo_cause], hg⟩
  · intro l gang at_ x a c m hx hg hm had ho hr ha hc hz
    have hb := replaced_eq (markReady_jobsOnly s) l x gang at_
    have hexec := exec_gangResume hx hg hm had ho hr hc hz
    generalize replaced (markReady s) l x gang at_ = b at hb hexec
    have hra : b.area = some a := by rw [hb]; exact ha
    have hsp : b.unit.stubpc = s.unit.stubpc := by rw [hb]
    have hsv : b.unit.cr.savepc = s.unit.cr.savepc := by rw [hb]
    have hgr : b.unit.g = s.unit.g := by rw [hb]
    obtain ⟨hcores, hdram, hlaunch, hcl, hpc⟩ := resumeOwn_settled c hra
    refine ⟨_, hexec, (congrArg UnitLaunch.routers hlaunch).trans ?_, hcores.trans ?_, hcl, hpc, hdram.trans ?_, fun hk => ?_,
      fun hk hres hst => ?_, fun hk h3 hres => ?_⟩
    · change b.unit.launch.routers = _
      rw [hb]
    · change b.cores = _
      rw [hb]
    · change b.dram = _
      rw [hb]
    · rw [resumeOwn_stub c hra hk, resumeOrder_eq]
      exact ⟨rfl, rfl, rfl, rfl, rfl, rfl, rfl⟩
    · have hs : (refrozen b a c).unit.stubpc = none := hsp.trans hst
      rw [resumeOwn_resumed c hra (by rw [hk]; decide) hres, goOn_outside rfl hs, goneOn_eq]
      exact ⟨rfl, hsv⟩
    · rw [resumeOwn_frozen c hra (by rw [hk]; decide) hres, if_neg (by simpa using h3)]
      exact ⟨rfl, hgr⟩

end Sys2Proof.Machine
end

section
/-! SUPPORT. Feeders bound to a handle or through the mesh (R174 to R179, R298). -/

namespace Sys2Proof.Machine

/-! ### Bindings that are due (R174) -/

theorem freeLeft_rest (s : State) : freeLeft s = { s with unit := (freeLeft s).unit, peers := (freeLeft s).peers } := rfl

/-- A binding that takes effect changes the unit, and frees slots of the rings of other cores. -/
theorem landBinds_rest (s : State) : landBinds s = { s with unit := (landBinds s).unit, peers := (landBinds s).peers } := by
  unfold landBinds
  rw [freeLeft_rest, landAll_rest]
  rfl

theorem landBinds_dram (s : State) : (landBinds s).dram = s.dram := by rw [landBinds_rest]

theorem queueOf_setFeeder (u : Unit) (north : Bool) (f : Feeder) (i : Nat) : queueOf (setFeeder u north f) i = queueOf u i := by
  cases north with
  | false => match i with | 0 | 1 | 2 | 3 | 4 | _ + 5 => rfl
  | true => match i with | 0 | 1 | 2 | 3 | 4 | _ + 5 => rfl

/-! ### The fetch of a panel (R177) -/

section Panel

variable {s : State} {north : Bool} {d0 d1 : W64} {r : Ring}

/-- The entry of the next panel's fetch. -/
def panelEntry (u : Unit) (north : Bool) (d0 d1 : W64) (r : Ring) : QEntry :=
  let f := feederOf u north
  ⟨u.nextAcc, nth u.seqs.toList (feederQueue north) 0#32, u.pc, BitVec.ofNat 4 (fld f.fmt 56 4), .panel north f.bind f.fetched d0 d1,
    u.pad.fmt.setIfInBounds (r.base / Config.bankBytes) f.fmt, .waiting, .none⟩

/-- The unit once the fetch has entered its queue. -/
def panelQueued (u : Unit) (north : Bool) (d0 d1 : W64) (r : Ring) : Unit :=
  let f := feederOf u north
  let v := enqueue { u with nt := u.nt + 1, pad := { u.pad with fmt := u.pad.fmt.setIfInBounds (r.base / Config.bankBytes) f.fmt } }
    (feederQueue north) (BitVec.ofNat 4 (fld f.fmt 56 4)) (.panel north f.bind f.fetched d0 d1)
  setFeeder { v with pad := { v.pad with fmt := u.pad.fmt } } north { f with fetched := f.fetched + 1 }

theorem generatePanel_queues (hsrc : (feederOf s.unit north).src = some (.handle d0 d1)) (hq : queueOf s.unit (feederQueue north) = [])
    (hr : ringAt s.unit.pad (BitVec.ofNat 6 (fld d0 16 6)) = some r) (hroom : 0 < r.room)
    (hmore : (feederOf s.unit north).fetched < fld d0 32 32) (hnt : canDraw s.unit s.unit.nt 1 = true) :
    generatePanel s north = { s with unit := panelQueued s.unit north d0 d1 r } := by
  have hlimit : 0 < queueLimit (feederQueue north) := by cases north <;> decide
  have hgo : (decide (fld d0 32 32 ≤ (feederOf s.unit north).fetched)
      || decide (queueLimit (feederQueue north) ≤ (queueOf s.unit (feederQueue north)).length) || !canDraw s.unit s.unit.nt 1
      || decide (r.room ≤ ((queueOf s.unit (feederQueue north)).filter fun e => e.stage == .waiting).length)) = false := by
    simp [hq, hmore, hnt, Nat.ne_of_gt hlimit, Nat.ne_of_gt hroom]
  unfold generatePanel
  dsimp only
  split
  · next e0 e1 he =>
    cases hsrc.symm.trans he
    simp only [hr]
    exact if_neg (Bool.eq_false_iff.1 hgo)
  · next hne => exact absurd hsrc (hne d0 d1)

/-- An empty queue: the fetcher generates the next fetch. -/
theorem exec_feederPanelFetch_empty (hq : queueOf (landBinds s).unit (feederQueue north) = []) :
    exec (.feederPanelFetch north) s = .next (generatePanel (landBinds s) north) := by
  have hready : readyEntry (landBinds s).unit (feederQueue north) = none := by simp only [readyEntry, hq]
  change execFeederPanelFetch north s = _
  simp only [execFeederPanelFetch, hready, if_true]

theorem panelQueued_queue (u : Unit) (hq : queueOf u (feederQueue north) = []) :
    queueOf (panelQueued u north d0 d1 r) (feederQueue north) = [panelEntry u north d0 d1 r] := by
  rw [panelQueued, queueOf_setFeeder]
  cases north with
  | false => exact congrArg (· ++ [panelEntry u false d0 d1 r]) hq
  | true => exact congrArg (· ++ [panelEntry u true d0 d1 r]) hq

theorem panelQueued_keeps (u : Unit) : let v := panelQueued u north d0 d1 r
    v.nt = u.nt + 1 ∧ v.pad = u.pad ∧ v.g = u.g ∧ feederOf v north = { feederOf u north with fetched := (feederOf u north).fetched + 1 } := by
  cases north with
  | false => exact ⟨rfl, rfl, rfl, rfl⟩
  | true => exact ⟨rfl, rfl, rfl, rfl⟩

end Panel

/-! ### Slices through the mesh (R176, R179) -/

/-- Slots of a ring of another core that n slices have passed are freed there. -/
def peersFreed (ps : SMap Pad) (w : W64) (n : Nat) : SMap Pad :=
  match mget ps (fld w 0 4) with
  | some p => mset ps (fld w 0 4) (modRing p (BitVec.ofNat 6 (fld w 4 6)) fun r => r.free (min r.filled n))
  | none => ps

theorem mget_peersFreed_other (ps : SMap Pad) (w : W64) (n c : Nat) (h : c ≠ fld w 0 4) : mget (peersFreed ps w n) c = mget ps c := by
  unfold peersFreed
  split
  · rw [mget_mset, if_neg h.symm]
  · rfl

theorem mget_peersFreed_source (ps : SMap Pad) (w : W64) (n : Nat) : mget (peersFreed ps w n) (fld w 0 4)
    = (mget ps (fld w 0 4)).map fun p => modRing p (BitVec.ofNat 6 (fld w 4 6)) fun r => r.free (min r.filled n) := by
  unfold peersFreed
  split
  · next p hp => rw [mget_mset, if_pos rfl, hp, Option.map_some]
  · next hp => rw [hp, Option.map_none]

/-- A feeder that takes slices into its buffer. -/
def withSlices (f : Feeder) (xs : List (BitVec 1024)) : Feeder := { f with landing := f.landing ++ xs, fetched := f.fetched + xs.length }

theorem landSlices_one (u : Unit) (north : Bool) (xs : List (BitVec 1024)) :
    landSlices u [north] xs = setFeeder u north (withSlices (feederOf u north) xs) := rfl

theorem meshDesc_of_src {f : Feeder} {w : W64} (h : f.src = some (.mesh w)) : meshDesc f = some w := by simp only [meshDesc, h]

theorem freeSlots_one (u : Unit) (north : Bool) :
    [north].foldl (fun n m => min n (4 - (feederOf u m).landing.length)) 4 = 4 - (feederOf u north).landing.length :=
  Nat.min_eq_right (Nat.sub_le _ _)

/-- A feeder with room whose slices have a slot takes them. -/
theorem takesSlices {u : Unit} {w : W64} {north : Bool} (hslot : meshSlotFor u w 1 = true) (hroom : (feederOf u north).landing.length < 4) :
    (4 - (feederOf u north).landing.length == 0 || !meshSlotFor u w [north].length) = false := by
  rw [Bool.or_eq_false_iff, List.length_singleton, hslot]
  exact ⟨beq_eq_false_iff_ne.2 (Nat.sub_ne_zero_of_lt hroom), rfl⟩

section Mesh

variable {s : State} {north : Bool} {w : W64} {xs : List (BitVec 1024)} (hsrc : (feederOf (landBinds s).unit north).src = some (.mesh w))
  (hmem : meshMembers (landBinds s).unit north = [north]) (hslot : meshSlotFor (landBinds s).unit w 1 = true)
  (hroom : (feederOf (landBinds s).unit north).landing.length < 4)
include hsrc hmem hslot hroom

theorem exec_meshFlitInject_remote (hcore : fld w 0 4 ≠ (landBinds s).unit.cr.lcore.toNat) :
    let b := landBinds s
    let f := feederOf b.unit north
    let got := xs.take (4 - f.landing.length)
    exec (.meshFlitInject north (.slices xs)) s = .next { b with
      unit := setFeeder b.unit north (withSlices f got), peers := peersFreed b.peers w (slotsPassed f.fmt f.fetched got.length) } := by
  intro b f got
  have hdesc := meshDesc_of_src hsrc
  have hgo := takesSlices hslot hroom
  change execMeshFlitInject north (.slices xs) s = _
  simp only [execMeshFlitInject, hdesc, hmem, freeSlots_one, hgo, beq_eq_false_iff_ne.2 hcore, Bool.false_eq_true, if_false]
  refine congrArg Host.Outcome.next ?_
  unfold peersFreed
  split
  · next p hp =>
    rw [show mget b.peers (fld w 0 4) = some p from hp]
    rfl
  · next hp =>
    rw [show mget b.peers (fld w 0 4) = none from hp]
    rfl

theorem exec_meshFlitInject_own (hcore : fld w 0 4 = (landBinds s).unit.cr.lcore.toNat) {x : BitVec 1024}
    (hx : localFlit (landBinds s).unit w (feederOf (landBinds s).unit north) = some x) :
    let b := landBinds s
    let f := feederOf b.unit north
    let u1 := setFeeder b.unit north (withSlices f [x])
    exec (.meshFlitInject north (.slices xs)) s = .next { b with
      unit := if slotsPassed f.fmt f.fetched 1 = 1 then { u1 with pad := modRing u1.pad (BitVec.ofNat 6 (fld w 4 6)) fun r => r.free 1 }
        else u1 } := by
  intro b f u1
  have hdesc := meshDesc_of_src hsrc
  have hgo := takesSlices hslot hroom
  change execMeshFlitInject north (.slices xs) s = _
  simp only [execMeshFlitInject, hdesc, hmem, freeSlots_one, hgo, beq_iff_eq.2 hcore, hx, landSlices_one, beq_iff_eq,
    Bool.false_eq_true, if_false, if_true]
  rfl

end Mesh

/-- The slices of the head slot have gone to feeders of other cores alone (R176). -/
theorem exec_meshFlitInject_away {s : State} {q : BitVec 6} {r : Ring} (north : Bool) (hr : ringAt (landBinds s).unit.pad q = some r)
    (hfilled : (shownRing (landBinds s).unit q r).filled ≠ 0) (hwest : boundRing (landBinds s).unit (landBinds s).unit.mx.west ≠ some q.toNat)
    (hnorth : boundRing (landBinds s).unit (landBinds s).unit.mx.north ≠ some q.toNat) :
    exec (.meshFlitInject north (.away q)) s
      = .next ((landBinds s).mapUnit fun u => { u with pad := modRing u.pad q fun r => r.free 1 }) := by
  have hgo : ((shownRing (landBinds s).unit q r).filled == 0 || boundRing (landBinds s).unit (landBinds s).unit.mx.west == some q.toNat
      || boundRing (landBinds s).unit (landBinds s).unit.mx.north == some q.toNat) = false := by
    simp [hfilled, hwest, hnorth]
  change execMeshFlitInject north (.away q) s = _
  simp only [execMeshFlitInject, freeAway, hr]
  exact congrArg _ (if_neg (Bool.eq_false_iff.1 hgo))

end Sys2Proof.Machine
end

section
/-! SUPPORT. Chunks of other packages, and copies to them that fail (R240 to R242, R492). -/

namespace Sys2Proof.Machine

/-! ### A run of bytes within one line -/

theorem linePieces_one {va : W64} {n : Nat} (fuel : Nat) (hpos : 0 < n) (hline : va.toNat % 128 + n ≤ 128) :
    linePieces (fuel + 2) va n = [(va, n)] := by
  have hk : min n (128 - va.toNat % 128) = n := Nat.min_eq_left (by omega)
  have hn : (n == 0) = false := beq_eq_false_iff_ne.2 (Nat.ne_of_gt hpos)
  simp only [linePieces, hk, hn, Nat.sub_self, beq_self_eq_true, if_true, Bool.false_eq_true, if_false]

section Line

variable {s : State} {w : Who} {va : W64}

theorem vcheck_one {n kind : Nat} {p : Place} (hpos : 0 < n) (hline : va.toNat % 128 + n ≤ 128) (h : locate s w va kind true = (s, .ok p)) :
    vcheck s w kind [(va, n)] = (s, .ok ⟨⟩) := by
  simp only [vcheck, List.flatMap_cons, List.flatMap_nil, List.append_nil, linePieces_one _ hpos hline, List.foldl_cons, List.foldl_nil, h]

theorem vwrite_one {bs : List Byte} {pa key : Nat} (hpos : bs ≠ []) (hline : va.toNat % 128 + bs.length ≤ 128)
    (h : locate s w va 1 true = (s, .ok (.mem pa key false))) :
    vwrite s w false va bs = (homeWrite s (homeOf s va.toNat pa) ((upto pa bs.length).zip bs), .ok ⟨⟩) := by
  have hp := linePieces_one (bs.length / 128) (List.length_pos_iff.2 hpos) hline
  simp only [vwrite, hp, splitPieces, List.take_length, List.foldl_cons, List.foldl_nil, writePiece, h, Bool.false_eq_true, if_false]

end Line

/-! ### A chunk arrives (R241, R242) -/

section Chunk

variable {s : State} {c : Chunk} {va : W64} {pa key : Nat}

theorem exec_peerChunkArrival_matches (hreset : mget s.pkg.resets c.part.toNat = none) (hcrc : crc32c c.payload = c.crc) :
    exec (.peerChunkArrival c) s = .next (chunkArrival s c) := by
  change execPeerChunkArrival c s = _
  simp only [execPeerChunkArrival, hreset, hcrc, bne_self_eq_false, Option.isSome_none, Bool.false_eq_true, if_false]

/-- The state after the chunk's bytes have been written, and before room is made for their line. -/
def chunkPlaced (s : State) (c : Chunk) (h : BitVec 6) (pa : Nat) : State :=
  placed (unholdChunk s c) h (pa / 128) ((upto pa c.payload.length).zip c.payload)

/-- A chunk without a landing whose bytes go to one line. -/
theorem chunkArrival_line (hland : c.land = 0#16) (hdest : c.dest = [(some va, c.payload.length)]) (hpos : c.payload ≠ [])
    (hline : va.toNat % 128 + c.payload.length ≤ 128) (hs : locate s (chunkWho c) va 1 true = (s, .ok (.mem pa key false)))
    (hs0 : locate (unholdChunk s c) (chunkWho c) va 1 true = (unholdChunk s c, .ok (.mem pa key false))) :
    let h := homeOf (unholdChunk s c) va.toNat pa
    chunkArrival s c = chunkTaken (makeRoom (chunkPlaced s c h pa) h (pa / 4096)) c := by
  intro h
  have hcheck := vcheck_one (List.length_pos_iff.2 hpos) hline hs
  have hwrite := vwrite_one hpos hline hs0
  have hruns : chunkRuns c = [(va, c.payload)] := by
    simp only [chunkRuns, hdest, splitRuns, List.take_length]
  have hwrites : (chunkWrites (unholdChunk s c) c).1 = makeRoom (chunkPlaced s c h pa) h (pa / 4096) := by
    simp only [chunkWrites, hruns, List.foldl_cons, List.foldl_nil, hwrite]
    exact homeWrite_run _ _ _ rfl (List.length_pos_iff.2 hpos)
  simp only [chunkArrival, hdest, List.filterMap_cons, List.filterMap_nil, Option.map_some, hcheck, hland, beq_self_eq_true, if_true, hwrites]

theorem memByte_chunkPlaced (h : BitVec 6) {j : Nat} (hj : j < c.payload.length) (k : Nat) :
    memByte (chunkPlaced s c h pa) k (pa + j) = nth c.payload j 0#8 := by
  have hrun : memBytes (chunkPlaced s c h pa) k pa c.payload.length = c.payload := memBytes_placed_run _ _ _ _ _ rfl
  rw [← congrArg (fun l => nth l j 0#8) hrun]
  simp [memBytes, nth, upto_eq_range', hj]

/-- The bytes that a chunk which fails its check leaves touch memory alone, and use free values (R242). -/
theorem mixRun_keeps (s : State) (w : Who) (va : W64) (bs : List Byte) : ((mixRun s w va bs).pkg, (mixRun s w va bs).unit) = (s.pkg, s.unit) := by
  refine foldl_view (fun s : State => (s.pkg, s.unit)) _ (fun s x => ?_) _ s
  dsimp only
  split
  · rfl
  · have h := vwrite_memOnly { s with freeCtr := s.freeCtr + 1 } w (w64 x.1) ((bs.drop x.2.1).take x.2.2)
    exact Prod.ext h.pkg h.unit

/-- A chunk that is not accepted is refused in a state that differs in memory and in the chunks held alone. -/
theorem exec_peerChunkArrival_refused (h : (mget s.pkg.resets c.part.toNat).isSome = true ∨ crc32c c.payload ≠ c.crc) :
    ∃ t, exec (.peerChunkArrival c) s = .next (refuseChunk t c) ∧ t.pkg.badChunks = s.pkg.badChunks ∧ t.pkg.landings = s.pkg.landings
      ∧ t.unit = s.unit := by
  by_cases hreset : (mget s.pkg.resets c.part.toNat).isSome = true
  · have hexec : execPeerChunkArrival c s = .next (refuseChunk (unholdChunk s c) c) := by
      simp only [execPeerChunkArrival, hreset, if_true]
    exact ⟨_, hexec, rfl, rfl, rfl⟩
  · have hcrc : (crc32c c.payload != c.crc) = true := bne_iff_ne.2 (h.resolve_left hreset)
    have hexec : execPeerChunkArrival c s
        = .next (refuseChunk ((chunkRuns c).foldl (fun s (va, bs) => mixRun s (chunkWho c) va bs) s) c) := by
      simp only [execPeerChunkArrival, hreset, hcrc, Bool.false_eq_true, if_false, if_true]
    obtain ⟨hpkg, hunit⟩ := Prod.mk.inj (foldl_view (fun s : State => (s.pkg, s.unit)) (fun s (va, bs) => mixRun s (chunkWho c) va bs)
      (fun s r => mixRun_keeps s (chunkWho c) r.1 r.2) (chunkRuns c) s)
    exact ⟨_, hexec, congrArg Package.badChunks hpkg, congrArg Package.landings hpkg, hunit⟩

/-- The first refusal of a chunk is remembered. -/
theorem refuseChunk_first (h : s.pkg.badChunks.contains (c.src, c.seq, c.index) = false) :
    refuseChunk s c = { s with pkg := { s.pkg with badChunks := (c.src, c.seq, c.index) :: s.pkg.badChunks } } :=
  if_neg (Bool.eq_false_iff.1 h)

/-- The second marks the chunk's landing. -/
theorem refuseChunk_second (h : s.pkg.badChunks.contains (c.src, c.seq, c.index) = true) :
    refuseChunk s c = { s with pkg := { s.pkg with
      badChunks := s.pkg.badChunks.erase (c.src, c.seq, c.index)
      landings := s.pkg.landings.map fun l => (l.1, l.2.1, l.2.2 || (l.1.part == c.part && l.1.index == c.land && c.land != 0#16)) } } :=
  if_pos h

end Chunk

/-! ### A copy to or from another package fails (R242, R249) -/

/-- What is left when the CPY.PE at the head of a copy queue has failed: its error is in CR.QERR, and there is no deferred trap. -/
structure EndsUndeferred (u : Unit) (i : Nat) (v : Unit) : Prop where
  nc : v.nc = u.nc - 1
  g : v.g = u.g
  queue : queueOf v i = (queueOf u i).tail
  qerr : v.cr.qerr = u.cr.qerr ||| BitVec.ofNat 6 (2 ^ i)
  deferred : v.deferred = u.deferred
  pad : v.pad = u.pad

theorem mapUnitJob_rest (s : State) (f : Job → Job) : mapUnitJob s f = { s with jobs := (mapUnitJob s f).jobs } := by
  unfold mapUnitJob
  dsimp only
  split
  · rfl
  · rfl

theorem mapUnitJob_unit (s : State) (f : Job → Job) : (mapUnitJob s f).unit = s.unit := by rw [mapUnitJob_rest]

section PeerFail

variable {s : State} {i : Nat} {e : QEntry}

/-- The unit with the error of a CPY.PE reported. -/
def withPeerError (u : Unit) (i handle : Nat) (seq : W32) (sig : List SigEvent) : Unit :=
  { u with cr := queueError u.cr i handle 0x28 seq, sig := sig }

theorem queueOf_withPeerError (u : Unit) (handle : Nat) (seq : W32) (sig : List SigEvent) :
    queueOf (withPeerError u i handle seq sig) i = queueOf u i := queueOf_update u _ _ _ _ i

/-- A copy that took no slot of a ring fails with KIND 0x28. -/
theorem failPeer_eq {o : CopyOp} (hsrc : o.srcRing = none) : failPeer s i e o []
    = finishEntry ((mapUnitJob s fun j => { j with failed := true }).mapUnit fun u =>
      withPeerError u i (if o.usesHandle then o.handle else 0) e.seq
        (fillSig (mapUnitJob s fun j => { j with failed := true }) e.ord (BitVec.allOnes 64)).unit.sig) i := by
  unfold failPeer
  generalize mapUnitJob s (fun j => { j with failed := true }) = m
  have hfree : freeSource m o e.src = m := by
    rw [freeSource, hsrc]
    rfl
  simp only [failCopy, hfree, ite_self, holdSlots_nil, failEntry, fillSig, State.mapUnit, withPeerError, beq_self_eq_true, if_true]

theorem failPeer_ends {o : CopyOp} (hi : i < 2) (hsrc : o.srcRing = none) : EndsUndeferred s.unit i (failPeer s i e o []).unit := by
  rw [failPeer_eq hsrc]
  have hu := mapUnitJob_unit s fun j => { j with failed := true }
  generalize mapUnitJob s (fun j => { j with failed := true }) = m at hu ⊢
  have h := finishEntry_leaves (m.mapUnit fun u =>
      withPeerError u i (if o.usesHandle then o.handle else 0) e.seq (fillSig m e.ord (BitVec.allOnes 64)).unit.sig) hi
  rw [← hu]
  exact {
    nc := h.nc
    g := h.g
    queue := h.queue.trans (congrArg List.tail (queueOf_withPeerError m.unit _ _ _))
    qerr := congrArg Cregs.qerr h.cr
    deferred := h.deferred
    pad := h.pad }

/-- The unit with its scratchpad's bytes left out. -/
def sansBytes (u : Unit) : Unit := { u with pad := { u.pad with bytes := [] } }

/-- The bytes of a pull that failed are old or delivered ones; nothing else of the unit changes (R242). -/
theorem mixNear_sansBytes (s : State) (e : QEntry) (o : CopyOp) (h : Handle) (dst : Nat) :
    sansBytes (mixNear s e o h dst).unit = sansBytes s.unit := by
  unfold mixNear
  refine foldl_view (fun s : State => sansBytes s.unit) _ (fun s k => ?_) _ _
  refine foldl_view (fun s : State => sansBytes s.unit) _ (fun s r => ?_) _ _
  refine foldl_view (fun s : State => sansBytes s.unit) _ (fun s x => ?_) _ _
  dsimp only
  split
  · rfl
  · rfl

theorem eq_of_sansBytes {u v : Unit} (h : sansBytes v = sansBytes u) : v = { u with pad := { u.pad with bytes := v.pad.bytes } } :=
  congrArg (fun x : Unit => { x with pad := { x.pad with bytes := v.pad.bytes } }) h

theorem queueOf_withPad (u : Unit) (p : Pad) (i : Nat) : queueOf { u with pad := p } i = queueOf u i := queueOf_update u p u.cr u.deferred u.sig i

/-- A pull that fails has its slot of the queue given back, and what it wrote in the scratchpad stands. -/
theorem failPull_ends {o : CopyOp} (hi : i < 2) (hsrc : o.srcRing = none) (h : Handle) (dst : Nat) :
    let v := (failPeer (mixNear s e o h dst) i e o []).unit
    EndsUndeferred s.unit i { v with pad := s.unit.pad } ∧ v.pad.rings = s.unit.pad.rings := by
  intro v
  have hv := failPeer_ends (s := mixNear s e o h dst) (e := e) hi hsrc
  have hm := eq_of_sansBytes (mixNear_sansBytes s e o h dst)
  generalize (mixNear s e o h dst).unit = m at hv hm
  have hrings : m.pad.rings = s.unit.pad.rings := by rw [hm]
  refine ⟨⟨hv.nc.trans (by rw [hm]), hv.g.trans (by rw [hm]), ?_, hv.qerr.trans (by rw [hm]), hv.deferred.trans (by rw [hm]), rfl⟩,
    (congrArg Pad.rings hv.pad).trans hrings⟩
  rw [queueOf_withPad, hv.queue, hm, queueOf_withPad]

section Exec

variable {near far0 far1 ctl : W64} {src dst : Nat} {cs : List Chunk} {w : W64} {ws : List W64} {cq1 : Bool}
  (hready : readyEntry s.unit (bit01 cq1) = some e) (hcmd : e.cmd = .cpyPe near far0 far1 ctl)
include hready hcmd

theorem exec_peerChunkFail_push (hpush : fbit ctl 57 = false) (hst : e.stage = .sent src cs ws) (second : Bool) :
    exec (.peerChunkFail cq1 second) s = .next (if second then failPeer s (bit01 cq1) e (handleOp .pePush near far0 far1 ctl 1) []
      else sendTo { s with freeCtr := s.freeCtr + 1 } ((peerOf s (Handle.of ws)).getD 0) ((cs.drop (Config.lostChunk s.freeCtr % cs.length)).take 1)) := by
  change execPeerChunkFail cq1 second s = _
  simp only [execPeerChunkFail, hready, hcmd, copyOp, hpush, hst, Bool.false_eq_true, if_false]

theorem exec_peerChunkFail_pull (hpull : fbit ctl 57 = true) (hst : e.stage = .begun src dst [] (w :: ws)) (second : Bool) :
    exec (.peerChunkFail cq1 second) s = .next (if second then
      failPeer (mixNear s e (handleOp .pePull near far0 far1 ctl 0) (Handle.of (w :: ws)) dst) (bit01 cq1) e (handleOp .pePull near far0 far1 ctl 0) []
      else s) := by
  have hform : ((handleOp .pePull near far0 far1 ctl 0).form == .pePull) = true := rfl
  change execPeerChunkFail cq1 second s = _
  simp only [execPeerChunkFail, hready, hcmd, copyOp, hpull, hst, hform, Bool.and_true, if_true]

end Exec

/-- A chunk that has been lost is one of those sent. -/
theorem take_one_drop_mod {α : Type} {cs : List α} (h : cs ≠ []) (n : Nat) : ∃ c ∈ cs, (cs.drop (n % cs.length)).take 1 = [c] := by
  have hn : n % cs.length < cs.length := Nat.mod_lt _ (List.length_pos_iff.2 h)
  exact ⟨_, List.getElem_mem hn, by rw [List.drop_eq_getElem_cons hn]; rfl⟩

end PeerFail

end Sys2Proof.Machine
end

section
/-! PROOF. O50 FeederAndPeerEvents. -/

namespace Sys2Proof.Machine

/-- Settles O50: what a feeder fetches or takes follows from its binding and the room it has; a chunk's writes are those of a run of bytes at
its home, or its refusal is counted; and a CPY.PE that fails leaves its queue with its error recorded. -/
theorem feederAndPeerEvents : Obligations.FeederAndPeerEvents := by
  intro s north cq1 b u f i
  refine ⟨?_, ?_, ?_, ?_, ?_, ?_, ?_⟩
  · intro d0 d1 r hsrc hq hr hroom hmore hnt
    obtain ⟨hn, hpad, hg, hf⟩ := panelQueued_keeps (north := north) (d0 := d0) (d1 := d1) (r := r) u
    exact ⟨_, (exec_feederPanelFetch_empty hq).trans (congrArg _ (generatePanel_queues hsrc hq hr hroom hmore hnt)), hn, hpad, hg, hf,
      landBinds_dram s, panelQueued_queue u hq⟩
  · intro w xs hsrc hmem hslot hcore hroom got
    exact ⟨_, exec_meshFlitInject_remote hsrc hmem hslot hroom hcore, rfl, rfl, fun c hc => mget_peersFreed_other _ _ _ _ hc,
      mget_peersFreed_source _ _ _⟩
  · intro w xs x hsrc hmem hslot hcore hroom hx u1
    exact exec_meshFlitInject_own hsrc hmem hslot hroom hcore hx
  · intro q r hr hfilled hwest hnorth
    exact exec_meshFlitInject_away north hr hfilled hwest hnorth
  · intro c va pa key hreset hcrc hland hdest hpos hline s0 h hs hs0
    have hexec := (exec_peerChunkArrival_matches hreset hcrc).trans (congrArg _ (chunkArrival_line hland hdest hpos hline hs hs0))
    have hroom := makeRoom_memOnly (chunkPlaced s c h pa) h (pa / 4096)
    have hunit : (chunkTaken (makeRoom (chunkPlaced s c h pa) h (pa / 4096)) c).unit = s.unit := hroom.unit.trans (placed_unit _ _ _ _)
    have hpkg : (makeRoom (chunkPlaced s c h pa) h (pa / 4096)).pkg = s0.pkg := hroom.pkg.trans (by rw [chunkPlaced, placed, splitGroups_rest])
    refine ⟨_, chunkPlaced s c h pa, hexec, congrArg Unit.g hunit, congrArg Unit.pad hunit, ?_, placed_eq _ _ _ _, rfl, rfl,
      fun j hj k => memByte_chunkPlaced h hj k, fun q hq k => memByte_placed_run_outside s0 h _ k pa q rfl hq⟩
    exact congrArg (fun p : Package => { p with badChunks := p.badChunks.filter (· != (c.src, c.seq, c.index)) }) hpkg
  · intro c hc
    obtain ⟨t, ht, hbad, hland, hunit⟩ := exec_peerChunkArrival_refused hc
    rw [← hbad, ← hland, ← hunit, ht]
    exact ⟨fun h => ⟨_, congrArg _ (refuseChunk_first h), rfl, rfl, rfl⟩, fun h => ⟨_, congrArg _ (refuseChunk_second h), rfl, rfl⟩⟩
  · intro e near far0 far1 ctl src dst w cs ws hready hcmd hnear fails
    have hi := bit01_lt_two cq1
    refine ⟨fun hpush hst => ⟨?_, fun hcs => ?_⟩, fun hpull hst => ⟨?_, ?_⟩⟩
    · have hring : (handleOp .pePush near far0 far1 ctl 1).srcRing = none := if_neg (by simp [handleOp, hnear])
      have h := failPeer_ends (s := s) (e := e) hi hring
      exact ⟨_, exec_peerChunkFail_push hready hcmd hpush hst true, h.nc, h.g, h.queue, h.qerr, h.deferred, congrArg Pad.rings h.pad, fun _ => h.pad⟩
    · obtain ⟨c, hc, htake⟩ := take_one_drop_mod hcs (Config.lostChunk s.freeCtr)
      refine ⟨c, hc, (exec_peerChunkFail_push hready hcmd hpush hst false).trans ?_⟩
      rw [htake]
      rfl
    · have hring : (handleOp .pePull near far0 far1 ctl 0).srcRing = none :=
        if_neg (show ¬ldRing 0#64 = true by decide)
      obtain ⟨h, hrings⟩ := failPull_ends (s := s) (e := e) hi hring (Handle.of (w :: ws)) dst
      exact ⟨_, exec_peerChunkFail_pull hready hcmd hpull hst true, h.nc, h.g, (queueOf_withPad _ _ _).symm.trans h.queue, h.qerr, h.deferred,
        hrings, fun hp => absurd (hpull.symm.trans hp) (by decide)⟩
    · exact exec_peerChunkFail_pull hready hcmd hpull hst false

end Sys2Proof.Machine
end
